-- ==== Sys2Proof/Word.lean ====
section
/-!
DEFINITION. The word types of the model and their plainest arithmetic.
-/
namespace Sys2Proof

/-- A byte. -/
abbrev Byte := BitVec 8
/-- A 16-bit word. -/
abbrev W16 := BitVec 16
/-- A 32-bit word. -/
abbrev W32 := BitVec 32
/-- A 64-bit word. -/
abbrev W64 := BitVec 64
/-- A device physical address (R245, R601: 48 bits). -/
abbrev Dpa := BitVec 48
/-- An agent id (R602). -/
abbrev Agent := BitVec 9
/-- An owner number (R201): 0 for the device firmware, 1 to 64 for the contexts, 0x7F for none. -/
abbrev Owner := BitVec 7
/-- A logical model address (R137). -/
abbrev Lma := BitVec 40

/-- A byte of a memory at an address. -/
abbrev Cell := Nat × BitVec 8

/-- Sparse data by key: pairs with rising keys, none of them equal to what an unlisted key reads as. -/
abbrev KMap (α : Type) := List (Nat × α)

/-- Bit `i` of a word. -/
def bit {n : Nat} (x : BitVec n) (i : Nat) : Bool := x.getLsbD i

/-- The field of `w` bits that starts at bit `lo`. -/
def fld {n : Nat} (x : BitVec n) (lo w : Nat) : BitVec w := x.extractLsb' lo w

/-- 1 for true, 0 for false. -/
def b2n (b : Bool) : Nat := if b then 1 else 0

/-- A Boolean as a word. -/
def b2w {n : Nat} (b : Bool) : BitVec n := BitVec.ofNat n (b2n b)

end Sys2Proof
end

