-- ==== Sys2Proof/Syntax.lean ====
section
/-!
DEFINITION. The commands of the block: one constructor per row of spec/opcode_table.json.

The table gives the rows no operand bits. The operands are the ones the spec's text gives each step: the agent that makes
an access, the address and the value it carries, the physical Quill whose sequencer issues, the dispatched command
(owner, queue, sequence number), and what lies outside the chip (what a host read returns, the level of a pin, a raw noise
bit, a frame from a link partner).
-/
namespace Sys2Proof

/-- What host memory answers to the reads of one step: the bytes it returns. A byte not listed is a read that failed (R592). -/
abbrev HostBytes := List Cell

/-- What the partner chip of a lock-step pair sends at its epoch end (R74) and, on a mismatch, exchanges (R75). -/
structure LsRecord where
  epoch : W64 := 0
  cCmd  : W64 := 0
  /-- C_q of logical Quill q, ascending. -/
  cQ    : List W64 := []
  /-- The 64 region digests of the lowest differing Quill, where one differs. -/
  regions : List W64 := []
  /-- The current 64-bit words of the lowest differing region, where one differs. -/
  words : List W64 := []
deriving DecidableEq, Repr

/-- Which check a received frame failed (R308, R323). -/
inductive BadKind where
  | crc | fec | sequence
deriving DecidableEq, Repr

/-- A command: one row of spec/opcode_table.json. -/
inductive Instr where
  -- time, registers and crossings
  | tick
  | pairReadLo (ag : Agent) (a : Dpa)
  | pairReadHi (ag : Agent) (a : Dpa)
  | pairWriteLo (ag : Agent) (a : Dpa) (v : W32)
  | pairWriteHi (ag : Agent) (a : Dpa) (v : W32)
  | errlogCodeRead (ag : Agent) (a : Dpa)
  | rcRegisterRead (ag : Agent) (a : Dpa)
  | registerWrite (ag : Agent) (a : Dpa) (v : W32)
  | crossingArrive (j : Nat)
  | crossingRelease (j : Nat)
  | sendLatchPlace (j : Nat)
  | flitInject (j : Nat)
  | flitRelease
  | swapBufferDeliver (j : Nat)
  | serviceWindowBegin
  | serviceWindowEnd
  | launchTick (o : Owner) (pid : BitVec 6)
  | agreedCountMissed (o : Owner) (pid : BitVec 6)
  | tickLoad
  | syncEn (v : Bool)
  | lsEnable (v : Bool)
  | lsEpochEnd
  | lsRecordReceive (r : LsRecord)
  | lsPartnerTimeout
  | lsHoldRelease
  -- Quill stores and native noise
  | storeWindowRead (ag : Agent) (a : Dpa) (len : Nat)
  | storeWindowWrite (ag : Agent) (a : Dpa) (mask : Byte) (d : W64)
  | nnCalibrationStart (q : Byte)
  | nnCalibrationEnd (q : Byte) (trims : List Byte) (met : Bool) (accepts : BitVec 13)
  -- Quill instructions
  | alu (q : Byte)
  | alui (q : Byte)
  | cmp (q : Byte)
  | pred (q : Byte)
  | addrAset (q : Byte)
  | addrAhi (q : Byte)
  | addrAadd (q : Byte)
  | addrAget (q : Byte)
  | ctrlNop (q : Byte)
  | ctrlBr (q : Byte)
  | ctrlBrr (q : Byte)
  | ctrlEnd (q : Byte)
  | ctrlLcrd (q : Byte)
  | ctrlSrrd (q : Byte)
  | loop (q : Byte)
  | pcRangeFallThrough (q : Byte)
  | ld (q : Byte)
  | st (q : Byte)
  | strokeInit (q : Byte)
  | strokePload (q : Byte)
  | strokeDense (q : Byte)
  | strokeSparse (q : Byte)
  | strokeFactor (q : Byte)
  | mmaPass (q : Byte)
  | mmaClr (q : Byte)
  | mmaStore (q : Byte)
  | acceptHb (q : Byte)
  | acceptMh (q : Byte)
  | acceptCat (q : Byte)
  | acceptMask (q : Byte)
  | var (q : Byte)
  | betaAdv (q : Byte)
  | betaSet (q : Byte)
  | betaLda (q : Byte)
  | betaLdc (q : Byte)
  | betaLds (q : Byte)
  | betaSweep (q : Byte)
  | xsend (q : Byte)
  | xrecv (q : Byte)
  | post (q : Byte)
  | clamp (q : Byte)
  | clampSample
  | clampReply (q : Byte)
  | wait (q : Byte)
  | waitQuerySatisfied (j : Nat)
  | waitReplyRelease (q : Byte)
  | signal (q : Byte)
  | signalSend (q : Byte)
  | syncIncrementApply
  | pghint (q : Byte)
  | trace (q : Byte)
  | brk (q : Byte)
  | endReportSend (q : Byte)
  | endReportReceive
  | quillExceptionReport
  | partitionStop (q : Byte)
  | launchFaultDrained (o : Owner) (pid : BitVec 6)
  | quillSwap (q : Byte)
  | swapComplete (q : Byte)
  | quillMove (q q' : Byte)
  | pageFetch (k : BitVec 2)
  | pageWalkDone (j : Nat)
  | pageResident (j : Nat) (h : HostBytes)
  -- contexts, queues and commands
  | ctxEnableSet (o : Owner)
  | ctxEnableClear (o : Owner)
  | contextDrainDone (o : Owner)
  | doorbell (o : Owner) (k : BitVec 3) (v : W32)
  | qEnable (o : Owner) (k : BitVec 3) (v : Bool)
  | ringSlotFetch (o : Owner) (k : BitVec 3) (h : HostBytes)
  | qStoppedClear (o : Owner) (k : BitVec 3)
  | headerCheck (o : Owner) (k : BitVec 3)
  | commandWaitSatisfied (o : Owner) (k : BitVec 3)
  | commandDispatch (o : Owner) (k : BitVec 3)
  | commandCompletion (o : Owner) (k : BitVec 3) (n : W32)
  | nop (o : Owner) (k : BitVec 3) (n : W32)
  | syncSet (o : Owner) (k : BitVec 3) (n : W32)
  | launch (o : Owner) (k : BitVec 3) (n : W32) (h : HostBytes)
  | launchPlace (o : Owner) (pid : BitVec 6) (h : HostBytes)
  | exchange (o : Owner) (k : BitVec 3) (n : W32) (h : HostBytes)
  | exchangeRound (o : Owner) (k : BitVec 3) (n : W32) (h : HostBytes)
  | stop (o : Owner) (k : BitVec 3) (n : W32)
  | release (o : Owner) (k : BitVec 3) (n : W32)
  | copy (o : Owner) (k : BitVec 3) (n : W32) (h : HostBytes)
  | pageInval (o : Owner) (k : BitVec 3) (n : W32)
  | sort (o : Owner) (k : BitVec 3) (n : W32) (h : HostBytes)
  | allReduce (o : Owner) (k : BitVec 3) (n : W32) (h : HostBytes) (peers : List (List Byte))
  | allGather (o : Owner) (k : BitVec 3) (n : W32) (h : HostBytes) (peers : List (List Byte))
  | broadcast (o : Owner) (k : BitVec 3) (n : W32) (h : HostBytes) (peers : List (List Byte))
  | boundaryExchange (o : Owner) (k : BitVec 3) (n : W32) (h : HostBytes)
  | barrier (o : Owner) (k : BitVec 3) (n : W32)
  | sampleSort (o : Owner) (k : BitVec 3) (n : W32) (h : HostBytes) (peers : List (List Byte))
  | collCtlReceive (g : BitVec 4) (src : Byte) (fields : W64)
  | collGrpValid (g : BitVec 4) (v : Bool)
  | plantBind (o : Owner) (k : BitVec 3) (n : W32)
  | plantArm (o : Owner) (k : BitVec 3) (n : W32)
  | syncAlloc (ag : Agent) (o : Owner)
  | syncFree (o : Owner) (n : W32)
  | syncCountWrite (o : Owner) (n : BitVec 17) (thresh : Bool) (v : W32)
  | syncAdd (o : Owner) (n : BitVec 17) (v : W32)
  -- Inkwells and HBM
  | inkEnable (v : Bool)
  | bar4Access (off : BitVec 37) (wr : Bool) (len : Nat) (d : BitVec 512)
  | inkwellTagGrant (k : BitVec 2)
  | hcEnable (o : Owner) (v : Bool)
  | hcInitDone (o : Owner)
  | pageOwnerWrite (g : W16) (v : W32)
  | hbmRefresh (stk : BitVec 3)
  | patrolRead (stk : BitVec 3)
  -- Madder
  | rawBit (r : BitVec 2) (b : Bool)
  | blockOffered
  | sourceRestartDone (r : BitVec 2)
  | startupTestDone (r : BitVec 2)
  | fatalStartupTimeout
  | clearFatal
  | instantiate (j : BitVec 3)
  | reseed (j : BitVec 3)
  | autoReseed (j : BitVec 3)
  | drbgOperationDone (j : BitVec 3)
  | swPortGenerate (host : Bool)
  | swSepiaData (ag : Agent)
  | swHostData (ag : Agent)
  | cipherMaskRefresh
  -- Kysto links and tick synchronisation
  | klEnable (v : W16)
  | linkTrained (l : BitVec 4) (ok : Bool) (chip : Byte) (link : BitVec 4) (dim : BitVec 2) (dir : Bool)
  | frameOpportunity (l : BitVec 4)
  | dataFrame (l : BitVec 4) (f : BitVec 1088)
  | linkFrame (l : BitVec 4) (f : BitVec 1088)
  | badFrame (l : BitVec 4) (why : BadKind)
  | nakRepeat (l : BitVec 4)
  | replayTimeout (l : BitVec 4)
  | packetRelease (l : BitVec 4) (b : BitVec 3)
  | remoteRequest
  | remoteResponse
  | remoteRequestTimeout (tag : BitVec 10)
  | tickReqSend (phase : BitVec 5)
  | tickReqReceive (l : BitVec 4) (f : BitVec 1088) (t2 t3 : W64)
  | tickReply (f : BitVec 1088) (t4 : W64)
  | tickReplyMissing
  | acquire
  | syncOutPulse
  | syncInEdge (t : W64)
  | boundaryRound (o : Owner) (k : BitVec 3) (n : W32)
  | boundaryRoundDone (o : Owner) (k : BitVec 3) (n : W32)
  | freexBatch (o : Owner) (k : BitVec 3) (n : W32)
  | boundaryRoundTimeout (o : Owner) (k : BitVec 3) (n : W32)
  -- Sepia
  | coreInstruction (c : BitVec 3)
  | busGrant
  | busrd
  | busrdx
  | busupgr
  | evc
  | wb
  | nrd
  | nwr
  | namo
  | uncachedAccess (c : BitVec 3)
  | reservationDeferExpiry (c : BitVec 3)
  | irqSourceActive (src : BitVec 7)
  | externalInterruptEntry (c : BitVec 3)
  | mtimecmpMatch (c : BitVec 3)
  | sepClaim (ag : Agent) (c : BitVec 3)
  | sepComplete (c : BitVec 3) (v : W32)
  | snoopTimeout (c : BitVec 3)
  | sepDomrst
  | sepDomrstDone
  | sepRun (v : Byte)
  | bflProgram
  | bflErase
  | flashOperationDone (f : BitVec 2)
  -- Vellum fabric
  | velReleaseSet
  | velReleaseClear
  | releaseStage
  | velDly (p : Byte) (tap : BitVec 6)
  | tapStep (p : Byte)
  | uflFabricRead (wa : BitVec 17)
  | uflProgram (fab : Bool) (wa : BitVec 17)
  | uflErase (fab : Bool) (wa : BitVec 17)
  | velUflData (ag : Agent)
  | serialPortEn (n : BitVec 3) (v : Bool)
  | txdata (n : BitVec 3) (v : W32)
  | rxdata (ag : Agent) (n : BitVec 3)
  | serialRxWord (n : BitVec 3) (v : W32)
  | velProbeEn (n : BitVec 4) (v : Bool)
  | slaveWindowAccess (ag : Agent) (a : Dpa) (wr : Bool) (v : W32)
  | slvAck (rdata : W32) (err : Bool)
  | slvAckTimeout
  | mstReq (op : BitVec 4) (a : Dpa) (d : W32)
  | mstAck
  | bramCollision (r : BitVec 4) (words : List (Nat × Bool))
  -- Vellum configuration
  | bootLoad (stream : List Byte)
  | loadDone
  | cfgClkGapTimeout
  | velCfgLoad (stream : List Byte)
  | velCfgData (v : W32)
  | velRbFrame (f : BitVec 12)
  | irpBegin (fab : Bool) (w : W32)
  | irpFrame (fab : Bool) (w : W32) (d : BitVec 1024) (crc : W32)
  | irpEnd (fab : Bool) (w : W32)
  | irpRead (fab : Bool) (w : W32)
  | irpAbort (fab : Bool) (w : W32)
  | velLockSet (v : BitVec 5)
  | velLockClr (v : BitVec 5)
  | cflProgram
  | cflErase
  | primaryGoldenWrite (v : BitVec 4)
  | scrubPass
  | scrubFault (vote rom : Bool)
  -- plant port
  | postRelease
  | disarmAll
  | evidenceWrite (m : BitVec 6) (v : W32)
  | plantEvWrData (v : W32)
  | tripAssert
  | tripSeen
  | tripDeassert
  | tripClr
  -- debug
  | wakePulse
  | wake (arg : Byte)
  | sleep
  | sessionTimeout
  | wireFrameError
  | idcode (coll : Bool)
  | rdreg (a : Dpa) (coll : Bool)
  | wrreg (a : Dpa) (v : W32) (coll : Bool)
  | rdmem (a : Dpa) (coll : Bool)
  | wrmem (a : Dpa) (v : W64) (coll : Bool)
  | halt (m : Byte) (coll : Bool)
  | resume (m : Byte) (coll : Bool)
  | step (c : Byte) (coll : Bool)
  | vtrd (coll : Bool)
  | vtwr (v : W32) (coll : Bool)
  | wireAccessTimeout
  | dbgXtFire (ag : Agent) (m : Byte)
  | dbgXtResume (ag : Agent) (m : Byte)
  | xtRelease
  | dbgCoreHalt (c : BitVec 3)
  | dbgCoreResume (c : BitVec 3)
  | dbgCoreStep (c : BitVec 3)
  | dbgCoreData (ag : Agent) (c : BitVec 3) (wr : Bool) (v : W32)
  | dbgQwTgt (v : W32)
  | traceDrain
  | patchUnitWrite (n : BitVec 4) (v : W32)
  | patchRamWrite (n : BitVec 4) (k : BitVec 3) (v : W32)
  | dbgVtTx (ag : Agent) (wr : Bool) (v : W32)
  | dbgVtRx (ag : Agent) (wr : Bool) (v : W32)
  -- power and reset
  | domainGateRequest (d : BitVec 6)
  | domainRunRequest (d : BitVec 6)
  | domainDrained (d : BitVec 6)
  | domainWakeDone (d : BitVec 6)
  | plantOnlyRequest
  | keepaliveRequest
  | wakeEvent (e : BitVec 5) (wall : W64)
  | powerOnReset
  | externalReset
  | externalResetRelease
  | longHold
  | hostReset (hot : Bool)
  | warm
  | velFabric
  | releasePoint
  | supplyFault (doms : List (BitVec 6))
  | surrEnableSet
  | surrEnableClear
  | apply
  | glbOwnWrite (v : W32)
  | telemetrySample (power : W16) (temps : List Byte)
  | backgroundStarvation (q : Byte)
  -- host interface
  | hostSwint (m : Byte)
  | hostIrqStatusClear (m : BitVec 15)
  | msixCauseActive (v : Byte)
  | msixUnmask (v : Byte)
  | outboundReadTimeout (o : Owner) (k : BitVec 3)
  | barAccessError (bar : BitVec 3) (off : BitVec 37) (wr : Bool)
  | vccioFault (b : BitVec 2)
  | vccioRestored (b : BitVec 2)
  | hbmTrainingDone
  | laneLockLost (l : BitVec 4)
  | xtal32Start
  | uncachedAccessResponse (c : BitVec 3)
  | cfgClkRisingEdge (din : Bool)
  | serialTxWord (n : BitVec 3) (acked : Bool)
  | pcieLinkUp (gen5 : Bool) (width : BitVec 5)
  | pcieD3hot (v : Bool)
  | restingLevelChange (level : Bool)
deriving DecidableEq, Repr

end Sys2Proof
end

