-- ==== Sys2Proof/Machine/KMap.lean ====
section
/-!
DEFINITION. Sparse data by key: look up, write and the canonical form (keys strictly rising, no entry equal to what an
unlisted key reads as).
-/
namespace Sys2Proof

/-- The value at key `k`, `d` where it is not listed. -/
def kget {α : Type} (d : α) : KMap α → Nat → α
  | [], _ => d
  | (k', v) :: m, k => if k' = k then v else if k < k' then d else kget d m k

/-- The entry at key `k`. -/
def kfind {α : Type} : KMap α → Nat → Option α
  | [], _ => none
  | (k', v) :: m, k => if k' = k then some v else if k < k' then none else kfind m k

/-- Remove key `k`. -/
def kdel {α : Type} : KMap α → Nat → KMap α
  | [], _ => []
  | (k', v) :: m, k => if k' = k then m else if k < k' then (k', v) :: m else (k', v) :: kdel m k

/-- Put `v` at key `k`. -/
def kput {α : Type} : KMap α → Nat → α → KMap α
  | [], k, v => [(k, v)]
  | (k', v') :: m, k, v =>
    if k' = k then (k, v) :: m else if k < k' then (k, v) :: (k', v') :: m else (k', v') :: kput m k v

/-- Write `v` at key `k`; the value an unlisted key reads as removes the entry. -/
def kset {α : Type} [DecidableEq α] (d : α) (m : KMap α) (k : Nat) (v : α) : KMap α :=
  if v = d then kdel m k else kput m k v

/-- Change the value at key `k`. -/
def kmod {α : Type} [DecidableEq α] (d : α) (m : KMap α) (k : Nat) (f : α → α) : KMap α :=
  kset d m k (f (kget d m k))

/-- The keys rise strictly from above `lo`. -/
def krising {α : Type} : Option Nat → KMap α → Bool
  | _, [] => true
  | none, (k, _) :: m => krising (some k) m
  | some lo, (k, _) :: m => decide (lo < k) && krising (some k) m

/-- The canonical form of a map whose unlisted keys read as `d`. -/
def kwf {α : Type} [DecidableEq α] (d : α) (m : KMap α) : Bool :=
  krising none m && m.all (fun p => decide (p.2 ≠ d))

/-- Keep the entries that satisfy `p`. -/
def kfilter {α : Type} (p : Nat → α → Bool) (m : KMap α) : KMap α := m.filter (fun e => p e.1 e.2)

/-- Write each listed entry, first to last. -/
def ksetAll {α : Type} [DecidableEq α] (d : α) (m : KMap α) (es : List (Nat × α)) : KMap α :=
  es.foldl (fun m e => kset d m e.1 e.2) m

/-- Merge maps: the entries of the first win. Both have rising keys. -/
def kmerge {α : Type} : Nat → KMap α → KMap α → KMap α
  | 0, a, b => a ++ b
  | _, [], b => b
  | _, a, [] => a
  | n + 1, (k, v) :: a, (k', v') :: b =>
    if k < k' then (k, v) :: kmerge n a ((k', v') :: b)
    else if k' < k then (k', v') :: kmerge n ((k, v) :: a) b
    else (k, v) :: kmerge n a b

/-- Write the bytes `d` from address `a` upward. -/
def kbytes {α : Type} [DecidableEq α] (z : α) (m : KMap α) (a : Nat) (d : List α) : KMap α :=
  let new := (d.zipIdx a).map (fun e => (e.2, e.1))
  let m' := kmerge (new.length + m.length + 1) new m
  m'.filter (fun e => decide (e.2 ≠ z))

/-- The values at `n` keys from `a` upward of a map that lists no key below `a`. -/
def kreadFrom {α : Type} (d : α) : Nat → Nat → KMap α → List α
  | 0, _, _ => []
  | n + 1, a, [] => d :: kreadFrom d n (a + 1) []
  | n + 1, a, (k, v) :: m =>
    if k = a then v :: kreadFrom d n (a + 1) m else d :: kreadFrom d n (a + 1) ((k, v) :: m)

/-- The values at `n` keys from `a` upward. -/
def kread {α : Type} (d : α) (m : KMap α) (a n : Nat) : List α :=
  kreadFrom d n a (m.dropWhile (fun e => decide (e.1 < a)))

/-- Little-endian number of a list of bytes. -/
def leNat : List Byte → Nat
  | [] => 0
  | b :: bs => b.toNat + 256 * leNat bs

/-- The word of a list of bytes, the first at bits 7..0. -/
def leWord (n : Nat) (l : List Byte) : BitVec n := BitVec.ofNat n (leNat l)

/-- The first `n` bytes of a word, bits 7..0 first. -/
def wordBytes {w : Nat} (n : Nat) (x : BitVec w) : List Byte :=
  (List.range n).map (fun i => x.extractLsb' (8 * i) 8)

/-- The bytes of the numbered words `f 0` to `f (n - 1)`, 32 bits each. -/
def bytesOfWords (m : KMap W32) (n : Nat) : List Byte :=
  (kread 0 m 0 n).flatMap (fun w => wordBytes 4 w)

/-- Put bits `[lo + w - 1 : lo]` of `x` to `v`. -/
def setFld {n w : Nat} (x : BitVec n) (lo : Nat) (v : BitVec w) : BitVec n :=
  (x &&& ~~~((BitVec.allOnes w).setWidth n <<< lo)) ||| (v.setWidth n <<< lo)

/-- Set bit `i` of `x` to `b`. -/
def setBit {n : Nat} (x : BitVec n) (i : Nat) (b : Bool) : BitVec n :=
  if b then x ||| (1#n <<< i) else x &&& ~~~(1#n <<< i)

/-- `x` with its low `k` bits cleared: an address aligned down to `2 ^ k`. -/
def alignDown {n : Nat} (k : Nat) (x : BitVec n) : BitVec n := (x >>> k) <<< k

/-- Saturating increment of a counter (all RC counters of the register tables saturate). -/
def satInc {n : Nat} (x : BitVec n) : BitVec n := if x = BitVec.allOnes n then x else x + 1

end Sys2Proof
end

