-- ==== Sys2Proof/Machine/Fp.lean ====
section
/-!
DEFINITION. Floating-point arithmetic of the G1 (R119, R363): FP32 with round to nearest even, subnormal inputs and results
flushed to zero with their sign kept, every NaN result 0x7FC0_0000; BF16 values read as FP32.
-/
namespace Sys2Proof.Machine

/-- A decoded FP32 value; a finite one is m × 2^e with sign `sg`. -/
inductive Fp where
  | nan
  | inf (sg : Bool)
  | fin (sg : Bool) (m : Nat) (e : Int)
deriving DecidableEq, Repr

/-- Read an FP32 word; a subnormal input is flushed to zero (R119). -/
def fpOf (x : W32) : Fp :=
  let sg := bit x 31
  let e := (fld x 23 8).toNat
  let f := (fld x 0 23).toNat
  if e = 255 then (if f = 0 then .inf sg else .nan)
  else if e = 0 then .fin sg 0 0
  else .fin sg (0x800000 + f) ((e : Int) - 150)

/-- A signed pattern. -/
def fpSign (sg : Bool) (x : W32) : W32 := if sg then x ||| 0x80000000 else x

/-- m / 2^k, rounded to nearest even. -/
def rne (m k : Nat) : Nat :=
  let q := m / 2 ^ k
  let r := m % 2 ^ k
  if 2 ^ k < 2 * r ∨ (2 * r = 2 ^ k ∧ q % 2 = 1) then q + 1 else q

/-- R119: round an exact finite value to FP32; a non-zero value smaller than 2^-126 is flushed. -/
def fpPack (sg : Bool) (m : Nat) (e : Int) : W32 :=
  if m = 0 then fpSign sg 0 else
  let p := m.log2
  let x : Int := p + e
  if x < -126 then fpSign sg 0 else
  let q := if 23 < p then rne m (p - 23) else m * 2 ^ (23 - p)
  let x := if q = 0x1000000 then x + 1 else x
  let q := if q = 0x1000000 then 0x800000 else q
  if 127 < x then fpSign sg 0x7F800000
  else fpSign sg (BitVec.ofNat 32 ((x + 127).toNat * 0x800000 + (q - 0x800000)))

/-- The word of a value that an operation gives. -/
def fpNan : W32 := 0x7FC00000

/-- FP32 addition. -/
def fpAdd (a b : W32) : W32 :=
  match fpOf a, fpOf b with
  | .nan, _ => fpNan
  | _, .nan => fpNan
  | .inf s, .inf t => if s = t then fpSign s 0x7F800000 else fpNan
  | .inf s, _ => fpSign s 0x7F800000
  | _, .inf t => fpSign t 0x7F800000
  | .fin s m e, .fin t n f =>
    if m = 0 ∧ n = 0 then fpSign (s && t) 0
    else
      let g := if m = 0 then f else if n = 0 then e else min e f
      let x : Int := (if s then -1 else 1) * (m * 2 ^ (if m = 0 then 0 else (e - g).toNat))
      let y : Int := (if t then -1 else 1) * (n * 2 ^ (if n = 0 then 0 else (f - g).toNat))
      let z := x + y
      fpPack (z < 0) z.natAbs g

/-- FP32 multiplication. -/
def fpMul (a b : W32) : W32 :=
  match fpOf a, fpOf b with
  | .nan, _ => fpNan
  | _, .nan => fpNan
  | .inf s, .inf t => fpSign (s != t) 0x7F800000
  | .inf s, .fin t n _ => if n = 0 then fpNan else fpSign (s != t) 0x7F800000
  | .fin s m _, .inf t => if m = 0 then fpNan else fpSign (s != t) 0x7F800000
  | .fin s m e, .fin t n f => fpPack (s != t) (m * n) (e + f)

/-- A BF16 value as FP32. -/
def bf16 (x : W16) : W32 := x ++ (0 : W16)

/-- One level of a balanced tree that pairs adjacent indices. -/
def pairUp (f : W32 → W32 → W32) : List W32 → List W32
  | a :: b :: l => f a b :: pairUp f l
  | l => l

/-- R119: the sum of a balanced tree of `d` levels. -/
def fpTree (d : Nat) (l : List W32) : W32 := ((List.range d).foldl (fun l _ => pairUp fpAdd l) l).headD 0

end Sys2Proof.Machine
end

