-- ==== Sys2Proof/Machine/Aes.lean ====
section
/-!
DEFINITION. AES (FIPS 197), XTS-AES-128 over a 64-byte line (IEEE 1619, R268), and CTR_DRBG with AES-256 and the derivation
function (NIST SP 800-90A, R289): the standards that the spec names. A list of bytes has the first byte of the standard first.
-/
namespace Sys2Proof.Machine

-- FIPS 197
/-- Multiplication by x in the field of the cipher. -/
def xtime (b : Byte) : Byte := (b <<< 1) ^^^ (if bit b 7 then 0x1B else 0)
/-- Multiplication in the field: bit 7 of `b` first. -/
def gmul (a b : Byte) : Byte :=
  (List.range 8).foldl (fun r i => xtime r ^^^ (if bit b (7 - i) then a else 0)) 0
/-- The inverse in the field, the 254th power; 0 stays 0. -/
def ginv (x : Byte) : Byte :=
  let x2 := gmul x x
  let x4 := gmul x2 x2
  let x8 := gmul x4 x4
  let x16 := gmul x8 x8
  let x32 := gmul x16 x16
  let x64 := gmul x32 x32
  let x128 := gmul x64 x64
  gmul x2 (gmul x4 (gmul x8 (gmul x16 (gmul x32 (gmul x64 x128)))))
/-- SubBytes and its inverse, for one byte. -/
def sbox (x : Byte) : Byte :=
  let y := ginv x
  y ^^^ y.rotateLeft 1 ^^^ y.rotateLeft 2 ^^^ y.rotateLeft 3 ^^^ y.rotateLeft 4 ^^^ 0x63
def invSbox (x : Byte) : Byte := ginv (x.rotateLeft 1 ^^^ x.rotateLeft 3 ^^^ x.rotateLeft 6 ^^^ 0x05)

/-- The bytewise exclusive or of two lists. -/
def xorBytes (a b : List Byte) : List Byte := List.zipWith (· ^^^ ·) a b

/-- Words `n` onward of the key schedule, latest first in `ws`. -/
def keyWords (nk : Nat) : Nat → Nat → Byte → List (List Byte) → List (List Byte)
  | 0, _, _, ws => ws.reverse
  | m + 1, i, rc, ws =>
    let t := ws.headD []
    let t := if i % nk = 0 then
        match t.rotateLeft 1 |>.map sbox with
        | x :: xs => (x ^^^ rc) :: xs
        | [] => []
      else if 6 < nk ∧ i % nk = 4 then t.map sbox else t
    keyWords nk m (i + 1) (if i % nk = 0 then xtime rc else rc) (xorBytes (ws.getD (nk - 1) []) t :: ws)

/-- The bytes of a list in groups of four. -/
def inFours : Nat → List Byte → List (List Byte)
  | 0, _ => []
  | n + 1, l => l.take 4 :: inFours n (l.drop 4)

/-- The round keys of a key of 16 or 32 bytes, 16 bytes each. -/
def roundKeys (key : List Byte) : List (List Byte) :=
  let nk := key.length / 4
  let nr := nk + 6
  let ws := keyWords nk (4 * (nr + 1) - nk) nk 1 (inFours nk key).reverse
  (List.range (nr + 1)).map (fun r => ((ws.drop (4 * r)).take 4).flatten)

/-- ShiftRows and its inverse: byte 4c + r of the result. -/
def shiftRows (s : List Byte) : List Byte := (List.range 16).map (fun i => s.getD ((i + 4 * (i % 4)) % 16) 0)
def invShiftRows (s : List Byte) : List Byte := (List.range 16).map (fun i => s.getD ((i + 12 * (i % 4)) % 16) 0)

/-- A column times the matrix whose first row is `m`; each further row is the one before rotated right. -/
def mixWith (m : List Byte) (s : List Byte) : List Byte :=
  (List.range 16).map (fun i =>
    (List.range 4).foldl (fun x k => x ^^^ gmul (s.getD (i / 4 * 4 + k) 0) (m.getD ((k + 4 - i % 4) % 4) 0)) 0)

/-- AES encryption of a block of 16 bytes. -/
def aesEnc (key blk : List Byte) : List Byte :=
  match roundKeys key with
  | [] => blk
  | k0 :: ks =>
    let mid := ks.dropLast.foldl (fun s k => xorBytes (mixWith [2, 3, 1, 1] (shiftRows (s.map sbox))) k) (xorBytes blk k0)
    xorBytes (shiftRows (mid.map sbox)) (ks.getLastD [])

/-- AES decryption of a block of 16 bytes. -/
def aesDec (key blk : List Byte) : List Byte :=
  match (roundKeys key).reverse with
  | [] => blk
  | k0 :: ks =>
    let mid := ks.dropLast.foldl (fun s k =>
      mixWith [14, 11, 13, 9] (xorBytes ((invShiftRows s).map invSbox) k)) (xorBytes blk k0)
    xorBytes ((invShiftRows mid).map invSbox) (ks.getLastD [])

-- XTS-AES-128 (R268)
/-- A pair of keys, bytes of the standard in order. -/
abbrev KeyPair := List Byte × List Byte

/-- R268: KEYGEN's 64 bytes as a key pair: the data key and the tweak key are the first two groups of 16 (log entry 138). -/
def keyPairOf (out : List Byte) : KeyPair := (out.take 16, (out.drop 16).take 16)

/-- The tweak of a line, multiplied by x once per block before: the tweak starts as DPA[47:6], little-endian. -/
def xtsTweaks (kp : KeyPair) (line : Nat) : List (List Byte) :=
  let t0 : BitVec 128 := leWord 128 (aesEnc kp.2 (wordBytes 16 (BitVec.ofNat 128 line)))
  ((List.range 4).foldl (fun (acc : List (List Byte) × BitVec 128) _ =>
    (acc.1 ++ [wordBytes 16 acc.2], (acc.2 <<< 1) ^^^ (if bit acc.2 127 then 0x87 else 0))) ([], t0)).1

/-- One line of 64 bytes through `f`, block by block. -/
def xtsLine (f : List Byte → List Byte) (kp : KeyPair) (line : Nat) (d : List Byte) : List Byte :=
  ((xtsTweaks kp line).zipIdx).flatMap (fun e => xorBytes (f (xorBytes ((d.drop (16 * e.2)).take 16) e.1)) e.1)

/-- R268: the line as it is stored, and a stored line as a holder of `kp` reads it. -/
def xtsEnc (kp : KeyPair) (line : Nat) (d : List Byte) : List Byte := xtsLine (aesEnc kp.1) kp line d
def xtsDec (kp : KeyPair) (line : Nat) (d : List Byte) : List Byte := xtsLine (aesDec kp.1) kp line d

-- CTR_DRBG (R289, R290)
/-- The bytes of a word, most significant first. -/
def beBytes {w : Nat} (n : Nat) (x : BitVec w) : List Byte := (wordBytes n x).reverse

/-- The next `n` values of the counter V under the key: their encryptions and the last V. -/
def ctrBlocks (k : List Byte) : Nat → BitVec 128 → List Byte × BitVec 128
  | 0, v => ([], v)
  | n + 1, v =>
    let v := v + 1
    let r := ctrBlocks k n v
    (aesEnc k (beBytes 16 v) ++ r.1, r.2)

/-- The working state of an instance: Key and V. -/
structure CtrState where
  k : List Byte := List.replicate 32 0
  v : BitVec 128 := 0
deriving DecidableEq, Repr

/-- CTR_DRBG_Update with 48 bytes of provided data. -/
def ctrUpdate (provided : List Byte) (c : CtrState) : CtrState :=
  let t := xorBytes (ctrBlocks c.k 3 c.v).1 provided
  { k := t.take 32, v := leWord 128 ((t.drop 32).reverse) }

/-- BCC: the chained encryption of a list of blocks. -/
def bcc (k : List Byte) : Nat → List Byte → List Byte → List Byte
  | 0, chain, _ => chain
  | n + 1, chain, d => bcc k n (aesEnc k (xorBytes chain (d.take 16))) (d.drop 16)

/-- Block_Cipher_df: 48 bytes from the input string. -/
def blockDf (input : List Byte) : List Byte :=
  let s := beBytes 4 (BitVec.ofNat 32 input.length) ++ beBytes 4 (48 : W32) ++ input ++ [0x80]
  let s := s ++ List.replicate ((16 - s.length % 16) % 16) 0
  let k := (List.range 32).map (BitVec.ofNat 8)
  let t := (List.range 3).flatMap (fun i =>
    bcc k (s.length / 16 + 1) (List.replicate 16 0) (beBytes 4 (BitVec.ofNat 32 i) ++ List.replicate 12 0 ++ s))
  let k' := t.take 32
  let x1 := aesEnc k' ((t.drop 32).take 16)
  let x2 := aesEnc k' x1
  x1 ++ x2 ++ aesEnc k' x2

/-- Instantiate, reseed, and generate 64 bytes. -/
def ctrInstantiate (entropy nonce pers : List Byte) : CtrState := ctrUpdate (blockDf (entropy ++ nonce ++ pers)) {}
def ctrReseed (entropy extra : List Byte) (c : CtrState) : CtrState := ctrUpdate (blockDf (entropy ++ extra)) c
def ctrGenerate (c : CtrState) : List Byte × CtrState :=
  let r := ctrBlocks c.k 4 c.v
  (r.1, ctrUpdate (List.replicate 48 0) { c with v := r.2 })

end Sys2Proof.Machine
end

