-- ==== Sys2Proof/Machine/TyBase.lean ====
section
/-!
DEFINITION. The pieces of state that every block shares: an error log, the answer to an access, the ids of partitions and
logical Quills, and the items that cross between islands.
-/
namespace Sys2Proof.Machine

/-- R624, Table 02.10: one ERRLOG. -/
structure ErrLog where
  addr  : BitVec 48 := 0
  agent : Agent := 0
  cls   : BitVec 4 := 0
  code  : W16 := 0
deriving DecidableEq, Repr

/-- How an access ended for the agent that made it. -/
inductive RspSt where
  /-- No access has been answered yet. -/
  | none
  /-- Completed. -/
  | ok
  /-- An error response (R591, R404). -/
  | err
  /-- STAT 1 of R518: refused, the reason stands in DBG_REASON. -/
  | refused
  /-- STAT 3 of R518. -/
  | timeout
  /-- The response stopped under R519. -/
  | stopped
deriving DecidableEq, Repr

/-- The model's own field: the answer the last access gave its agent. -/
structure Rsp where
  st    : RspSt := .none
  agent : Agent := 0
  data  : BitVec 512 := 0
deriving DecidableEq, Repr

/-- The blocks that keep an ERRLOG and a reason register (R603, R604). -/
inductive Blk where
  | glb | tk | sched | ink | sort | kl | mad | vel | plant | dbg | pwr | sep
  | quill (q : Byte)
deriving DecidableEq, Repr

/-- R49: timing class; `undef` is the value 3 that no table defines. -/
inductive Timing where
  | exact | rept | loose | undef
deriving DecidableEq, Repr

/-- A partition: owner and partition number (R203, Table 06.3). -/
structure PartId where
  owner : Owner := 0
  pid   : BitVec 6 := 0
deriving DecidableEq, Repr

/-- A logical Quill of a partition. -/
structure LqId where
  part : PartId := {}
  l    : Byte := 0
deriving DecidableEq, Repr

/-- A dispatched command: owner, queue, sequence number (R209), and which enable of the queue it belongs to, since a new
enable starts the numbers again (R208). -/
structure CmdId where
  owner : Owner := 0
  queue : BitVec 3 := 0
  seq   : W32 := 0
  gen   : Nat := 0
deriving DecidableEq, Repr

/-- The command is number `n` of queue `k` of owner `o`. -/
def CmdId.isAt (i : CmdId) (o : Owner) (k : BitVec 3) (n : W32) : Bool := i.owner == o && i.queue == k && i.seq == n

/-- What the chip sends to the host: a posted write or an MSI-X message (R592, R596). -/
inductive HostOut where
  | write (a : W64) (d : List Byte)
  | msi (vector : Byte)
deriving DecidableEq, Repr

/-- A packet (R312): the payloads of its frames, and the tick of its release or injection. -/
structure Pkt where
  buf     : BitVec 3
  frames  : List (BitVec 1024)
  stamp   : W64 := 0
  /-- The link it arrived on, and the receive buffer there that its frames fill until they are forwarded (R317). -/
  link    : Nat := 0
  held    : Option (BitVec 3) := none
deriving DecidableEq, Repr

/-- Table 02.2: the crossing classes. -/
inductive XCls where
  | mesh | q2p | p2q | q2s | s2q | q2i | i2q | i2h | s2e | c2k | m2q | sep | hst | xtr
deriving DecidableEq, Repr

/-- What crosses between islands. -/
inductive Payload where
  /-- R153: 32 bytes for an inbound channel of a logical Quill: the `n`-th flit of its sender. -/
  | flit (dst : LqId) (src : LqId) (outCh inCh : BitVec 5) (slot : BitVec 5) (d : BitVec 256) (n : Nat)
  /-- R190: a value for a decision mailbox. -/
  | post (src : LqId) (m : BitVec 6) (v : W32)
  /-- R191: a request to sample evidence mailbox `m`, issued at `t`. -/
  | clampReq (src : LqId) (m : BitVec 6) (t : W64)
  /-- R191: the sampled value on its way back. -/
  | clampRep (dst : LqId) (t : W64) (v : W32)
  /-- R159: a WAIT query on object `obj` with value `v`. -/
  | query (src : LqId) (obj : BitVec 17) (v : W32)
  /-- R159: the reply to a WAIT. -/
  | reply (dst : LqId)
  /-- R158, R233: an increment of object `obj` by `v`, acting for owner `o`; a SIGNAL's logical Quill. -/
  | incr (o : Owner) (obj : BitVec 17) (v : W32) (ag : Agent) (src : Option LqId)
  /-- R176: a logical Quill reports its end. -/
  | endRep (src : LqId)
  /-- R161, R162: a Quill exception. -/
  | exn (src : LqId) (code : W16) (pc : BitVec 13)
  /-- R162: the scheduler's stop for one logical Quill. -/
  | stop (dst : LqId)
  /-- R141, Table 07.3: a page request. -/
  | pageReq (src : LqId) (page : BitVec 24) (hint : Bool)
  /-- Table 07.3, R140: the residency notice (code 0), or the exception that the waiting instruction takes. -/
  | pageRep (dst : LqId) (page : BitVec 24) (code : W16)
  /-- R528, R530: the cross-trigger channels that one tick fires and resumes, and the agent of the first. -/
  | xt (fire resume : Byte) (ag : Agent)
  /-- R209: a dispatched command on its way to its engine, and the engine's completion on its way back (S2E). -/
  | cmd (id : CmdId)
  | cpl (id : CmdId)
  /-- R301: the key of a launch on its way to a physical Quill (M2Q). -/
  | seed (p : PartId)
  /-- R36: a register write of the host or of a core on its way to the scheduler (HST, SEP). -/
  | regw (ag : Agent) (a : Dpa) (v : W32)
  /-- R36, R596: a posted write or a message of the scheduler on its way to the host (HST), and source `n` to SEP. -/
  | toHost (m : HostOut)
  | toSep (n : Nat)
  /-- R43: a packet between the collective engine and the link layer (C2K). -/
  | pkt (out : Bool) (p : Pkt)
deriving DecidableEq, Repr

/-- One item on a crossing (R38, R39): class, sender and receiver, stamp, whether it is metered (R40), and whether it
has arrived at the receiving side. -/
structure XItem where
  cls     : XCls
  src     : Nat
  dst     : Nat
  stamp   : W64
  metered : Bool
  arrived : Bool := false
  /-- A flit enters its injection link on its slot's frame tick (R45). -/
  injected : Bool := true
  /-- The tick on which the item was released (once it is in the inbox). -/
  rel     : W64 := 0
  pay     : Payload
deriving DecidableEq, Repr

end Sys2Proof.Machine
end

