-- ==== Sys2Proof/Machine/TyQuill.lean ====
section
/-!
DEFINITION. The state of physical and logical Quills and of partitions (chapters 03, 04, 05 and 06).
-/
namespace Sys2Proof.Machine

/-- The check bits of a stored 64-bit word (R88, R625, R270): good, a correctable error, or an uncorrectable one. -/
inductive Ecc where
  | good | corr | bad
deriving DecidableEq, Repr

/-- The four stores of a Quill at the window offsets of Table 03.2: bytes, unwritten bits per 64-byte line (R91), check bits
per 64-bit word (R88), and the owner tag of the lines, which are granted and returned together (log entry 94). -/
structure Stores where
  mem     : KMap Byte := []
  /-- R91: the owner tag of every line. -/
  tag     : Owner := 0x7F
  /-- True where line n has been written since its grant: the negation of the unwritten bit. -/
  written : KMap Bool := []
  ecc     : KMap Ecc := []
deriving DecidableEq, Repr

/-- Table 15.4: one trace record. -/
structure TraceRec where
  v     : W32
  imm   : W16
  pc    : BitVec 12
  l     : Byte
  owner : Owner
  t     : BitVec 48
deriving DecidableEq, Repr

/-- A swap in progress on a physical Quill (R231, R262): the logical Quill to restore and the tick on which it began. -/
structure SwapSt where
  next  : LqId
  start : W64
  /-- The lines that have still to be moved (R261). -/
  lines : Nat := 0
deriving DecidableEq, Repr

/-- R127, R148: bytes on their way into a store: the bits of `m` take the value of `d` at the end of the tick on which the
write falls: execution tick `x` of the resident logical Quill, or this tick (`none`). -/
structure PendWr where
  x   : Option Nat
  off : Nat
  d   : List Byte
  m   : List Byte
deriving DecidableEq, Repr

/-- A physical Quill (R86) and its QCTL block (Tables 03.9 to 03.15). -/
structure Pq where
  st       : Stores := {}
  res      : Option LqId := none
  running  : Bool := false
  swap     : Option SwapSt := none
  /-- Writes that have not come to their tick, oldest first. -/
  wr       : List PendWr := []
  corrCnt  : W16 := 0
  uncorrCnt : W16 := 0
  fieldSat : Bool := false
  maccSat  : Bool := false
  errlog   : ErrLog := {}
  fallback : Bool := false
  calPass  : Bool := false
  calRun   : Bool := false
  /-- R123: service windows, or idle ticks, that the calibration in progress has used. -/
  calTicks : Nat := 0
  accepts  : BitVec 13 := 0
  trim     : KMap Byte := []
  /-- R90: table entries whose parity is bad. -/
  parA     : KMap Bool := []
  parC     : KMap Bool := []
  parB     : KMap Bool := []
  fifo     : List TraceRec := []
  /-- R578: pending background work and the ticks it has waited. -/
  bgPend   : Bool := false
  bgWait   : Nat := 0
  /-- R54, R578: the sequencer pauses. -/
  paused   : Bool := false
deriving DecidableEq, Repr

/-- The units of Table 04.6. -/
inductive QUnit where
  | seq | lat | nib | xch | plt | syn | pgu
deriving DecidableEq, Repr

/-- R148: the issue scoreboard, in execution ticks. -/
structure Board where
  /-- The earliest tick of the next issue. -/
  next   : Nat := 0
  unit   : KMap Nat := []
  /-- Ready ticks of operands, keyed by `Opnd.key`. -/
  ready  : KMap Nat := []
  /-- wdone and rdone of the state store (key 0) and the scratch store (key 1). -/
  wdone  : KMap Nat := []
  rdone  : KMap Nat := []
  /-- R181: the tick on which the plane loader is free. -/
  loader : Nat := 0
deriving DecidableEq, Repr

/-- R117, R181: a weight plane: the format of its last PLOAD and the bytes of the block. -/
structure Plane where
  fmt  : Option (BitVec 2) := none
  data : KMap Byte := []
deriving DecidableEq, Repr

/-- R138, R139, R257: one entry of the residency map. -/
structure Frame where
  page   : Option (BitVec 24) := none
  pinned : Bool := false
  last   : W64 := 0
  /-- R197: an instruction reads the page before this execution tick. -/
  busy   : Nat := 0
deriving DecidableEq, Repr

/-- R191: a CLAMP whose reply is outstanding. -/
structure ClampOut where
  t      : W64
  m      : BitVec 6
  /-- FN[2] = 0: the field to write: word offset, position and width. -/
  field  : Option (Nat × Nat × Nat)
  rd     : BitVec 5
  pc     : BitVec 12
  val    : Option W32 := none
deriving DecidableEq, Repr

/-- R158: a SIGNAL that the Quill holds. -/
structure SigHeld where
  obj  : BitVec 17
  v    : W32
  t    : W64
  /-- The flits that the Quill had sent before, and the stamp of the latest of them. -/
  n    : Nat := 0
  x    : Option W64
deriving DecidableEq, Repr

/-- R159: a WAIT in progress: its object, whether its query is pending at the scheduler, and the reply once it has been released. -/
structure WaitSt where
  obj     : BitVec 17
  v       : W32
  t       : W64
  handle  : BitVec 4
deriving DecidableEq, Repr

/-- A page-residency wait (R140): the page, and the tick on which it began. -/
structure PageWait where
  page  : BitVec 24
  since : W64
  /-- The answer was: not mapped, or every frame holds a pinned page (Table 04.4). -/
  unmapped : Bool := false
  noFrame  : Bool := false
deriving DecidableEq, Repr

/-- A logical Quill: the program-visible state of Table 04.1 and what R133 keeps with it. -/
structure Lq where
  s      : KMap W32 := []
  a      : KMap (BitVec 48) := []
  p      : KMap Bool := []
  lc     : KMap W16 := []
  /-- Active loop levels, innermost first: start and end index (R177). -/
  loops  : List (Nat × Nat) := []
  pc     : Nat := 0
  /-- Instructions in the loaded image (R146). -/
  len    : Nat := 0
  acc    : KMap W32 := []
  /-- State accumulator s of nib i at key 16 i + s. -/
  sacc   : KMap W32 := []
  vr     : KMap W16 := []
  mask   : KMap Bool := []
  plane0 : Plane := {}
  plane1 : Plane := {}
  tabA   : KMap W16 := []
  tabC   : KMap W16 := []
  tabB   : KMap W16 := []
  tshA   : BitVec 5 := 0
  tshC   : BitVec 5 := 0
  ptr    : BitVec 10 := 0
  adv    : Bool := false
  wrap   : Bool := false
  sweep  : W64 := 0
  frames : KMap Frame := []
  /-- R258: pages of the current sweep, the list of the latest complete sweep, and whether the sweep is whole so far. -/
  swCur  : List (BitVec 24) := []
  swList : List (BitVec 24) := []
  swFull : Bool := true
  chIn   : KMap (List (BitVec 256)) := []
  chLast : KMap (Option W64) := []
  xLast  : Option W64 := none
  /-- Flits sent since the launch. -/
  sent   : Nat := 0
  board  : Board := {}
  /-- R147: execution ticks since launch. -/
  xt     : Nat := 0
  sig    : List SigHeld := []
  clamps : List ClampOut := []
  wait   : Option WaitSt := none
  pgWait : Option PageWait := none
  ended  : Bool := false
  /-- R176, R199: the execution tick by which every store write, and the one by which every issued instruction, is complete. -/
  doneX  : Nat := 0
  latX   : Nat := 0
  /-- R165: the tick on which a flit met a full buffer. -/
  ovfAt  : Option W64 := none
  reported : Bool := false
  stopped  : Bool := false
  /-- R537: no instruction issues after this tick. -/
  lastTick : Option W64 := none
  fallback : Bool := false
  satF   : Bool := false
  satM   : Bool := false
  rxIdx  : BitVec 6 := 0
  place  : Option Byte := none
  /-- The physical Quill that it was resident on last (log entry 144). -/
  home   : Byte := 0
  /-- R231: execution tick of the last swap-in, and the tick on which a wait began. -/
  inAt   : Nat := 0
  /-- Stores saved while the logical Quill is swapped out (R133). -/
  saved  : Option Stores := none
  /-- R160, R199: a WAIT reply held while swapped out. -/
  heldReply : Bool := false
  /-- R72: released replies of WAITs on the barrier handle. -/
  bars   : Nat := 0
  /-- R73: C_q and the region digests. -/
  digest : W64 := 0
  region : KMap W64 := []
deriving DecidableEq, Repr

/-- R217: one channel of the launch's channel list, with the mesh slot of R46. -/
structure Chan where
  src   : Byte
  outCh : BitVec 5
  dst   : Byte
  inCh  : BitVec 5
  slot  : BitVec 5 := 0
deriving DecidableEq, Repr

/-- Where a launch of a partition stands. -/
inductive PartSt where
  /-- Waits for physical Quills (R228). -/
  | placing
  /-- Placed, loaded and resident: waits for its launch tick (R53). -/
  | ready
  | running
  /-- A Quill exception or a STOP: Quills stop and drain (R162, R163). -/
  | stopping
  /-- Completed: stores stay resident (R221). -/
  | idle
deriving DecidableEq, Repr

/-- Table 06.4: what the launch descriptor says of one logical Quill. -/
structure LqRec where
  prog    : Lma := 0
  len     : Nat := 0
  state   : Lma := 0
  scratch : Lma := 0
  ws      : List (BitVec 24) := []
deriving DecidableEq, Repr

/-- R163: the exception that reached the scheduler first. -/
structure ExnRec where
  code : W16
  l    : Byte
  pc   : BitVec 13
deriving DecidableEq, Repr

/-- A partition (R218). -/
structure Part where
  id     : PartId := {}
  cmd    : CmdId := {}
  st     : PartSt := .placing
  nlq    : Nat := 1
  encPm  : Bool := false
  key    : W64 := 0
  timing : Timing := .loose
  fixed  : Bool := false
  nn     : Bool := false
  freex  : Bool := false
  agreed : Option W64 := none
  relOnEnd : Bool := false
  keep   : Bool := false
  entry  : Nat := 0
  /-- The launch record's values for each logical Quill are applied at the launch (R132). -/
  ptr0   : BitVec 10 := 0
  adv0   : Bool := false
  wrap0  : Bool := false
  sweep0 : W64 := 0
  handles : KMap (Option (BitVec 17)) := []
  recs   : List LqRec := []
  chans  : List Chan := []
  lqs    : KMap Lq := []
  launchAt : W64 := 0
  /-- SEEDSRC (R219, R301): the key comes from Madder. -/
  seeded   : Bool := false
  demoted  : Bool := false
  late     : Bool := false
  nnFell   : Bool := false
  /-- R231: the logical Quill that the rotation swapped in last. -/
  rot      : Nat := 0
  exn    : Option ExnRec := none
  abort  : Option W16 := none
  halted : Bool := false
  /-- R537, R539: cross-trigger channels on whose release the partition halts, and those whose resume ends its halt. -/
  haltOn : Byte := 0
  haltBy : Byte := 0
  resident : Bool := false
  /-- PART_ENABLE: a launch has been set up (R218); it stays until the partition ends (log entry 92). -/
  enabled  : Bool := false
  /-- R235: the handles are bound. -/
  bound    : Bool := false
deriving DecidableEq, Repr

end Sys2Proof.Machine
end

