-- ==== Sys2Proof/Machine/TyMem.lean ====
section
/-!
DEFINITION. The state of HBM, the Inkwells and Madder (chapters 07 and 08).
-/
namespace Sys2Proof.Machine

/-- HBM (R245, R246): bytes by DPA; the key generation a 64-byte line was enciphered under (R268); check bits per 64-bit
word (R270). -/
structure Hbm where
  mem     : KMap Byte := []
  /-- Line n was written under key generation `k`: listed as k; 0 is a line never written. -/
  key     : KMap Nat := []
  /-- R268: the key pair of a generation: data key and tweak key. -/
  keys    : KMap (List Byte × List Byte) := []
  ecc     : KMap Ecc := []
  trained : Bool := false
  selfRef : Bool := false
  /-- Refreshes done per stack (R272). -/
  refresh : KMap Nat := []
  /-- Next line of the patrol per stack (R273), and the tick of its last read. -/
  patrol  : KMap Nat := []
  patrolAt : KMap W64 := []
deriving DecidableEq, Repr

/-- R253: a cached level-2 entry. -/
structure L2Ent where
  owner : Owner
  page  : BitVec 24
  e     : W64
deriving DecidableEq, Repr

/-- R248: the 64-byte transactions of a fetch or a copy: lines moved, tags held, and transactions that wait for a tag. -/
structure Xfer where
  line : Nat := 0
  held : Nat := 0
  want : Nat := 0
deriving DecidableEq, Repr

/-- R255: where the lines of a page come from: HBM, host memory, or host memory through a cache frame. -/
inductive PageSrc where
  | hbm (a : Nat)
  | host (a : Nat)
  | fill (a : Nat)
deriving DecidableEq, Repr

/-- Where a page fetch stands (Table 07.3). -/
inductive FetchSt where
  | walking
  /-- The walk found the page, its level-2 entry: the fetch waits for a frame, a staging slot or the cache's initialisation. -/
  | found (e : W64)
  | moving (src : PageSrc)
deriving DecidableEq, Repr

/-- A page fetch of a logical Quill (R257 to R260). -/
structure Fetch where
  lq    : LqId
  page  : BitVec 24
  hint  : Bool
  st    : FetchSt := .walking
  /-- The tick from which R259 counts. -/
  since : W64
  /-- R257: the tick of the page's latest request. -/
  last  : W64
  /-- The Inkwell that serves it (R247). -/
  k     : Nat
  frame : Nat := 0
  xf    : Xfer := {}
  /-- R271: a line of the page has failed, so that the cache tag is not written. -/
  bad   : Bool := false
  /-- Its partition is gone: the data is discarded. -/
  drop  : Bool := false
deriving DecidableEq, Repr

/-- Tables 07.6: one Inkwell and its cache. -/
structure Inkwell where
  l2       : List L2Ent := []
  tagsUsed : BitVec 13 := 0
  pageUsed : BitVec 6 := 0
  copyUsed : BitVec 6 := 0
  bytesOut : W32 := 0
  /-- R248: transactions that wait for a tag. -/
  tagWait  : Nat := 0
  /-- R261: lines moved on this tick for metered fetches and swaps, and for all other traffic. -/
  metered  : Nat := 0
  moved    : Nat := 0
deriving DecidableEq, Repr

/-- Table 07.7: the HBM page cache of an owner. -/
structure HCache where
  base   : BitVec 48 := 0
  tags   : BitVec 48 := 0
  frames : BitVec 25 := 0
  enable : Bool := false
  init   : Bool := false
deriving DecidableEq, Repr

/-- The INK block (Tables 07.5 to 07.8). -/
structure Ink where
  enable    : Bool := false
  slots     : BitVec 5 := 0x18
  depth     : BitVec 3 := 2
  reason    : W16 := 0
  bar4Owner : Owner := 0
  patrolEn  : Bool := true
  errlog    : ErrLog := {}
  corr      : W16 := 0
  uncorr    : W16 := 0
  well      : KMap Inkwell := []
  hc        : KMap HCache := []
  pageOwner : KMap Owner := []
  /-- R267: changes of the page-owner table that later ticks see. -/
  ownPend   : KMap Owner := []
  /-- R273: the stacks whose controllers have served a foreground access on this tick, and the slots that a due patrol read
  has waited. -/
  busy      : KMap Bool := []
  patWait   : KMap Nat := []
  /-- R274: one more than the number of the Inkwell that wrote a byte of HBM last on this tick. -/
  lineBy    : KMap Nat := []
  /-- Requests that have reached their Inkwell and not started (R259). -/
  reqs      : List Fetch := []
  fetches   : List Fetch := []
deriving DecidableEq, Repr

/-- R280 to R286: one ring-oscillator source. -/
structure Src where
  /-- Started and enabled at its start. -/
  on      : Bool := false
  restarting : Bool := false
  starting : Bool := false
  healthy : Bool := false
  /-- Bits seen in the start-up test. -/
  seen    : Nat := 0
  last    : Bool := false
  runLen  : Nat := 0
  winPos  : Nat := 0
  winFirst : Bool := false
  winCnt  : Nat := 0
  /-- Either test failed during the start-up test. -/
  bad     : Bool := false
  rctFails : W16 := 0
  aptFails : W16 := 0
  startFails : W16 := 0
  consec  : BitVec 3 := 0
  aptLast : BitVec 11 := 0
  /-- Bits contributed to the block being absorbed. -/
  contrib : Nat := 0
deriving DecidableEq, Repr

/-- R289 to R294: one DRBG instance (Table 08.8). -/
structure Drbg where
  len      : BitVec 6 := 0
  ready    : Bool := false
  /-- Blocks still needed by the waiting or running operation; 0 when there is none. -/
  need     : Nat := 0
  /-- All blocks received: the operation runs. -/
  full     : Bool := false
  isInst   : Bool := false
  stopped  : Bool := false
  reqs     : BitVec 48 := 0
  input    : KMap W32 := []
  /-- R290: the blocks of the operation in progress, and the LEN bytes that it takes beside them. -/
  blocks   : List (BitVec 256) := []
  extra    : List Byte := []
  /-- R289: the working state of CTR_DRBG. -/
  st       : CtrState := {}
  /-- Keys or words held for the client, oldest first. -/
  out      : List W64 := []
deriving DecidableEq, Repr

/-- The MAD block (Tables 08.6 to 08.9). -/
structure Mad where
  srcEn    : BitVec 4 := 0xF
  fatal    : Bool := false
  reason   : W16 := 0
  errlog   : ErrLog := {}
  blocks   : W32 := 0
  discards : W32 := 0
  src      : KMap Src := []
  /-- R281: the conditioner's register and bit count; stopped in the fatal alarm. -/
  s        : BitVec 256 := 0
  cnt      : Nat := 0
  /-- R282: the sources still to be taken in this rotation. -/
  rota     : List Nat := []
  /-- A block has been completed and is being offered: its value (R281), and the bits each source contributed to it. -/
  offer    : Option (BitVec 256 × KMap Nat) := none
  /-- R287: the sources have been started since the last reset, and two have been healthy together since. -/
  started  : Bool := false
  two      : Bool := false
  inst     : KMap Drbg := []
  sepUnder : Bool := false
  hostUnder : Bool := false
  /-- R289: the wrapping keys of the four cipher engines, and the datapath masks of the latest refresh. -/
  wrap     : List (List Byte) := []
  mask     : List Byte := []
  /-- Datapath mask refreshes done. -/
  masks    : Nat := 0
deriving DecidableEq, Repr

end Sys2Proof.Machine
end

