-- ==== Sys2Proof/Machine/TySched.lean ====
section
/-!
DEFINITION. The state of owners, queues, dispatched commands, sync objects and the tick and lock-step block
(chapters 02 and 06).
-/
namespace Sys2Proof.Machine

/-- R233, Table 06.14: one sync object. -/
structure SyncObj where
  count  : W32 := 0
  thresh : W32 := 1
  owner  : Owner := 0x7F
  bound  : Byte := 0
deriving DecidableEq, Repr

/-- Tables 06.12: one owner's page, its cipher key (R268) and its completion count (R225). -/
structure Own where
  enable   : Bool := false
  timing   : BitVec 2 := 0
  fixedNat : Bool := false
  priority : BitVec 2 := 0
  draining : Bool := false
  ended    : Bool := false
  reason   : W16 := 0
  quota    : BitVec 18 := 0
  ptbase   : BitVec 48 := 0
  cplBase  : W64 := 0
  cplHost  : Bool := false
  cplSize  : BitVec 5 := 4
  irqEn    : Bool := false
  overflow : Bool := false
  cplTail  : W16 := 0
  cplHead  : W16 := 0
  cplLost  : W32 := 0
  cplCount : Nat := 0
  /-- The generation of the key pair the owner holds (R268); `none` while it holds none. -/
  key      : Option Nat := none
  /-- R202, R292: the checks of CTX_ENABLE have passed, and its key pair waits for KEYGEN. -/
  enabling : Bool := false
deriving DecidableEq, Repr

/-- A slot's 64 bytes, read from a ring, byte b at bits 8b. -/
abbrev Cmd := BitVec 512

/-- A fetched command that has not been dispatched. -/
structure QSlot where
  cmd     : Cmd
  /-- R213: its header check has passed. -/
  checked : Bool := false
  /-- R214: its wait is satisfied. -/
  waited  : Bool := false
deriving DecidableEq, Repr

/-- Table 06.13: one queue. -/
structure Queue where
  base    : W64 := 0
  host    : Bool := false
  enable  : Bool := false
  size    : BitVec 5 := 4
  stopOnErr : Bool := false
  head    : W16 := 0
  tail    : W16 := 0
  seq     : W32 := 0
  stopped : Bool := false
  fetchErr : Bool := false
  /-- R207: fetching stands still after a failed slot read, until 1 is written to STOPPED. -/
  fetchHeld : Bool := false
  /-- Slots read and not yet dispatched, oldest first. -/
  slots   : List QSlot := []
  /-- R208: successful enables so far. -/
  gen     : Nat := 0
deriving DecidableEq, Repr

/-- Table 06.8: STATUS. -/
inductive Status where
  | ok | refused | fault | aborted
deriving DecidableEq, Repr

/-- What a completion record reports (Table 06.8). -/
structure Outc where
  status : Status := .ok
  code   : W16 := 0
  lq     : BitVec 9 := 0x1FF
  pc     : BitVec 13 := 0
  res0   : W64 := 0
  res1   : W64 := 0
  errAddr : BitVec 48 := 0
deriving DecidableEq, Repr

/-- R342, Table 09.10: a boundary exchange in progress. -/
structure BxSt where
  pid     : BitVec 6 := 0
  arrive  : BitVec 17 := 0
  release : BitVec 17 := 0
  rounds  : W32 := 0
  period  : BitVec 20 := 0
  outs    : List (Byte × BitVec 11 × Byte) := []
  ins     : List (Byte × Byte × BitVec 11) := []
  round   : Nat := 0
  firedAt : Option W64 := none
  /-- Entries taken in the current round, per sending chip. -/
  got     : KMap Nat := []
  /-- Entries held until their round fires (R343): round, sending chip, data. -/
  held    : List (Nat × Byte × BitVec 256) := []
  lastBatch : Option W64 := none
deriving DecidableEq, Repr

/-- R222: an EXCHANGE in progress. -/
structure ExSt where
  /-- Replica r: partition, ARRIVE and RELEASE. -/
  reps   : List (BitVec 6 × BitVec 17 × BitVec 17) := []
  rounds : W32 := 0
  round0 : W32 := 0
  seed   : W64 := 0
  rxsh   : Nat := 0
  rxt    : List W16 := []
  done   : Nat := 0
  swaps  : Nat := 0
deriving DecidableEq, Repr

/-- Where a dispatched command stands. -/
inductive DispSt where
  /-- Dispatched to its engine and not yet taken up. -/
  | queued
  /-- Its engine works on it. -/
  | running
  /-- Its engine has finished it: the scheduler completes it next. -/
  | done (r : Outc)
deriving DecidableEq, Repr

/-- A dispatched command, or one that completes without dispatch (R630). -/
structure Disp where
  id     : CmdId
  cmd    : Cmd
  st     : DispSt := .queued
  start  : W64 := 0
  /-- The command has reached its engine, and the engine's completion the scheduler (S2E of Table 02.2). -/
  got    : Bool := false
  back   : Bool := false
  /-- R247, R249: the Inkwell that serves a COPY. -/
  ink    : Nat := 0
  /-- R630: completes without having been dispatched. -/
  undisp : Bool := false
  late   : Bool := false
  demoted : Bool := false
  nnFell : Bool := false
  ex     : Option ExSt := none
  bx     : Option BxSt := none
  /-- A COPY in progress (R263, R264). -/
  cp     : Option Xfer := none
deriving DecidableEq, Repr

/-- The SCHED block: global registers, owners and queues (Tables 06.11 to 06.13) and the commands in flight. -/
structure Sched where
  errlog : ErrLog := {}
  own    : KMap Own := []
  /-- Queue q of owner o at key 8 o + q. -/
  queue  : KMap Queue := []
  disp   : List Disp := []
  /-- R210: the queue served last in a tick that a LOOSE queue took over. -/
  rr     : Nat := 519
  /-- R210: the tick of the latest dispatch. -/
  lastDisp : Option W64 := none
  /-- R241: what CONSUME waits have subtracted from objects on this tick. -/
  subs   : KMap W32 := []
  /-- R268: the next key generation. -/
  nextKey : Nat := 1
deriving DecidableEq, Repr

/-- R236: a register write of SYNC_COUNT or SYNC_THRESH that takes effect on the next tick. -/
structure SyncWr where
  owner  : Owner
  obj    : BitVec 17
  thresh : Bool
  v      : W32
  ag     : Agent := 0x110
  /-- The tick on which it was released at the scheduler. -/
  rel    : W64 := 0
deriving DecidableEq, Repr

/-- The TICK block (Tables 02.5 to 02.10). -/
structure TickBlk where
  load    : W64 := 0
  syncEn  : Bool := false
  offset  : Byte := 0
  resumed : Bool := false
  locked  : Bool := false
  reason  : W16 := 0
  errlog  : ErrLog := {}
  /-- R83: the value the counter takes on the next tick. -/
  pend    : Option W64 := none
  /-- R81, R338: the tick interrupt has been raised. -/
  irq     : Bool := false
deriving DecidableEq, Repr

/-- Lock-step (Tables 02.11 to 02.13, R71 to R77). -/
structure LockStep where
  ctrl     : W32 := 0
  epoch    : W64 := 0
  divEpoch : W64 := 0
  divCmd   : Bool := false
  divHist  : Bool := false
  divLq    : BitVec 9 := 0
  divAddr  : W16 := 0
  cCmd     : W64 := 0
  /-- The epoch records that await comparison, oldest first, each with the tick of its epoch's end. -/
  wait     : List (LsRecord × W64) := []
  /-- Partner records that arrived before the local epoch's end. -/
  got      : List LsRecord := []
  /-- A comparison has failed since the launch. -/
  failed   : Bool := false
  /-- R77: barrier replies held. -/
  held     : List LqId := []
  /-- R77: the tick on which the comparison passed. -/
  passAt   : Option W64 := none
deriving DecidableEq, Repr

end Sys2Proof.Machine
end

