-- ==== Sys2Proof/Machine/TyLink.lean ====
section
/-!
DEFINITION. The state of the Kysto links, of tick synchronisation and of the sort and collective engines (chapters 09
and 10).
-/
namespace Sys2Proof.Machine

/-- Table 09.13: STATE of a link. -/
inductive LinkSt where
  | off | training | up | failed
deriving DecidableEq, Repr

/-- R321: a frame in the replay buffer. -/
structure Replay where
  seq   : BitVec 10
  frame : BitVec 1088
  since : W64
deriving DecidableEq, Repr

/-- One Kysto link (Table 09.13, R306 to R325). -/
structure Link where
  st        : LinkSt := .off
  partner   : Byte := 0
  crcErr    : W16 := 0
  fecUncorr : W16 := 0
  fecCorr   : W32 := 0
  replays   : W16 := 0
  naks      : W16 := 0
  late      : W16 := 0
  /-- Frames sent and reported freed per class (R317). -/
  sent      : KMap W16 := []
  freedAt   : KMap W16 := []
  /-- Frames this end has freed per class, and the tick of the latest change not yet reported. -/
  freed     : KMap W16 := []
  credChg   : Option W64 := none
  txSeq     : BitVec 10 := 0
  replay    : List Replay := []
  /-- Frames of the replay buffer due for resending. -/
  resend    : List Replay := []
  /-- Consecutive resends without any advance of the ACK (R325). -/
  stuck     : Nat := 0
  rxSeq     : BitVec 10 := 0
  rxAny     : Bool := false
  /-- Accepted frames not yet acknowledged, and since which tick. -/
  unacked   : Nat := 0
  unackAt   : W64 := 0
  /-- The tick of the outstanding NAK, and whether a NAK is waiting to be sent (R323). -/
  nakAt     : Option W64 := none
  nakPend   : Bool := false
  /-- Packets that wait for the link. -/
  txq       : List Pkt := []
  /-- A packet already begun, and its frames that have been sent. -/
  cur       : List (Pkt × Nat) := []
  /-- R317: links and buffer classes whose frames this opportunity has forwarded. -/
  fwd       : List (Nat × BitVec 3) := []
  /-- Per class, opportunities passed over (R315). -/
  passed    : KMap Nat := []
  /-- TICK frames that wait for an opportunity. -/
  tickq     : List (BitVec 1088) := []
  /-- Packets received, by class, not yet released; the last may still lack frames. -/
  rx        : List Pkt := []
  rxLeft    : KMap Nat := []
  /-- R309: this end owes its partner the identity LINK frame. -/
  idPend    : Bool := false
  /-- What its LINK frames say of it. -/
  ident     : BitVec 32 := 0
  /-- R306: the bits of the message being filled, their number, and the lanes' symbols of the latest codeword. -/
  txMsg     : Nat := 0
  txLen     : Nat := 0
  lanes     : List (List (BitVec 10)) := []
  /-- The frame last sent. -/
  lastTx    : Option (BitVec 1088) := none
deriving DecidableEq, Repr

/-- R318: an outstanding remote request. -/
structure RTag where
  cmd    : CmdId
  sentAt : W64
  chip   : Byte
  addr   : Dpa
  wr     : Bool
  len    : Nat
deriving DecidableEq, Repr

/-- The KL block (Tables 09.12 to 09.14) and tick synchronisation (R335 to R341). -/
structure Kl where
  enable    : W16 := 0
  reason    : W16 := 0
  src       : Bool := false
  syncOutEn : Bool := false
  acqBusy   : Bool := false
  offp      : Int := 0
  offm      : Int := 0
  syncDelay : W16 := 0
  ppm       : BitVec 10 := 0
  errlog    : ErrLog := {}
  link      : KMap Link := []
  tag       : KMap RTag := []
  /-- Packets delivered to the collective engine: requests, responses, collective packets, oldest first. -/
  reqIn     : List Pkt := []
  rspIn     : List Pkt := []
  collIn    : List Pkt := []
  /-- Packets dropped under R331, counted. -/
  dropped   : Nat := 0
  acc       : Int := 0
  /-- R337, R338: consecutive good, bad and unanswered exchanges. -/
  good      : Nat := 0
  bad       : Nat := 0
  missed    : Nat := 0
  /-- T1 of the exchange in progress, and the tick on which a request was last sent. -/
  t1        : Option W64 := none
  reqAt     : Option W64 := none
  /-- A reply of the parent has been heard, and its LOCKED and MASTER. -/
  heard     : Bool := false
  parLock   : Bool := false
  parMaster : Bool := false
  syncOut   : Bool := false
  /-- R341: the tick on which the pulse ends. -/
  syncOutEnd : W64 := 0
  /-- Rising edges of SYNC_IN seen during an ACQUIRE from the pin. -/
  inEdges   : List W64 := []
deriving DecidableEq, Repr

/-- Table 10.6: a collective group. -/
structure Grp where
  valid   : Bool := false
  members : KMap W32 := []
  seq     : W16 := 0
  /-- R359: COLL_CTL fields received: sending chip, group sequence number's turn, fields. -/
  ctl     : List (Byte × W64) := []
deriving DecidableEq, Repr

/-- The SORT block (Tables 10.5, 10.6). -/
structure SortBlk where
  reason : W16 := 0
  errlog : ErrLog := {}
  grp    : KMap Grp := []
deriving DecidableEq, Repr

end Sys2Proof.Machine
end

