-- ==== Sys2Proof/Machine/TyMisc.lean ====
section
/-!
DEFINITION. The state of the plant port, the debug block, power, the global block and the host interface (chapters 00,
14, 15, 16 and 17).
-/
namespace Sys2Proof.Machine

/-- The PLANT block (Tables 14.6, 14.7) and the force registers (R492). -/
structure Plant where
  evid     : KMap W32 := []
  dec      : KMap W32 := []
  evBind   : KMap PartId := []
  decBind  : KMap PartId := []
  armed    : W64 := 0
  /-- The value mailbox m presents to the fabric (R499). -/
  shown    : KMap W32 := []
  strobe   : W64 := 0
  /-- What the mailboxes presented, and the evidence mailboxes held, at the start of this tick (R191, R500). -/
  base     : KMap W32 := []
  evBase   : KMap W32 := []
  /-- R497: mailboxes disarmed on this tick. -/
  disarmed : W64 := 0
  limitHit : W64 := 0
  evSrc    : W64 := 0
  evWrMbox : BitVec 6 := 0
  /-- R503: a register write that the next tick takes. -/
  evPend   : List (BitVec 6 × W32) := []
  /-- Mailboxes that have taken a write of the evidence port on this tick (R502). -/
  evTaken  : W64 := 0
  reason   : W16 := 0
  errlog   : ErrLog := {}
  tripCount : W16 := 0
  tripTick : W64 := 0
  tripPin  : Bool := false
  tripLatched : Bool := false
  /-- R508: the trip has not yet been seen by the plant island. -/
  tripUnseen : Bool := false
  /-- R508: the ticks begun since then, up to 3. -/
  tripAge  : BitVec 2 := 0
  /-- SAFE in [1:0] and FORCED in [2] of pin p; an unlisted pin has the power-on value. -/
  force    : KMap (BitVec 3) := []
  filtEn   : Bool := true
  latch    : Bool := true
  disarm   : Bool := true
deriving DecidableEq, Repr

/-- A comparator (Table 15.7). -/
structure Cmpr where
  ctl   : BitVec 7 := 0
  addr  : W32 := 0
  amask : W32 := 0
  value : W32 := 0
  vmask : W32 := 0
  count : W16 := 0
deriving DecidableEq, Repr

/-- Debug registers of core c (Table 15.7). -/
structure DbgCore where
  /-- MODE [0], EBREAK_DBG [1], HALT_FIRES [2], XT_IN [15:8], XT_OUT [23:16]. -/
  ctl    : BitVec 24 := 0
  halted : Bool := false
  inMon  : Bool := false
  cause  : BitVec 3 := 0
  hit    : BitVec 4 := 0
  sel    : BitVec 13 := 0
  cmp    : KMap Cmpr := []
  /-- R522: SEP_THRESH saved on entry to Blotter. -/
  savedTh : BitVec 3 := 0
deriving DecidableEq, Repr

/-- A watch unit (Table 15.8). -/
structure QWatch where
  ctl   : BitVec 11 := 0
  base  : W16 := 0
  vlo   : BitVec 19 := 0
  vhi   : BitVec 19 := 0
  val   : BitVec 12 := 0
  count : W16 := 0
deriving DecidableEq, Repr

/-- R537, R538: a match of watch unit `u` of a logical Quill on variable `v`, by a write that falls on tick `t`: by the
instruction at `pc`, or by agent `ag`. -/
structure QwEvent where
  t  : W64
  id : LqId
  u  : Nat
  v  : Nat
  pc : Option Nat
  ag : Agent
deriving DecidableEq, Repr

/-- The DBG block (Tables 15.6 to 15.9). -/
structure Dbg where
  hor      : Bool := false
  qbrkEn   : Bool := false
  qbrkCh   : BitVec 3 := 0
  monLevel : BitVec 3 := 0
  session  : Bool := false
  lineHigh : Bool := true
  /-- R516: the wire oscillator runs since this tick of the wire; a WAKE frame may follow. -/
  oscOn    : Bool := false
  qbrkHit  : Bool := false
  qwHit    : Bool := false
  reason   : W16 := 0
  errlog   : ErrLog := {}
  lastCh   : Byte := 0
  lastAg   : Agent := 0
  xtTick   : W64 := 0
  monVec   : W32 := 0x40
  accOwner : Owner := 0
  frames   : W32 := 0
  wireErr  : W16 := 0
  wireColl : W16 := 0
  /-- Partition slot s: OWNER [6:0], PID [13:8], CH_MASK [23:16], VALID [31]. -/
  slot     : KMap W32 := []
  core     : KMap DbgCore := []
  qwTgt    : W32 := 0
  qwLog    : W32 := 0
  qwVar    : BitVec 19 := 0
  qwTick   : W64 := 0
  qwAgent  : Agent := 0
  qbrkLq   : Byte := 0
  qbrkCode : W16 := 0
  qbrkPc   : BitVec 12 := 0
  watch    : KMap QWatch := []
  /-- Matches whose write tick is not over. -/
  qwPend   : List QwEvent := []
  /-- R529: fires of the watch units, each with the tick that stamps it. -/
  xtPend   : List (W64 × Byte × Agent) := []
  patch    : KMap W32 := []
  patchRam : KMap W32 := []
  patchBad : KMap Bool := []
  vtTx     : Option W32 := none
  vtRx     : Option W32 := none
  vtIrq    : BitVec 2 := 0
  trCtl    : BitVec 15 := 0
  trWr     : BitVec 12 := 0
  trWrapped : Bool := false
  trDropped : W32 := 0
  /-- Records stored since the trace was enabled, at most 4,096. -/
  trCount  : Nat := 0
  trRam    : KMap TraceRec := []
  /-- The physical Quill served last. -/
  trRr     : Byte := 255
  /-- R541: the record of this tick has been drained. -/
  trDone   : Bool := false
deriving DecidableEq, Repr

/-- Table 16.13: STATE of a domain. -/
inductive DomSt where
  | run | drain | gated | waking
deriving DecidableEq, Repr

/-- A power domain. -/
structure Dom where
  req      : Bool := false
  st       : DomSt := .run
  inflight : W16 := 0
  /-- Gated by a chip state (R556), not by its own request. -/
  byState  : Bool := false
deriving DecidableEq, Repr

/-- The PWR block (Tables 16.1 to 16.13). -/
structure Pwr where
  state    : BitVec 2 := 0
  /-- A transition to this state is in progress. -/
  going    : BitVec 2 := 0
  therm    : Bool := false
  wakeEn   : BitVec 5 := 1
  cause    : BitVec 5 := 0
  /-- R557: wake events that occurred during a transition. -/
  waitWake : BitVec 5 := 0
  reason   : W16 := 0
  errlog   : ErrLog := {}
  alarm    : W64 := 0xFFFFFFFFFFFFFFFF
  wall     : W64 := 0
  dom      : KMap Dom := []
  temp     : KMap Byte := []
  power    : W16 := 0
  overLimit : Bool := false
  tjWarn   : Bool := false
  /-- R579, R580: columns are throttled, and since how many samples the power has stayed at or below 95 %. -/
  thrPower : Bool := false
  thrTemp  : Bool := false
  calm     : Nat := 0
  /-- R82: the tick value and wall counter saved on entry to a low-power state. -/
  savedTick : W64 := 0
  savedWall : W64 := 0
deriving DecidableEq, Repr

/-- The GLB block (Tables 00.4 to 00.6, 16.12), the pins and the strap latches. -/
structure Glb where
  /-- R4, R18: the fuses: bit q is 1 where physical Quill q is disabled (log entry 4). -/
  fusedOff : BitVec 256 := 0
  surrEn   : Bool := false
  reason   : W16 := 0
  own      : BitVec 11 := 0
  recovery : Bool := false
  rstcfg   : Bool := false
  bootsrc  : BitVec 2 := 0
  lastReset : BitVec 3 := 0
  longHold : Bool := false
  resetHeld : Bool := false
  errlog   : ErrLog := {}
  shadow   : KMap Byte := []
  active   : KMap Byte := []
  /-- Straps at the pins. -/
  strapCfg : Bool := false
  strapSrc : BitVec 2 := 0
  /-- R623: the 32.768 kHz crystal runs. -/
  xtal     : Bool := false
  /-- The release sequence of Table 16.8 has not run since the last reset. -/
  atReset  : Bool := true
  perst    : Bool := true
  /-- R559: drives captured by the hold latches: 0, 1, 2 for high impedance (an unlisted pin). -/
  hold     : KMap (BitVec 2) := []
deriving DecidableEq, Repr

/-- The HOST block (Table 17.8), the MSI-X table and pending bits. -/
structure HostBlk where
  /-- The configuration header: Vendor ID, Device ID, Class Code (R585). -/
  vendor   : W16 := 0x1F5E
  device   : W16 := 0x0001
  cls      : BitVec 24 := 0x120000
  speed    : BitVec 4 := 0
  width    : BitVec 5 := 0
  bar4Base : BitVec 18 := 0
  /-- BAR4 is 2^n bytes (Table 17.2). -/
  bar4Log  : Nat := 36
  irqEn    : BitVec 15 := 0
  irqStat  : BitVec 15 := 0
  errcnt   : W16 := 0
  /-- MSI-X table words: word k of vector v at 4 v + k. -/
  msix     : KMap W32 := []
  pba      : KMap Bool := []
  msixEn   : Bool := true
  d3hot    : Bool := false
  /-- A Completer Abort has been recorded (R591). -/
  aer      : Bool := false
  out      : List HostOut := []
deriving DecidableEq, Repr

end Sys2Proof.Machine
end

