-- ==== Sys2Proof/Machine/TyFab.lean ====
section
/-!
DEFINITION. What the configuration makes of the Vellum fabric, and the registers of the fabric (chapter 12).
-/
namespace Sys2Proof.Machine

/-- R415: what a destination wire selects. Table 12.1 gives PT4 in the output-enable role no index; R414 lets the GIM route
it to an OE wire (log entry 133). -/
inductive WSel where
  /-- The constant 0. -/
  | zero
  | gim (i : BitVec 13)
  | pt4 (m : BitVec 11)
deriving DecidableEq, Repr, Inhabited

/-- R416: the register of a wire: CKSEL, GRSEL (none, tree 0 or tree 1) and INIT. -/
structure WireReg where
  ck   : BitVec 2 := 0
  gr   : Option (BitVec 1) := none
  init : Bool := false
deriving DecidableEq, Repr, Inhabited

/-- R415, R416: a destination wire. -/
structure Wire where
  sel : WSel := .zero
  reg : Option WireReg := none
deriving DecidableEq, Repr, Inhabited

/-- R408: a product term: disabled, or the literals it selects, bit i the true and bit 72 + i the complement of input i. -/
abbrev PTerm := Option (BitVec 144)

/-- R409 to R413: the options of one macrocell. -/
structure McCfg where
  /-- PT0 to PT4. -/
  pt     : KMap (BitVec 144) := []
  /-- Bit k: PTk is diverted to its control role. -/
  divert : BitVec 5 := 0
  /-- The role of a diverted PT4: 1 output enable, 0 clock enable. -/
  pt4oe  : Bool := false
  /-- The shared terms that feed the sum. -/
  shared : W32 := 0
  pol    : Bool := false
  tMode  : Bool := false
  bypass : Bool := false
  /-- 0 to 3: tree; 4: PT1. -/
  cksel  : BitVec 3 := 0
  gr     : Option (BitVec 1) := none
  init   : Bool := false
deriving DecidableEq, Repr, Inhabited

/-- R407 to R409: one logic block: its 72 input wires, its shared terms SH0 to SH31 and its macrocells. -/
structure VlbCfg where
  ins : KMap Wire := []
  sh  : KMap (BitVec 144) := []
  mc  : KMap McCfg := []
deriving DecidableEq, Repr, Inhabited

/-- R419: a path of an I/O cell. -/
inductive IoPath where
  | comb | reg | ddr
deriving DecidableEq, Repr, Inhabited

/-- R419: an I/O cell. The clocks of its input, output and OE registers are trees. -/
structure IoCfg where
  inp    : IoPath := .comb
  inCk   : BitVec 2 := 0
  out    : IoPath := .comb
  outCk  : BitVec 2 := 0
  oeReg  : Bool := false
  oeCk   : BitVec 2 := 0
  /-- Drive strength 4, 8, 12 or 16 mA. -/
  drive  : BitVec 2 := 0
  fast   : Bool := false
  /-- None, pull-up, pull-down, bus keeper. -/
  pull   : BitVec 2 := 0
  schmitt : Bool := false
  /-- The delay line lies in the output path. -/
  dlyOut : Bool := false
deriving DecidableEq, Repr, Inhabited

/-- R436: the source of a clock tree. -/
inductive TreeSrc where
  /-- Pin VIO_Bn_00 of tree n. -/
  | pin
  | osc40
  | osc32
  /-- One GIM source, by the tree's user input. -/
  | user
deriving DecidableEq, Repr, Inhabited

/-- R425: one port of a block RAM. -/
structure RamPort where
  /-- 0: 16K x 1, 1: 8K x 2, 2: 4K x 4, 3: 2K x 9, 4: 1K x 18, 5: 512 x 36. -/
  aspect : BitVec 3 := 0
  ck     : BitVec 2 := 0
  /-- What a read of the address written on the same edge gives: 0 old, 1 new, 2 unchanged. -/
  rdw    : BitVec 2 := 0
deriving DecidableEq, Repr, Inhabited

/-- R415: the destination wires outside the logic blocks. -/
inductive Dest where
  | vlb (v : BitVec 6) (i : BitVec 7)
  | outR (p : Byte) | outF (p : Byte) | oe (p : Byte)
  /-- Port 0 (A) or 1 (B) of block RAM r: address, data, write enable, enable. -/
  | ramAddr (r : BitVec 4) (pt : BitVec 1) (b : BitVec 4)
  | ramData (r : BitVec 4) (pt : BitVec 1) (b : BitVec 6)
  | ramWe (r : BitVec 4) (pt : BitVec 1)
  | ramEn (r : BitVec 4) (pt : BitVec 1)
  /-- User flash read port. -/
  | uflAddr (b : BitVec 5) | uflReq
  /-- Serial port n. -/
  | txData (n : BitVec 3) (b : BitVec 5) | txValid (n : BitVec 3) | rxReady (n : BitVec 3)
  /-- Plant port. -/
  | evwData (b : BitVec 5) | evwMbox (b : BitVec 3) | evwEn | plant (i : BitVec 4)
  /-- User inputs of the trees. -/
  | clk (n : BitVec 2) | rst (n : BitVec 1)
  /-- The bus ports. -/
  | slvAck | slvErr | slvRdata (b : BitVec 5)
  | mstReq | mstOp (b : BitVec 2) | mstAddr (b : BitVec 6) | mstWdata (b : BitVec 5)
  /-- The IRP's fabric path. -/
  | irpData (b : BitVec 5) | irpValid
deriving DecidableEq, Repr, Inhabited

/-- What the frames select in the fabric. Their bit layout is not in the spec, so this record is what an uninterpreted
function of the frames yields (log entry 7). -/
structure FabCfg where
  vlb  : KMap VlbCfg := []
  io   : KMap IoCfg := []
  /-- Port A of RAM r at key 2 r, port B at 2 r + 1. -/
  ram  : KMap RamPort := []
  tree : KMap TreeSrc := []
  /-- The wires of the destinations outside the logic blocks; an unlisted one selects the constant 0. -/
  wire : List (Dest × Wire) := []
  /-- R416: the optional registers of the sources, by source index. -/
  src  : KMap WireReg := []
deriving DecidableEq, Repr, Inhabited

/-- The registers of the fabric and the levels it sees. -/
structure Fab where
  /-- R412: the register of macrocell m, and its feedback. -/
  q     : KMap Bool := []
  fb    : KMap Bool := []
  /-- The level that a macrocell's product-term clock had last. -/
  pck   : KMap Bool := []
  /-- R416: registers of destination wires and of sources. -/
  dreg  : List (Dest × Bool) := []
  sreg  : KMap Bool := []
  /-- R420: of I/O cell p: input register, falling-edge capture, its re-registered value, OUT_R, OUT_F and OE registers. -/
  inR   : KMap Bool := []
  inCap : KMap Bool := []
  inF   : KMap Bool := []
  outR  : KMap Bool := []
  outF  : KMap Bool := []
  oe    : KMap Bool := []
  /-- R425: the read data that port A (key 2 r) or B (2 r + 1) presents. -/
  ramQ  : KMap (BitVec 36) := []
  /-- The level that each clock tree had last. -/
  tree  : BitVec 4 := 0
  /-- R437: edges that a SYNC reset tree still waits for, and whether the tree was asserted last. -/
  rstWait : KMap Nat := []
  rstWas : BitVec 2 := 3
  /-- R473: a committed region whose reset waits for edges: how many, and of which tree. -/
  regWait : KMap (Nat × BitVec 2) := []
  /-- The 40 MHz and 32.768 kHz oscillators, and what the outside drives on each pin. -/
  osc   : BitVec 2 := 0
  pin   : KMap Bool := []
deriving DecidableEq, Repr, Inhabited

end Sys2Proof.Machine
end

