-- ==== Sys2Proof/Machine/TySepia.lean ====
section
/-!
DEFINITION. The state of embedded flash, of the Sepia cores, caches, bus and interrupt controller (chapter 11, R485 to
R488).
-/
namespace Sys2Proof.Machine

/-- A flash command in progress. -/
inductive FlashOp where
  /-- Program page `p` with its 256 bytes (byte b at bits 8b). -/
  | program (p : Nat) (d : BitVec 2048)
  | erase (sector : Nat)
deriving DecidableEq, Repr

/-- One embedded flash (R485 to R488): its bytes (an unlisted byte is erased, 0xFF), pages programmed since their sector's
last erase, INCOMPLETE sectors, words with an uncorrectable ECC error, and erase counts. -/
structure Flash where
  mem    : KMap Byte := []
  progd  : KMap Bool := []
  incomp : KMap Bool := []
  badW   : KMap Bool := []
  op     : Option FlashOp := none
  err    : Bool := false
  wear   : KMap W32 := []
  scanned : Bool := false
deriving DecidableEq, Repr

/-- A bus request (R383, R385). -/
inductive BusOp where
  | busRd | busRdX | busUpgr | evc | wb | nrd
  /-- Merge the bytes of `mask` of `d` into the line. -/
  | nwr (mask : W64) (d : BitVec 512)
  /-- A 32-bit AMO (funct5) at word `w` of the line. -/
  | namo (op : BitVec 5) (w : BitVec 4) (v : W32)
deriving DecidableEq, Repr

/-- A request that waits at a port, or that has been granted. -/
structure BusReq where
  ag   : Agent
  op   : BusOp
  /-- Line number: DPA / 64. -/
  line : Nat
deriving DecidableEq, Repr

/-- A line of a data cache: modified or shared, its data, and the check bits of its eight 64-bit words (R380). -/
structure DLine where
  m    : Bool
  data : BitVec 512
  ecc  : KMap Ecc := []
deriving DecidableEq, Repr

/-- A word of the line is uncorrectable. -/
def DLine.bad (d : DLine) : Bool := d.ecc.any (fun e => e.2 == .bad)

/-- An uncached access in progress (R384). -/
structure Uncached where
  addr  : Dpa
  wr    : Bool
  amo   : Option (BitVec 5) := none
  funct3 : BitVec 3
  rd    : BitVec 5
  v     : W32
  /-- The core address, and where the core goes on. -/
  va    : W32
  npc   : W32
  /-- The request has left the core (a grant of its port carried it). -/
  sent  : Bool := false
  /-- Response: error, data. -/
  resp  : Option (Bool × W32) := none
deriving DecidableEq, Repr

/-- A Sepia core (R372, R379, R392). -/
structure Core where
  x        : KMap W32 := []
  pc       : W32 := 0
  /-- True in machine mode. -/
  mmode    : Bool := true
  mstatus  : W32 := 0
  mie      : W32 := 0
  mtvec    : W32 := 0
  mscratch : W32 := 0
  mepc     : W32 := 0
  mcause   : W32 := 0
  mtval    : W32 := 0
  mcounteren : W32 := 0
  mcountinhibit : W32 := 0
  mcycle   : W64 := 0
  minstret : W64 := 0
  pmpcfg   : W64 := 0
  pmpaddr  : KMap W32 := []
  /-- Waits in WFI. -/
  wfi      : Bool := false
  /-- Data cache: per set, (line number, line), most recently used first. -/
  dc       : KMap (List (Nat × DLine)) := []
  /-- Instruction cache: per set, (line number, data), most recently used first. -/
  ic       : KMap (List (Nat × BitVec 512)) := []
  /-- R380: the instruction-cache words whose parity is wrong, by 16 times the line number plus the word. -/
  icBad    : KMap Bool := []
  /-- Write-back buffer: two entries of line number and line. -/
  wbuf     : List (Nat × DLine) := []
  /-- R392: the reserved line, and whether snoops of it are deferred (R393). -/
  resv     : Option Nat := none
  defer    : Bool := false
  uncached : Option Uncached := none
  /-- mip.MTIP as MTIMECMP_MATCH has raised it. -/
  mtip     : Bool := false
  /-- R524: set while the core stepped has one instruction to run. -/
  stepping : Bool := false
  /-- R526: the execute comparators pass the first instruction after a resume. -/
  skipCmp  : Bool := false
  /-- A fetched line that a bus error answered: its line number. -/
  busErr   : Option Nat := none
  /-- R522, R524: a debug event (cause, match address) that waits for the core's granted uncached access. -/
  dbgPend  : Option (BitVec 3 × W32) := none
deriving DecidableEq, Repr

/-- The SEP block (Tables 11.10 to 11.12), the bus, the snoop filter and control SRAM. -/
structure Sep where
  run      : Byte := 0
  down     : Bool := false
  resetting : Bool := false
  cause    : BitVec 2 := 0
  agent    : Agent := 0
  reason   : W16 := 0
  errlog   : ErrLog := {}
  owner    : KMap Owner := []
  win      : KMap (BitVec 18) := []
  bflPage  : BitVec 14 := 0
  bflSrc   : BitVec 14 := 0
  bfl      : Flash := {}
  mtimecmp : KMap W64 := []
  msip     : Byte := 0
  /-- Source s: PRIO in [2:0], TARGET in [15:8]. -/
  src      : KMap W32 := []
  thresh   : KMap (BitVec 3) := []
  pend     : KMap Bool := []
  claimed  : KMap Bool := []
  /-- R395: completion interrupts waiting at a CPL source that is pending or claimed. -/
  cplRoute : KMap W32 := []
  core     : KMap Core := []
  /-- Control SRAM and its uncorrectable 64-bit words. -/
  sram     : KMap Byte := []
  sramBad  : KMap Bool := []
  poisoned : Bool := false
  /-- The snoop filter: core c holds line n at key 8 n + c; true for M (R386). -/
  filt     : KMap Bool := []
  /-- Requests pending per port (R382). -/
  port     : KMap (List BusReq) := []
  lastPort : BitVec 4 := 9
  /-- The granted request that is being performed. -/
  cur      : Option BusReq := none
deriving DecidableEq, Repr

end Sys2Proof.Machine
end

