-- ==== Sys2Proof/Machine/TyVel.lean ====
section
/-!
DEFINITION. The state of the Vellum fabric and its configuration (chapters 12 and 13).
-/
namespace Sys2Proof.Machine

/-- R481: where a frame was written from. -/
inductive Origin where
  | none
  /-- A load from configuration flash slot `n`. -/
  | slot (n : BitVec 2)
  | qspi
  /-- CFG_DIN, VEL_CFG_DATA or the IRP. -/
  | stream
deriving DecidableEq, Repr

/-- A configuration frame and its stored CRC. -/
structure FrameRec where
  data   : BitVec 1024 := 0
  crc    : W32 := 0
  origin : Origin := .none
deriving DecidableEq, Repr

/-- R424: what the I/O plan says of a pin. -/
inductive Plan where
  | fabric
  | hard (port : BitVec 3)
  | spare
  | unused
deriving DecidableEq, Repr, Inhabited

/-- What the global and I/O-cell frames say. Their bit layout is not in the spec, so this record is what an
uninterpreted function of the frames yields. -/
structure GCfg where
  plan    : KMap Plan
  /-- Serial port n: EN, MODE, CLKSRC, WORD, CS_EN, DIV at the places of Table 12.9. -/
  sport   : KMap W32
  tap     : KMap (BitVec 6)
  mboxRam : BitVec 4
  /-- A field holds an undefined value (R17). -/
  undef   : Bool
  /-- Reset trees: SYNC(k) or ASYNC (R437). -/
  syncA   : Option (BitVec 2)
  syncB   : Option (BitVec 2)
deriving DecidableEq, Repr, Inhabited

/-- A serial port (Table 12.9). -/
structure Sport where
  ctl     : W32 := 0x20
  tx      : List W32 := []
  rx      : List W32 := []
  overrun : Bool := false
  nack    : Bool := false
  err     : Bool := false
  /-- R434: operates. -/
  live    : Bool := false
deriving DecidableEq, Repr

/-- A slave-window access (R445). -/
structure SlvAcc where
  ag : Agent
  o  : BitVec 19
  wr : Bool
  v  : W32
deriving DecidableEq, Repr

/-- A master-port access (R446). -/
structure MstAcc where
  op   : BitVec 4
  a    : Dpa
  d    : W32
  resp : Option (Bool × W32) := none
deriving DecidableEq, Repr

/-- Table 13.8: STATE of the IRP. -/
inductive IrpSt where
  | idle | opened | done | failed | refused
deriving DecidableEq, Repr

/-- The VEL block (Tables 12.8, 12.9 and 13.10 to 13.12). -/
structure Vel where
  release  : Bool := false
  stage    : BitVec 2 := 0
  reversing : Bool := false
  reason   : W16 := 0
  errlog   : ErrLog := {}
  /-- A configuration error has been logged since CODE was last read, recorded or not (R394, R624). -/
  cfgRaised : Bool := false
  bramColl : Bool := false
  grst     : BitVec 2 := 0
  mstOwner : Owner := 0
  mstEn    : Bool := false
  slvEn    : Bool := false
  slvErr   : W16 := 0
  probe    : KMap W32 := []
  tap      : KMap (BitVec 6) := []
  cur      : KMap (BitVec 6) := []
  uflAddr  : BitVec 17 := 0
  ufl      : Flash := {}
  uflBuf   : KMap W32 := []
  rdBusy   : Bool := false
  /-- R431: fabric reads that wait for a program or erase to end. -/
  uflWait  : List (BitVec 17) := []
  /-- R430: the fabric read port's last DATA, and VALID. -/
  uflData  : W32 := 0
  uflValid : Bool := false
  sport    : KMap Sport := []
  slv      : List SlvAcc := []
  mst      : Option MstAcc := none
  /-- R446: what MST_ACK presented last: error, data. -/
  mstOut   : Option (Bool × W32) := none
  /-- Block RAM r, 36-bit word w at key 512 r + w. -/
  bram     : KMap (BitVec 36) := []
  /-- R621: bank supply out of range. -/
  bankBad  : KMap Bool := []
  frames   : KMap FrameRec := []
  gcfg     : Option GCfg := none
  src      : BitVec 2 := 0
  slot     : BitVec 2 := 0
  loaded   : Bool := false
  busy     : Bool := false
  fallback : Bool := false
  cfgErr   : Bool := false
  fromSlot : BitVec 2 := 0
  fromSrc  : BitVec 2 := 0
  qspiAddr : BitVec 24 := 0
  /-- A stream of words is being taken from VEL_CFG_DATA: the words taken so far, latest first. -/
  strm     : Option (List W32) := none
  /-- A boot load is due: the Vellum core domain has left reset (R458). -/
  bootDue  : Bool := false
  /-- A run-time load from QSPI has started and its bytes are still to come. -/
  qspiDue  : Bool := false
  /-- The load has passed every check and LOAD_DONE is due. -/
  passed   : Bool := false
  /-- The frames of the external flash as the last QSPI load read them (R481). -/
  qspi     : KMap FrameRec := []
  fifo     : List W32 := []
  ovf      : Bool := false
  failFrame : BitVec 12 := 0
  failStep : BitVec 3 := 0
  ids      : KMap W32 := []
  prim     : BitVec 2 := 0
  golden   : BitVec 2 := 3
  /-- R456: generation counts of the two copies of the information sector. -/
  infoGen  : Nat := 0
  recovery : Bool := false
  bootsrc  : BitVec 2 := 0
  lock     : BitVec 5 := 0
  cflAddr  : BitVec 21 := 0
  cfl      : Flash := {}
  cflBuf   : KMap W32 := []
  scrubEn  : Bool := true
  mask     : KMap W32 := []
  scrubFault : Bool := false
  vote     : Bool := false
  romPar   : Bool := false
  passes   : W32 := 0
  corrected : W16 := 0
  reloaded : W16 := 0
  unreload : W16 := 0
  lastFrame : BitVec 12 := 0
  irp      : IrpSt := .idle
  irpSeq   : BitVec 3 := 0
  irpRegion : BitVec 9 := 0
  irpCode  : W16 := 0
  irpTree  : BitVec 2 := 0
  /-- A transaction is open. -/
  irpOpen  : Bool := false
  /-- Frames of the open region written since BEGIN. -/
  irpDone  : List Nat := []
  /-- R476: the FIFO of the register path. -/
  irpWords : List W32 := []
  /-- R472, R474: held regions. -/
  held     : KMap Bool := []
  rbFrame  : BitVec 12 := 0
  rbMatch  : Bool := false
  rbData   : BitVec 1024 := 0
  rbCrc    : W32 := 0
  cfgDone  : Bool := false
  cfgErrN  : Bool := true
  /-- R464: the device has a CHAIN image, and has taken it whole. -/
  chain    : Bool := false
  forward  : Bool := false
  cfgDout  : Bool := true
  /-- A load waits for the image on CFG_DIN. -/
  dinBusy  : Bool := false
  /-- R463, R465: the device waits for SYNC or takes its image, whether or not the load still runs. -/
  dinTake  : Bool := false
  /-- The last 32 bits before SYNC, the bytes from SYNC on (latest first), and the bits of the next byte (latest first). -/
  dinShift : W32 := 0
  din      : List Byte := []
  dinBits  : List Bool := []
  /-- The registers of the fabric and the levels it sees (R412, R416, R420). -/
  fab      : Fab := {}
deriving DecidableEq, Repr

end Sys2Proof.Machine
end

