-- ==== Sys2Proof/Machine/State.lean ====
section
/-!
DEFINITION. The state of the G1: every register, store, buffer, counter, mode and pin the spec gives the block, the queue
of waiting commands, and the state after power-on reset.
-/
namespace Sys2Proof.Machine

/-- The faults of the machine. No command ends in one: an access that the spec refuses gets an error response and a log
entry, which is a next state. Safe: nothing raises it. -/
inductive Fault where
  | unreachable
deriving DecidableEq, Repr

/-- Refusals. `notModelled` is raised by an arm of exec whose command has no meaning yet: safe. -/
inductive Refusal where
  | notModelled (mnemonic : String)
deriving DecidableEq, Repr

/-- The state. -/
structure State where
  /-- The commands that are waiting, first in, first out. -/
  pending : List Instr := []
  /-- R32: the tick counter. -/
  now     : W64 := 0
  /-- The model's own counter of free values (log entry 1). -/
  fresh   : Nat := 0
  /-- The model's own record of the answer the last access gave (log entry 2). -/
  rsp     : Rsp := {}
  glb     : Glb := {}
  tk      : TickBlk := {}
  ls      : LockStep := {}
  sched   : Sched := {}
  /-- Sync objects by number (Table 06.14). -/
  sync    : KMap SyncObj := []
  /-- R236: writes that take effect on the next tick. -/
  syncWr  : List SyncWr := []
  ink     : Ink := {}
  hbm     : Hbm := {}
  mad     : Mad := {}
  kl      : Kl := {}
  coll    : SortBlk := {}
  sep     : Sep := {}
  vel     : Vel := {}
  plant   : Plant := {}
  dbg     : Dbg := {}
  pwr     : Pwr := {}
  host    : HostBlk := {}
  /-- Physical Quills (R86). -/
  pq      : KMap Pq := []
  /-- Partitions: partition p of owner o at key 64 o + p. -/
  part    : KMap Part := []
  /-- Items on the crossings (R38). -/
  xing    : List XItem := []
  /-- Items held in the send latches (R39). -/
  latch   : List XItem := []
  /-- Items released at their receiving island and not yet taken there. -/
  inbox   : List XItem := []
  /-- R60: flits kept in an Inkwell's swap buffer. -/
  swapBuf : List XItem := []
  /-- The tick on which each crossing last took an item (R39), by crossing. -/
  placed  : KMap W64 := []
  /-- R9: read latches and write latches, by agent and pair address. -/
  rdLatch : KMap (Option W32) := []
  wrLatch : KMap W32 := []
  /-- R54: a service window is in progress. -/
  svc     : Bool := false
deriving DecidableEq, Repr

/-- R560, chapters 00 to 18: the machine right after power-on reset, every register at its reset value. A register the
spec gives no reset value holds zero (log entry 6). -/
def State.reset : State :=
  { sep := { run := 1 } }

end Sys2Proof.Machine
end

