-- ==== Sys2Proof/Config.lean ====
section
/-!
DEFINITION. The free values: constants without a body for what the spec leaves open, and what this model reads of the
configuration frames, whose bit layout the spec does not give. No proof can see a value of them.
-/
namespace Sys2Proof.Config
open Sys2Proof.Machine

/-- The n-th free value of a run (log entry 1): DRBG output, keys, noise, ties, power-loss bytes. -/
opaque freeValue : Nat → Nat

/-- What the global and I/O-cell frames of a configuration say (log entry 7). -/
opaque decodeGlobal : List (Nat × BitVec 1024) → GCfg

/-- What the frames select in the fabric (log entry 7). -/
opaque decodeFabric : List (Nat × BitVec 1024) → FabCfg

/-- The place that element `i` takes among elements of equal key, for an input (R70, R353): the sort order of ties. -/
opaque sortTie : Nat → Nat → Nat

end Sys2Proof.Config
end

