-- ==== Sys2Proof/Machine/Ops.lean ====
section
/-!
DEFINITION. The shared operations: pieces of state by index, error logs and reasons, answers, free values, crossings,
messages to the host and power-domain states.
-/
namespace Sys2Proof.Machine

/-- The outcome of a command. -/
abbrev Out := Host.Outcome State Fault Refusal

-- Pieces of state by index
def State.pqAt (s : State) (q : Nat) : Pq := kget {} s.pq q
def State.setPq (s : State) (q : Nat) (p : Pq) : State := { s with pq := kset {} s.pq q p }
def State.modPq (s : State) (q : Nat) (f : Pq → Pq) : State := s.setPq q (f (s.pqAt q))
def State.ownAt (s : State) (o : Nat) : Own := kget {} s.sched.own o
def State.setOwn (s : State) (o : Nat) (x : Own) : State :=
  { s with sched := { s.sched with own := kset {} s.sched.own o x } }
def State.queueAt (s : State) (o k : Nat) : Queue := kget {} s.sched.queue (8 * o + k)
def State.setQueue (s : State) (o k : Nat) (x : Queue) : State :=
  { s with sched := { s.sched with queue := kset {} s.sched.queue (8 * o + k) x } }
def State.syncAt (s : State) (n : Nat) : SyncObj := kget {} s.sync n
def State.setSync (s : State) (n : Nat) (x : SyncObj) : State := { s with sync := kset {} s.sync n x }
/-- The key of a partition. -/
def PartId.key (p : PartId) : Nat := 64 * p.owner.toNat + p.pid.toNat
def State.partAt (s : State) (p : PartId) : Option Part := kfind s.part p.key
def State.setPart (s : State) (x : Part) : State := { s with part := kput s.part x.id.key x }
def State.modPart (s : State) (p : PartId) (f : Part → Part) : State :=
  match s.partAt p with
  | none => s
  | some x => s.setPart (f x)
def Part.lqAt (p : Part) (l : Nat) : Lq := kget {} p.lqs l
def Part.setLq (p : Part) (l : Nat) (x : Lq) : Part := { p with lqs := kset {} p.lqs l x }
def State.modLq (s : State) (i : LqId) (f : Lq → Lq) : State :=
  s.modPart i.part (fun p => p.setLq i.l.toNat (f (p.lqAt i.l.toNat)))
def State.lqOf (s : State) (i : LqId) : Option Lq := (s.partAt i.part).map (fun p => p.lqAt i.l.toNat)
def State.coreAt (s : State) (c : Nat) : Core := kget {} s.sep.core c
def State.setCore (s : State) (c : Nat) (x : Core) : State :=
  { s with sep := { s.sep with core := kset {} s.sep.core c x } }
def State.dcoreAt (s : State) (c : Nat) : DbgCore := kget {} s.dbg.core c
def State.setDcore (s : State) (c : Nat) (x : DbgCore) : State :=
  { s with dbg := { s.dbg with core := kset {} s.dbg.core c x } }
def State.linkAt (s : State) (l : Nat) : Link := kget {} s.kl.link l
def State.setLink (s : State) (l : Nat) (x : Link) : State :=
  { s with kl := { s.kl with link := kset {} s.kl.link l x } }
def State.domAt (s : State) (d : Nat) : Dom := kget {} s.pwr.dom d
def State.setDom (s : State) (d : Nat) (x : Dom) : State :=
  { s with pwr := { s.pwr with dom := kset {} s.pwr.dom d x } }
/-- Domain `d` is in RUN. -/
def State.domRun (s : State) (d : Nat) : Bool := (s.domAt d).st == .run

-- Error logs and reasons
/-- The ERRLOG of a block. -/
def getErr (b : Blk) (s : State) : ErrLog :=
  match b with
  | .glb => s.glb.errlog | .tk => s.tk.errlog | .sched => s.sched.errlog | .ink => s.ink.errlog
  | .sort => s.coll.errlog | .kl => s.kl.errlog | .mad => s.mad.errlog | .vel => s.vel.errlog
  | .plant => s.plant.errlog | .dbg => s.dbg.errlog | .pwr => s.pwr.errlog | .sep => s.sep.errlog
  | .quill q => (s.pqAt q.toNat).errlog

/-- Put the ERRLOG of a block. -/
def setErr (b : Blk) (e : ErrLog) (s : State) : State :=
  match b with
  | .glb => { s with glb := { s.glb with errlog := e } }
  | .tk => { s with tk := { s.tk with errlog := e } }
  | .sched => { s with sched := { s.sched with errlog := e } }
  | .ink => { s with ink := { s.ink with errlog := e } }
  | .sort => { s with coll := { s.coll with errlog := e } }
  | .kl => { s with kl := { s.kl with errlog := e } }
  | .mad => { s with mad := { s.mad with errlog := e } }
  | .vel => { s with vel := { s.vel with errlog := e } }
  | .plant => { s with plant := { s.plant with errlog := e } }
  | .dbg => { s with dbg := { s.dbg with errlog := e } }
  | .pwr => { s with pwr := { s.pwr with errlog := e } }
  | .sep => { s with sep := { s.sep with errlog := e } }
  | .quill q => s.modPq q.toNat (fun p => { p with errlog := e })

/-- R624: an ERRLOG records an error only while its CODE reads 0. -/
def recordErr (old new : ErrLog) : ErrLog := if old.code = 0 then new else old

/-- The configuration errors of Table 13.9 raise source VEL_CFG (R394, R480). -/
def noteCfg (b : Blk) (code : W16) (s : State) : State :=
  if b == .vel && 0x0983 ≤ code.toNat && code.toNat ≤ 0x098A then { s with vel := { s.vel with cfgRaised := true } } else s

/-- R624: a block logs an error. -/
def logErr (b : Blk) (code : W16) (ag : Agent) (addr : BitVec 48) (s : State) : State :=
  setErr b (recordErr (getErr b s) { addr := addr, agent := ag, cls := 0, code := code }) (noteCfg b code s)

/-- R624 with the CLASS field of Table 02.10. -/
def logErrC (b : Blk) (code : W16) (ag : Agent) (addr : BitVec 48) (cls : BitVec 4) (s : State) : State :=
  setErr b (recordErr (getErr b s) { addr := addr, agent := ag, cls := cls, code := code }) s

/-- R575: a failed check latches its reason in the block's REASON register. -/
def setReason (b : Blk) (r : W16) (s : State) : State :=
  match b with
  | .glb => { s with glb := { s.glb with reason := r } }
  | .tk => { s with tk := { s.tk with reason := r } }
  | .ink => { s with ink := { s.ink with reason := r } }
  | .sort => { s with coll := { s.coll with reason := r } }
  | .kl => { s with kl := { s.kl with reason := r } }
  | .mad => { s with mad := { s.mad with reason := r } }
  | .vel => { s with vel := { s.vel with reason := r } }
  | .plant => { s with plant := { s.plant with reason := r } }
  | .dbg => { s with dbg := { s.dbg with reason := r } }
  | .pwr => { s with pwr := { s.pwr with reason := r } }
  | .sep => { s with sep := { s.sep with reason := r } }
  | .sched | .quill _ => s

/-- The reason register of an owner (CTX_REASON). -/
def setCtxReason (o : Nat) (r : W16) (s : State) : State := s.setOwn o { s.ownAt o with reason := r }

/-- The first reason of a list of checks that holds: (it fails, its reason). -/
def firstReason : List (Bool × W16) → Option W16
  | [] => none
  | (b, r) :: cs => if b then some r else firstReason cs

/-- R575: run a check of a block; a failure latches its reason, success goes on with `ok`. -/
def checked (b : Blk) (cs : List (Bool × W16)) (ok : State → State) (s : State) : State :=
  match firstReason cs with
  | some r => setReason b r s
  | none => ok s

-- Answers
/-- The answer an access gives its agent. -/
def ans (ag : Agent) (st : RspSt) (d : BitVec 512) (s : State) : State :=
  { s with rsp := { st := st, agent := ag, data := d } }

-- Agents (Table 17.9)
def agHost : Agent := 0x110
def agSort : Agent := 0x130
def agColl : Agent := 0x140
def agPlant : Agent := 0x150
def agVel : Agent := 0x160
def agDbg : Agent := 0x170
def agSched : Agent := 0x180
def agMad : Agent := 0x190
def agCore (c : Nat) : Agent := BitVec.ofNat 9 (0x100 + c)
def agInk (k : Nat) : Agent := BitVec.ofNat 9 (0x120 + k)

/-- R591: an error response to a host access is counted and recorded in AER. -/
def hostErrCount (ag : Agent) (s : State) : State :=
  if ag = agHost then { s with host := { s.host with errcnt := satInc s.host.errcnt, aer := true } } else s

/-- An error response to `ag`. -/
def errRsp (ag : Agent) (s : State) : State := hostErrCount ag (ans ag .err 0 s)

/-- The response of a split access: to a core's uncached access (R384), to the fabric master (R446), or to the agent that
waits for it. -/
def respond (ag : Agent) (err : Bool) (d : W32) (s : State) : State :=
  let c := ag.toNat - 0x100
  let core := s.coreAt c
  if 0x100 ≤ ag.toNat ∧ ag.toNat < 0x108 ∧ core.uncached.isSome then
    s.setCore c { core with uncached := core.uncached.map (fun u => { u with resp := some (err, d) }) }
  else if ag = agVel ∧ s.vel.mst.isSome then
    { s with vel := { s.vel with mst := s.vel.mst.map (fun m => { m with resp := some (err, d) }) } }
  else if err then errRsp ag s
  else ans ag .ok (d.setWidth 512) s

-- Free values
/-- Draw a free value. -/
def draw (s : State) : Nat × State := (Config.freeValue s.fresh, { s with fresh := s.fresh + 1 })

/-- Draw `n` free values. -/
def drawN : Nat → State → List Nat × State
  | 0, s => ([], s)
  | n + 1, s => let (x, s) := draw s; let (xs, s) := drawN n s; (x :: xs, s)

-- Crossings (R38, R39)
/-- The number of a crossing class. -/
def XCls.num : XCls → Nat
  | .mesh => 0 | .q2p => 1 | .p2q => 2 | .q2s => 3 | .s2q => 4 | .q2i => 5 | .i2q => 6 | .i2h => 7
  | .s2e => 8 | .c2k => 9 | .m2q => 10 | .sep => 11 | .hst => 12 | .xtr => 13

/-- The crossing an item lies on: its class, sender and receiver. -/
def XItem.cross (x : XItem) : Nat := x.cls.num * 0x1000000 + x.src * 0x1000 + x.dst

/-- Table 02.2: M of a class. -/
def XCls.m : XCls → Nat
  | .mesh => 72 | .q2p => 6 | .p2q => 6 | .q2s => 10 | .s2q => 10 | .q2i => 12 | .i2q => 12 | .i2h => 16
  | .s2e => 8 | .c2k => 8 | .m2q => 12 | .sep => 16 | .hst => 16 | .xtr => 6

/-- Table 02.2: the least and the greatest delay after which an item of a class arrives. -/
def XCls.lo : XCls → Nat
  | .mesh => 5 | .q2p => 3 | .p2q => 3 | .q2s => 4 | .s2q => 4 | .q2i => 5 | .i2q => 5 | .i2h => 6
  | .s2e => 3 | .c2k => 3 | .m2q => 5 | .sep => 6 | .hst => 6 | .xtr => 3
def XCls.hi : XCls → Nat
  | .mesh => 65 | .q2p => 5 | .p2q => 5 | .q2s => 8 | .s2q => 8 | .q2i => 10 | .i2q => 10 | .i2h => 13
  | .s2e => 6 | .c2k => 6 | .m2q => 10 | .sep => 13 | .hst => 13 | .xtr => 5

/-- R40: the release tick of a metered item. -/
def XItem.dueAt (x : XItem) : W64 := x.stamp + BitVec.ofNat 64 x.cls.m

/-- R40, R41: an arrived item may be released: at its arrival in LOOSE timing, from tick T + M when metered. -/
def XItem.ripe (now : W64) (x : XItem) : Bool := x.arrived && (!x.metered || x.dueAt.ule now)

/-- R38: split the items of a crossing list into those released now and those kept: an item never passes an earlier one
of its crossing. `held` lists the crossings with an item kept so far. -/
def releaseSplit (now : W64) (ok : XItem → Bool) : List Nat → List XItem → List XItem × List XItem
  | _, [] => ([], [])
  | held, x :: xs =>
    if ok x && !held.contains x.cross then
      let r := releaseSplit now ok held xs
      ({ x with rel := now } :: r.1, r.2)
    else
      let r := releaseSplit now ok (x.cross :: held) xs
      (r.1, x :: r.2)

/-- The items that this tick still releases. -/
def dueItems (s : State) : List XItem := (releaseSplit s.now (XItem.ripe s.now) [] s.xing).1

/-- R42: an item that satisfies `p` has been released, or is released on this tick, and has not been taken. -/
def dueNow (p : XItem → Bool) (s : State) : Bool := s.inbox.any p || (dueItems s).any p

/-- R39: an item falls due on its crossing: it goes through the sender's send latch, which places one item per tick. -/
def sendX (x : XItem) (s : State) : State := { s with latch := s.latch ++ [x] }

/-- R528, R530: the fires and resumes of one tick combine by OR into one item, which crosses under XTR in T + 6 ticks in
every timing class (R529). -/
def sendXt (fire resume : Byte) (ag : Agent) (s : State) : State :=
  if fire ||| resume = 0 then s else
  let same := fun (x : XItem) => x.cls == .xtr && x.stamp == s.now
  if s.latch.any same then
    { s with latch := s.latch.map (fun x => match x.pay with
        | .xt f r a => if same x then { x with pay := .xt (f ||| fire) (r ||| resume) a } else x
        | _ => x) }
  else sendX { cls := .xtr, src := 0, dst := 0, stamp := s.now, metered := true, pay := .xt fire resume ag } s

/-- R528: cross-trigger channels fire. -/
def xtFire (m : Byte) (ag : Agent) (s : State) : State :=
  if m = 0 then s else
  let s := sendXt m 0 ag s
  { s with dbg := { s.dbg with lastCh := m, lastAg := ag, xtTick := s.now } }

-- Messages to the host
/-- Word `i` of the MSI-X table; the mask bit of a vector's word 3 is 1 after reset (PCIe). -/
def HostBlk.msixWord (h : HostBlk) (i : Nat) : W32 := kget (if i % 4 = 3 then 1 else 0) h.msix i

/-- R600: vector `v` is masked. -/
def HostBlk.masked (h : HostBlk) (v : Nat) : Bool := !h.msixEn || bit (h.msixWord (4 * v + 3)) 0

/-- R597, R600: a message of vector `v` falls due at the host interface. -/
def sendMsi (v : Byte) (s : State) : State :=
  if s.host.masked v.toNat then { s with host := { s.host with pba := kset false s.host.pba v.toNat true } }
  else { s with host := { s.host with out := s.host.out ++ [.msi v] } }

/-- R592: a posted write to host memory. -/
def hostWrite (a : W64) (d : List Byte) (s : State) : State :=
  { s with host := { s.host with out := s.host.out ++ [.write a d] } }

/-- What an environment of host memory answers to a read of `n` bytes at `a`: none where a byte is missing (R592). -/
def hostRead (h : HostBytes) (a : W64) (n : Nat) : Option (List Byte) :=
  let bs := (List.range n).map (fun i => (h.find? (fun c => c.1 == a.toNat + i)).map (·.2))
  if bs.all Option.isSome then some (bs.filterMap id) else none

-- Register words
/-- Low or high word of a 64-bit value. -/
def half (hi : Bool) (x : W64) : W32 := if hi then fld x 32 32 else fld x 0 32

/-- The three words of an ERRLOG (Table 02.10). -/
def errWord (e : ErrLog) (k : Nat) : W32 :=
  if k = 0 then fld e.addr 0 32
  else if k = 1 then (fld e.addr 32 16).setWidth 32
  else e.cls ++ (0 : BitVec 3) ++ e.agent ++ e.code

/-- A command ended with state `s`. -/
def done (s : State) : Out := .next s

/-- The counter runs (R33, R82, R569): the tick PLL stands still in a low-power state, and after power-on and external reset the
counter starts at the release; host and warm resets leave it running. -/
def tickRuns (s : State) : Bool :=
  (s.domRun 40 || (s.domAt 40).st == .drain) && s.pwr.state == 0 && !((s.glb.resetHeld || s.glb.atReset) && s.glb.lastReset.toNat ≤ 1)

end Sys2Proof.Machine
end

