-- ==== Sys2Proof/Machine/Plant.lean ====
section
/-!
DEFINITION. The plant port: evidence and decision mailboxes, limits, bindings, the trip path and the PLANT registers
(chapter 14).
-/
namespace Sys2Proof.Machine

/-- A byte of the active surroundings table (R571). -/
def State.surrByte (s : State) (i : Nat) : Byte := kget 0 s.glb.active i
/-- A little-endian word of the active surroundings table. -/
def State.surrWord (s : State) (i : Nat) : W32 :=
  leWord 32 [s.surrByte i, s.surrByte (i + 1), s.surrByte (i + 2), s.surrByte (i + 3)]

-- Table 14.1: the limits of decision mailbox m, in the plant section at byte 0x400 of the table (Table 16.9)
def State.mbLo (s : State) (m : Nat) : W32 := s.surrWord (0x500 + 16 * m)
def State.mbHi (s : State) (m : Nat) : W32 := s.surrWord (0x504 + 16 * m)
def State.decSafe (s : State) (m : Nat) : W32 := s.surrWord (0x508 + 16 * m)
def State.mbSigned (s : State) (m : Nat) : Bool := bit (s.surrByte (0x50C + 16 * m)) 0
def State.mbAction (s : State) (m : Nat) : BitVec 2 := fld (s.surrByte (0x50C + 16 * m)) 1 2

/-- R498: a is below b under the mailbox's SIGNED setting. -/
def mbLess (sg : Bool) (a b : W32) : Bool := if sg then a.slt b else a.ult b

/-- R505: the trip is active. -/
def State.tripActive (s : State) : Bool := s.plant.tripPin || (s.plant.latch && s.plant.tripLatched)

/-- What mailbox `m` presents: its register while armed, DEC_SAFE while disarmed (R499). -/
def State.presents (s : State) (m : Nat) : W32 :=
  if bit s.plant.armed m then kget 0 s.plant.dec m else s.decSafe m

/-- Present what mailbox `m` now presents. -/
def presentOne (s : State) (m : Nat) : State :=
  { s with plant := { s.plant with shown := kset 0 s.plant.shown m (s.presents m) } }

/-- R497: present the result of the tick's work on the mailboxes of `ms`. -/
def present (ms : List Nat) (s : State) : State := ms.foldl presentOne s

/-- The mailboxes of a mask. -/
def mboxes (w : W64) : List Nat := (List.range 64).filter (bit w)

/-- R498: the value a decision register takes: (value, outside the limits with ACTION 1 or 2). -/
def limitCheck (sg : Bool) (act : BitVec 2) (lo hi v old : W32) : W32 × Bool :=
  let below := mbLess sg v lo
  let above := mbLess sg hi v
  if !(below || above) then (v, false)
  else if act = 1 then (if below then lo else hi, true)
  else if act = 2 then (old, true)
  else (v, false)

/-- R498: decision mailbox `m` takes the posted value `v`. -/
def decTake (m : Nat) (v : W32) (s : State) : State :=
  let r := limitCheck (s.mbSigned m) (s.mbAction m) (s.mbLo m) (s.mbHi m) v (kget 0 s.plant.dec m)
  let s := { s with plant := { s.plant with dec := kset 0 s.plant.dec m r.1 } }
  let s := if r.2 then
      logErr .plant 0x0A80 agPlant (BitVec.ofNat 48 m)
        { s with plant := { s.plant with limitHit := setBit s.plant.limitHit m true } }
    else s
  presentOne s m

/-- R497: disarm the mailboxes of a mask; an arm on the same tick has no effect. -/
def disarmMask (w : W64) (s : State) : State :=
  let s := { s with plant := { s.plant with armed := s.plant.armed &&& ~~~w, disarmed := s.plant.disarmed ||| w } }
  present (mboxes w) s

/-- R497: arm the mailboxes of a mask, but for those disarmed on this tick. -/
def armMask (w : W64) (s : State) : State :=
  let s := { s with plant := { s.plant with armed := s.plant.armed ||| (w &&& ~~~s.plant.disarmed) } }
  present (mboxes w) s

/-- An evidence mailbox takes a value from the evidence port; a second write taken on one tick is logged (R502; log entry 11). -/
def evTake (m : BitVec 6) (v : W32) (s : State) : State :=
  let two := s.plant.evTaken ≠ 0
  let s := { s with plant := { s.plant with
    evid := kset 0 s.plant.evid m.toNat v, evTaken := setBit s.plant.evTaken m.toNat true } }
  if two then logErr .plant 0x0A81 agPlant (BitVec.ofNat 48 m.toNat) s else s

/-- The plant island's work of a new tick: strobes of the update ticks (R500), evidence written through the registers
(R503), and the marks of the tick that ends. -/
def plantTick (s : State) : State :=
  let p := s.plant
  let chg : W64 := (List.range 64).foldl (fun w m => if kget 0 p.shown m = kget 0 p.base m then w else setBit w m true) 0
  let s := { s with plant := { p with
    tripAge := if p.tripAge = 3 then 3 else p.tripAge + 1
    strobe := p.strobe ^^^ chg, base := p.shown, evBase := p.evid, disarmed := 0, evTaken := 0, evPend := [] } }
  { s with plant := { s.plant with evid := p.evPend.foldl (fun m e => kset 0 m e.1.toNat e.2) p.evid } }

/-- R493: mailboxes bound to an owner. -/
def boundMask (b : KMap PartId) (p : PartId → Bool) : W64 :=
  b.foldl (fun w e => if p e.2 then setBit w e.1 true else w) 0

/-- R495: unbind decision mailboxes, which disarms them. -/
def unbindDec (w : W64) (s : State) : State :=
  disarmMask w { s with plant := { s.plant with decBind := kfilter (fun m _ => !bit w m) s.plant.decBind } }

/-- Unbind evidence mailboxes. -/
def unbindEv (w : W64) (s : State) : State :=
  { s with plant := { s.plant with evBind := kfilter (fun m _ => !bit w m) s.plant.evBind } }

/-- R493: a context's end unbinds its mailboxes. -/
def unbindOwner (o : Owner) (s : State) : State :=
  unbindEv (boundMask s.plant.evBind (fun p => p.owner == o))
    (unbindDec (boundMask s.plant.decBind (fun p => p.owner == o)) s)

/-- R493, R495: bind mailboxes to a pair. -/
def bindMailboxes (p : PartId) (ev dec : W64) (s : State) : State :=
  let s := { s with plant := { s.plant with
    evBind := (mboxes ev).foldl (fun b m => kput b m p) s.plant.evBind
    decBind := (mboxes dec).foldl (fun b m => kput b m p) s.plant.decBind
    dec := (mboxes dec).foldl (fun d m => kset 0 d m (s.decSafe m)) s.plant.dec } }
  disarmMask dec s

/-- POST_RELEASE picks the oldest value, and among values of one tick that of the lowest logical Quill (R198). -/
def postKey (x : XItem) : Nat :=
  match x.pay with
  | .post src _ _ => x.rel.toNat * 256 + src.l.toNat
  | _ => 0

def isPost (x : XItem) : Bool := match x.pay with | .post _ _ _ => true | _ => false

/-- The element of a list with the least key, and the list without it. -/
def takeMin (key : XItem → Nat) : List XItem → Option (XItem × List XItem)
  | [] => none
  | x :: xs =>
    match takeMin key xs with
    | none => some (x, [])
    | some (y, ys) => if key x ≤ key y then some (x, xs) else some (y, x :: ys)

/-- Take from the inbox the item satisfying `p` with the least key. -/
def inboxTake (p : XItem → Bool) (key : XItem → Nat) (s : State) : Option (XItem × State) :=
  match takeMin key (s.inbox.filter p) with
  | none => none
  | some (x, rest) => some (x, { s with inbox := s.inbox.filter (fun y => !p y) ++ rest })

/-- POST_RELEASE (R498): a posted value released at the plant island. -/
def execPostRelease (s : State) : Out :=
  match inboxTake isPost postKey s with
  | some (x, s) =>
    match x.pay with
    | .post src m v =>
      -- R493: the mailbox is still bound to the poster's pair
      if kfind s.plant.decBind m.toNat = some src.part then done (decTake m.toNat v s) else done s
    | _ => done s
  | none => done s

/-- DISARM_ALL (R497). -/
def execDisarmAll (s : State) : Out := done (disarmMask (BitVec.allOnes 64) s)

/-- EVIDENCE_WRITE (R501 to R503): the fabric port's write is taken by a fabric-sourced mailbox. -/
def execEvidenceWrite (m : BitVec 6) (v : W32) (s : State) : Out :=
  done (if bit s.plant.evSrc m.toNat then s else evTake m v s)

/-- R503: a register write of PLANT_EV_WR_DATA. -/
def plantEvWr (v : W32) (s : State) : State :=
  if bit s.plant.evSrc s.plant.evWrMbox.toNat then
    { s with plant := { s.plant with evPend := s.plant.evPend ++ [(s.plant.evWrMbox, v)] } }
  else setReason .plant 0x0A08 s

/-- PLANT_EV_WR_DATA (R503). -/
def execPlantEvWrData (v : W32) (s : State) : Out := done (plantEvWr v s)

/-- TRIP_ASSERT (R505, R29): filtered TRIP_N falls. -/
def execTripAssert (s : State) : Out :=
  done (if s.plant.tripPin then s else
    { s with plant := { s.plant with
        tripPin := true, tripUnseen := true, tripAge := 0, tripLatched := s.plant.tripLatched || s.plant.latch } })

/-- TRIP_SEEN (R508): the synchroniser passes the trip on its second tick or, at the latest, on the third. -/
def execTripSeen (s : State) : Out :=
  done (if s.plant.tripUnseen && 2 ≤ s.plant.tripAge.toNat && s.domRun 40 then
    let s := { s with plant := { s.plant with
      tripUnseen := false, tripCount := satInc s.plant.tripCount, tripTick := s.now } }
    let s := if s.plant.disarm then disarmMask (BitVec.allOnes 64) s else s
    logErr .plant 0x0A82 agPlant 0 s
  else s)

/-- TRIP_DEASSERT (R507). -/
def execTripDeassert (s : State) : Out := done { s with plant := { s.plant with tripPin := false } }

/-- R507: a write of TRIP_CLR. -/
def tripClr (s : State) : State :=
  if s.plant.tripPin then setReason .plant 0x0A07 s
  else { s with plant := { s.plant with tripLatched := false } }

/-- TRIP_CLR (R507). -/
def execTripClr (s : State) : Out := done (tripClr s)

-- Registers (Tables 14.6, 14.7)
/-- A binding field (Table 14.7); 0x7F: unbound. -/
def bindWord : Option PartId → W32
  | none => 0x7F
  | some p => p.owner.setWidth 32 ||| (p.pid.setWidth 32 <<< 8)

/-- The value a PLANT register holds. -/
def plantRead (off : Nat) (s : State) : W32 :=
  let p := s.plant
  if off = 0x000 then
    b2w p.tripPin ||| (b2w p.tripLatched <<< 1) ||| (b2w p.filtEn <<< 2) ||| (b2w p.latch <<< 3) ||| (b2w p.disarm <<< 4)
  else if off = 0x008 then p.reason.setWidth 32
  else if 0x010 ≤ off ∧ off ≤ 0x018 then errWord p.errlog ((off - 0x010) / 4)
  else if off = 0x020 then p.tripCount.setWidth 32
  else if off = 0x028 ∨ off = 0x02C then half (off = 0x02C) p.tripTick
  else if off = 0x030 ∨ off = 0x034 then half (off = 0x034) p.armed
  else if off = 0x038 ∨ off = 0x03C then half (off = 0x03C) p.limitHit
  else if off = 0x040 ∨ off = 0x044 then half (off = 0x044) p.evSrc
  else if off = 0x048 then p.evWrMbox.setWidth 32
  else if 0x100 ≤ off ∧ off < 0x200 then kget 0 p.evid ((off - 0x100) / 4)
  else if 0x200 ≤ off ∧ off < 0x300 then kget 0 p.dec ((off - 0x200) / 4)
  else if 0x300 ≤ off ∧ off < 0x400 then bindWord (kfind p.evBind ((off - 0x300) / 4))
  else if 0x400 ≤ off ∧ off < 0x500 then
    bindWord (kfind p.decBind ((off - 0x400) / 4)) ||| (b2w (bit p.armed ((off - 0x400) / 4)) <<< 16)
  else 0

/-- What a read of an RC register of PLANT clears. -/
def plantClear (off : Nat) (s : State) : State :=
  if off = 0x020 then { s with plant := { s.plant with tripCount := 0 } } else s

/-- A write of a PLANT register; a pair's whole value arrives with its high word. -/
def plantWrite (off : Nat) (v : W32) (pair : W64) (s : State) : State :=
  if off = 0x004 then
    let s := if bit v 0 then tripClr s else s
    if bit v 1 then disarmMask (BitVec.allOnes 64) s else s
  else if off = 0x038 then { s with plant := { s.plant with limitHit := s.plant.limitHit &&& ~~~(v.setWidth 64) } }
  else if off = 0x03C then { s with plant := { s.plant with limitHit := s.plant.limitHit &&& ~~~(v.setWidth 64 <<< 32) } }
  else if off = 0x044 then { s with plant := { s.plant with evSrc := pair } }
  else if off = 0x048 then { s with plant := { s.plant with evWrMbox := fld v 0 6 } }
  else if off = 0x04C then plantEvWr v s
  else s

/-- R492: the force register of pin `p`: SAFE in [1:0], FORCED in [2]; power-on value FORCED with SAFE 3. -/
def State.forceReg (s : State) (p : Nat) : BitVec 3 := kget 7 s.plant.force p

/-- R492: copy SAFE, FORCED, FILT_EN, LATCH and DISARM of the active table into the force registers. -/
def copyForce (s : State) : State :=
  { s with plant := { s.plant with
    force := (List.range 192).foldl (fun f p => kset 7 f p (fld (s.surrByte (0x400 + p)) 0 3)) s.plant.force
    filtEn := bit (s.surrByte 0x4C0) 0
    latch := bit (s.surrByte 0x4C0) 1
    disarm := bit (s.surrByte 0x4C0) 2
    tripLatched := s.plant.tripLatched || (bit (s.surrByte 0x4C0) 1 && s.plant.tripPin) } }

end Sys2Proof.Machine
end

