-- ==== Sys2Proof/Machine/Flash.lean ====
section
/-!
DEFINITION. Embedded flash (R485 to R488), the CRC-32 of R453 and words of page buffers.
-/
namespace Sys2Proof.Machine

/-- One step of the CRC register for a byte, least significant bit first. -/
def crcShift : Nat → W32 → W32
  | 0, c => c
  | n + 1, c => crcShift n (if bit c 0 then (c >>> 1) ^^^ 0xEDB88320 else c >>> 1)

/-- R453: the IEEE 802.3 CRC-32 of a list of bytes. -/
def crc32 (bs : List Byte) : W32 :=
  ~~~ (bs.foldl (fun c b => crcShift 8 (c ^^^ b.setWidth 32)) 0xFFFFFFFF)

/-- A byte of a flash. -/
def Flash.byte (f : Flash) (a : Nat) : Byte := kget 0xFF f.mem a
/-- The 32-bit word at byte address 4 `w`. -/
def Flash.word (f : Flash) (w : Nat) : W32 := leWord 32 (kread 0xFF f.mem (4 * w) 4)
/-- The word at byte address `a` has an uncorrectable ECC error (R486). -/
def Flash.bad (f : Flash) (a : Nat) : Bool := kget false f.badW (a / 8)
/-- A command runs. -/
def Flash.busy (f : Flash) : Bool := f.op.isSome

/-- R485: a program of page `p` is refused. -/
def Flash.refuses (f : Flash) (p : Nat) : Bool :=
  kget false f.progd p || kget false f.incomp (p / 16)

/-- A program or erase finishes (R485, R487): an erase ends by writing its sector's erase-complete marker. -/
def Flash.finish (f : Flash) : Flash :=
  match f.op with
  | none => f
  | some (.program p d) =>
    { f with op := none, mem := kbytes 0xFF f.mem (256 * p) (wordBytes 256 d), progd := kset false f.progd p true }
  | some (.erase n) =>
    { f with
      op := none
      mem := kfilter (fun a _ => a / 4096 != n) f.mem
      progd := kfilter (fun p _ => p / 16 != n) f.progd
      badW := kfilter (fun w _ => w / 512 != n) f.badW
      incomp := kset false f.incomp n false
      wear := kmod 0 f.wear n (· + 1) }

/-- R487: an erase is abandoned: the sector is INCOMPLETE and its bytes are free values. -/
def Flash.abandonErase (f : Flash) (n : Nat) (free : List Nat) : Flash :=
  { f with
    op := none
    mem := kbytes 0xFF f.mem (4096 * n) (free.map (BitVec.ofNat 8))
    incomp := kset false f.incomp n true }

/-- R486: power fails in a page program after `k` words: the interrupted word is indeterminate. -/
def Flash.powerProgram (f : Flash) (p : Nat) (d : BitVec 2048) (k : Nat) (free : List Nat) : Flash :=
  let new := (wordBytes 256 d).take (8 * k) ++ (free.map (BitVec.ofNat 8))
  { f with
    op := none
    mem := kbytes 0xFF f.mem (256 * p) (new.take 256)
    progd := kset false f.progd p true
    badW := if k < 32 then kset false f.badW (32 * p + k) true else f.badW }

/-- R486, R487: power fails. -/
def flashPower (f : Flash) (s : State) : Flash × State :=
  match f.op with
  | none => (f, s)
  | some (.program p d) =>
    let (k, s) := draw s
    let (xs, s) := drawN 8 s
    (f.powerProgram p d (k % 32) xs, s)
  | some (.erase n) =>
    let (xs, s) := drawN 4096 s
    (f.abandonErase n xs, s)

/-- R567: a chip reset lets a page program finish and abandons an erase. -/
def flashReset (f : Flash) (s : State) : Flash × State :=
  match f.op with
  | some (.erase n) => let (xs, s) := drawN 4096 s; (f.abandonErase n xs, s)
  | _ => (f.finish, s)

/-- The 256 bytes of a page buffer of 64 words. -/
def pageOfBuf (b : KMap W32) : BitVec 2048 := leWord 2048 (bytesOfWords b 64)

/-- INCOMPLETE sectors of a flash (VEL_FLS): their count, the lowest, scan done. -/
def flsWord (f : Flash) : W32 :=
  if f.scanned then
    let ss := f.incomp.map (·.1)
    BitVec.ofNat 32 (ss.length + (ss.headD 0) * 0x10000 + 0x80000000)
  else 0

end Sys2Proof.Machine
end

