-- ==== Sys2Proof/Machine/VelConfig.lean ====
section
/-!
DEFINITION. Loading, rewriting, locking and scrubbing the Vellum configuration (chapter 13).
-/
namespace Sys2Proof.Machine

/-- R451: the number of frames. -/
def nFrames : Nat := 3584
/-- R452: the length of an image. -/
def imageLen : Nat := 473216

/-- R451: the region of a frame (Table 13.1). -/
def regionOf (f : Nat) : Nat :=
  if f < 3072 then f / 48 else if f < 3264 then f - 3072 + 64 else if f < 3552 then (f - 3264) / 18 + 256 else 272

/-- The frames of a region. -/
def framesOf (r : Nat) : List Nat :=
  if r < 64 then (List.range 48).map (· + 48 * r)
  else if r < 256 then [3072 + (r - 64)]
  else if r < 272 then (List.range 18).map (· + 3264 + 18 * (r - 256))
  else (List.range 32).map (· + 3552)

/-- R453: the CRC of frame `f`: over its number in two bytes and its 128 data bytes. -/
def frameCrc (f : Nat) (d : List Byte) : W32 :=
  crc32 (BitVec.ofNat 8 f :: BitVec.ofNat 8 (f / 256) :: d)

/-- The CRC of a frame's 1,024 bits. -/
def frameCrcW (f : Nat) (d : BitVec 1024) : W32 := frameCrc f (wordBytes 128 d)

/-- The result of reading an image: the check that failed and its frame, the frames written, DESIGN_ID and CHAIN. -/
structure LoadRes where
  fail   : Option (Nat × Nat) := none
  frames : KMap FrameRec := []
  ids    : KMap W32 := []
  chain  : Bool := false
deriving DecidableEq, Repr

/-- Bytes `lo` to `hi - 1` of an image are zero. -/
def zeros (bs : List Byte) (lo hi : Nat) : Bool := ((bs.drop lo).take (hi - lo)).all (· == 0)

/-- The little-endian word at byte `i`. -/
def at32 (bs : List Byte) (i : Nat) : W32 := leWord 32 ((bs.drop i).take 4)

/-- Table 13.4, steps 1 and 2, on the 64 header bytes. -/
def headerFail (h : List Byte) (idcode : W32) : Option Nat :=
  if at32 h 0 = 0x5E70C0DE ∧ (at32 h 8).setWidth 16 = (1 : W16) ∧ (h.getD 10 0) &&& 0xFE = 0 ∧ zeros h 11 12
    ∧ at32 h 12 = 0x00840E00 ∧ zeros h 32 60 ∧ at32 h 60 = crc32 (h.take 60) then
    if (at32 h 4) >>> 4 = idcode >>> 4 then none else some 2
  else some 1

/-- Table 13.4, steps 3, 5 and 6, frame by frame: `n` frames from frame `f` at image byte `off`. -/
def readFrames (bad : Nat → Bool) (org : Origin) : Nat → Nat → Nat → List Byte → KMap FrameRec → List Byte →
    (Option (Nat × Nat) × KMap FrameRec × List Byte × List Byte)
  | 0, _, _, bs, acc, crcs => (none, acc.reverse, crcs.reverse, bs)
  | n + 1, f, off, bs, acc, crcs =>
    let rec132 := bs.take 132
    if rec132.length < 132 then (some (6, f), acc.reverse, crcs.reverse, bs)
    else if (List.range 132).any (fun i => bad (off + i)) then (some (5, f), acc.reverse, crcs.reverse, bs)
    else
      let d := rec132.take 128
      let c := leWord 32 (rec132.drop 128)
      if frameCrc f d = c then
        readFrames bad org n (f + 1) (off + 132) (bs.drop 132)
          ((f, { data := leWord 1024 d, crc := c, origin := org }) :: acc)
          ((rec132.drop 128).reverse ++ crcs)
      else (some (3, f), acc.reverse, crcs.reverse, bs)

/-- R454: read an image; `bad a` says that image byte `a` lies in an uncorrectable flash word. -/
def readImage (bs : List Byte) (bad : Nat → Bool) (org : Origin) (idcode : W32) : LoadRes :=
  let h := bs.take 64
  let chain := bit (h.getD 10 0) 0
  let ids := (List.range 4).foldl (fun m i => kset 0 m i (at32 h (16 + 4 * i))) []
  if h.length < 64 then { fail := some (6, 0) }
  else if (List.range 64).any bad then { fail := some (5, 0), chain := chain }
  else match headerFail h idcode with
  | some n => { fail := some (n, 0), chain := chain }
  | none =>
    match readFrames bad org nFrames 0 64 (bs.drop 64) [] [] with
    | (some e, fs, _, _) => { fail := some e, frames := fs, chain := chain }
    | (none, fs, crcs, t) =>
      if t.length < 64 then { fail := some (6, nFrames - 1), frames := fs, chain := chain }
      else if (List.range 64).any (fun i => bad (473152 + i)) then { fail := some (5, nFrames - 1), frames := fs, chain := chain }
      else if at32 t 0 = 0x5E70E0D0 ∧ at32 t 4 = crc32 crcs ∧ zeros t 8 60 ∧ at32 t 60 = crc32 (t.take 60) then
        { frames := fs, ids := ids, chain := chain }
      else { fail := some (4, nFrames - 1), frames := fs, chain := chain }

/-- GLB_IDCODE (Table 00.4): the stepping A1. -/
def idcodeVal : W32 := 0x5E000111

/-- R455: a load makes the fabric unconfigured and clears the frames; CFG_DONE is low. -/
def loadStart (s : State) : State :=
  { s with vel := { s.vel with
    frames := [], gcfg := none, fab := {}, loaded := false, busy := true, passed := false, fallback := false, cfgErr := false,
    cfgDone := false, cfgErrN := true, failFrame := 0, failStep := 0, strm := none, dinBusy := false, dinTake := false, qspiDue := false } }

/-- R488: an uncorrectable word of the configuration flash is logged with its address. -/
def logCflWord (a : Nat) (s : State) : State :=
  logErr .vel 0x0985 agVel (BitVec.ofNat 48 (0xC0 * 0x10000000000 + a)) s

/-- The image of flash slot `n`. -/
def slotImage (s : State) (n : Nat) : LoadRes :=
  readImage (kread 0xFF s.vel.cfl.mem (n * 0x80000) imageLen)
    (fun a => s.vel.cfl.bad (n * 0x80000 + a)) (.slot (BitVec.ofNat 2 n)) idcodeVal

/-- The lowest flagged byte of the record in which slot `n`'s load failed at step 5. -/
def slotBadByte (s : State) (n : Nat) (frame : Nat) : Nat :=
  let cand := [0, 64 + 132 * frame, 473152]
  ((cand.flatMap (fun b => (List.range 132).map (fun i => n * 0x80000 + b + i))).find? (fun a => s.vel.cfl.bad a)).getD 0 / 8 * 8

/-- Put a load's frames; they pass LOAD_DONE only if every check passed. -/
def putLoad (r : LoadRes) (src slot : BitVec 2) (s : State) : State :=
  { s with vel := { s.vel with
    frames := r.frames
    ids := if r.fail.isNone then r.ids else s.vel.ids
    passed := r.fail.isNone
    fromSrc := if r.fail.isNone then src else s.vel.fromSrc
    fromSlot := if r.fail.isNone then slot else s.vel.fromSlot
    qspi := if r.fail.isNone ∧ src = 1 then r.frames else s.vel.qspi } }

/-- R458: load slot GOLDEN after a failed load. -/
def goldenLoad (s : State) : State :=
  let r := slotImage s s.vel.golden.toNat
  match r.fail with
  | none => putLoad r 0 s.vel.golden s
  | some (st, f) =>
    let s := if st = 5 then logCflWord (slotBadByte s s.vel.golden.toNat f) s else s
    let s := logErr .vel 0x0984 agVel 0 s
    { s with vel := { s.vel with frames := r.frames, busy := false, passed := false, cfgErr := true, cfgErrN := false } }

/-- R458: a load failed at a step and a frame. -/
def loadFail (st f : Nat) (s : State) : State :=
  let s := logErr .vel 0x0983 agVel 0 s
  goldenLoad { s with vel := { s.vel with
    failStep := BitVec.ofNat 3 st, failFrame := BitVec.ofNat 12 f, fallback := true, frames := [],
    strm := none, dinBusy := false } }

/-- Take the result of reading an image. -/
def takeLoad (r : LoadRes) (src slot : BitVec 2) (s : State) : State :=
  match r.fail with
  | none => putLoad r src slot s
  | some (st, f) =>
    let s := if st = 5 ∧ src = 0 then logCflWord (slotBadByte s slot.toNat f) s else s
    loadFail st f s

/-- R487: the erase-marker scan of the three flashes at boot. -/
def flashScan (s : State) : State :=
  let any := !(s.vel.cfl.incomp.isEmpty && s.vel.ufl.incomp.isEmpty && s.sep.bfl.incomp.isEmpty)
  let s := { s with
    vel := { s.vel with cfl := { s.vel.cfl with scanned := true }, ufl := { s.vel.ufl with scanned := true } }
    sep := { s.sep with bfl := { s.sep.bfl with scanned := true } } }
  if any then logErr .vel 0x098A agVel 0 s else s

/-- R454, R463 to R465: the bytes taken from CFG_DIN so far are checked while the load runs; the image forwards once it is whole. -/
def dinTaken (s : State) : State :=
  let r := readImage s.vel.din.reverse (fun _ => false) .stream idcodeVal
  let s := if s.vel.dinBusy then
      match r.fail with
      | some (6, _) => { s with vel := { s.vel with frames := r.frames, chain := r.chain } }
      | _ => takeLoad r 3 0 { s with vel := { s.vel with chain := r.chain, dinBusy := false } }
    else s
  if s.vel.din.length = imageLen then { s with vel := { s.vel with dinTake := false, forward := s.vel.chain } } else s

/-- The byte whose bits come least significant first, given latest first (R463). -/
def byteOfBits (bs : List Bool) : Byte := bs.foldl (fun x b => (x <<< 1) ||| (if b then 1 else 0)) 0

/-- R463: a bit of CFG_DIN sampled on a rising edge of CFG_CLK: bits before SYNC are ignored. -/
def dinBit (b : Bool) (s : State) : State :=
  if s.vel.dinTake then
    if s.vel.din.isEmpty then
      let sh := (s.vel.dinShift >>> 1) ||| (if b then 0x80000000 else 0)
      let s := { s with vel := { s.vel with dinShift := sh } }
      if sh = 0x5E70C0DE then dinTaken { s with vel := { s.vel with din := (wordBytes 4 sh).reverse, dinBits := [] } } else s
    else
      let bs := b :: s.vel.dinBits
      if bs.length = 8 then dinTaken { s with vel := { s.vel with din := byteOfBits bs :: s.vel.din, dinBits := [] } }
      else { s with vel := { s.vel with dinBits := bs } }
  else s

/-- R457 to R459: the boot load, with the bytes that QSPI or CFG_DIN delivers; a CFG_DIN load waits for more edges while its
image is not complete. -/
def bootLoad (stream : List Byte) (s : State) : State :=
  let s := flashScan { s with vel := { s.vel with bootDue := false } }
  if s.vel.recovery then takeLoad (slotImage s s.vel.golden.toNat) 0 s.vel.golden (loadStart s)
  else if s.vel.bootsrc = 0 then takeLoad (slotImage s s.vel.prim.toNat) 0 s.vel.prim (loadStart s)
  else if s.vel.bootsrc = 1 then takeLoad (readImage stream (fun _ => false) .qspi idcodeVal) 1 0 (loadStart s)
  else if s.vel.bootsrc = 2 then
    let s := loadStart s
    let s := { s with vel := { s.vel with
      dinBusy := true, dinTake := true, dinShift := 0, din := [], dinBits := [], chain := false, forward := false } }
    (stream.flatMap (fun y => (List.range 8).map (bit y))).foldl (fun s b => dinBit b s) s
  else s

/-- BOOT_LOAD (R458). -/
def execBootLoad (stream : List Byte) (s : State) : Out :=
  done (if s.vel.bootDue && s.domRun 18 then bootLoad stream s else s)

/-- R472: initial contents of the block RAMs from their frames. -/
def bramInit (fs : KMap FrameRec) : KMap (BitVec 36) :=
  let bits := fun (r b : Nat) => bit (kget {} fs (3264 + 18 * r + b / 1024)).data (b % 1024)
  (List.range 16).foldl (fun m r =>
    (List.range 512).foldl (fun m w =>
      kset 0 m (512 * r + w) ((List.range 36).foldl (fun x i => setBit x i (bits r (36 * w + i))) 0)) m) []

/-- The frames whose contents the uninterpreted decoder of the configuration reads. -/
def cfgFrames (fs : KMap FrameRec) : List (Nat × BitVec 1024) :=
  (fs.filter (fun e => 3552 ≤ e.1 || (3072 ≤ e.1 && e.1 < 3264))).map (fun e => (e.1, e.2.data))

/-- R461: a load succeeds. -/
def loadDone (s : State) : State :=
  if s.vel.passed then
    let g := Config.decodeGlobal (cfgFrames s.vel.frames)
    { s with vel := { s.vel with
      passed := false, busy := false, loaded := true, cfgDone := true, gcfg := some g,
      tap := ksetAll 0 [] g.tap, cur := ksetAll 0 [] g.tap,
      bram := bramInit s.vel.frames, held := [], irpOpen := false,
      irp := .idle, scrubFault := false, vote := false, romPar := false } }
  else s

/-- R454 step 6: a gap within the image fails the load at the frame it has reached; a chain image is still taken whole (R465). -/
def dinGap (s : State) : State :=
  if s.vel.dinBusy && !s.vel.din.isEmpty then
    loadFail 6 (((readImage s.vel.din.reverse (fun _ => false) .stream idcodeVal).fail.getD (6, 0)).2) s
  else s

/-- CFG_CLK_GAP_TIMEOUT (R454 step 6). -/
def execCfgClkGapTimeout (s : State) : Out := done (dinGap s)

/-- R464: CFG_DOUT forwards CFG_DIN after the device's own chain image, and is high otherwise. -/
def dout (fwd din : Bool) (s : State) : State := { s with vel := { s.vel with cfgDout := !fwd || din } }

/-- CFG_CLK_RISING_EDGE (R463, R464): the device samples CFG_DIN; what it forwards it drives on the following falling edge. -/
def execCfgClkRisingEdge (din : Bool) (s : State) : Out := done (dout (s.vel.chain && s.vel.forward) din (dinBit din s))

/-- The image that words written to VEL_CFG_DATA spell so far (latest first), checked as it comes (R454). -/
def strmStep (s : State) : State :=
  match s.vel.strm with
  | some ws =>
    let r := readImage (ws.reverse.flatMap (wordBytes 4)) (fun _ => false) .stream idcodeVal
    match r.fail with
    | some (6, _) => { s with vel := { s.vel with frames := r.frames } }
    | _ => takeLoad r 2 0 { s with vel := { s.vel with strm := none } }
  | none => s

/-- R17: SRC 3, or a QSPI address whose [11:0] are not 0 (R460), is no defined value. -/
def loadUndef (s : State) : Bool := s.vel.src == 3 || (s.vel.src == 1 && fld s.vel.qspiAddr 0 12 != 0)

/-- R466: a write of LOAD. -/
def cfgLoad (stream : List Byte) (s : State) : State :=
  checked .vel [(s.vel.release || s.vel.stage ≠ 0, 0x090A), (s.vel.busy, 0x090B), (loadUndef s, 0x0906)]
    (fun s =>
      if s.vel.src = 0 then takeLoad (slotImage s s.vel.slot.toNat) 0 s.vel.slot (loadStart s)
      else if s.vel.src = 1 then takeLoad (readImage stream (fun _ => false) .qspi idcodeVal) 1 0 (loadStart s)
      else
        let s := loadStart s
        if s.vel.ovf then loadFail 6 0 s
        else strmStep { s with vel := { s.vel with strm := some s.vel.fifo.reverse, fifo := [] } }) s

/-- R466 by a register write, which carries no external bytes: a QSPI load starts and waits for them. -/
def cfgLoadReg (s : State) : State :=
  if s.vel.src = 1 then
    checked .vel [(s.vel.release || s.vel.stage ≠ 0, 0x090A), (s.vel.busy, 0x090B), (loadUndef s, 0x0906)]
      (fun s => let s := loadStart s; { s with vel := { s.vel with qspiDue := true } }) s
  else cfgLoad [] s

/-- VEL_CFG_LOAD (R466); the bytes of a QSPI load that a register write has started. -/
def execVelCfgLoad (stream : List Byte) (s : State) : Out :=
  done (if s.vel.qspiDue then
    takeLoad (readImage stream (fun _ => false) .qspi idcodeVal) 1 0 { s with vel := { s.vel with qspiDue := false } }
  else cfgLoad stream s)

/-- R467: a word for the load FIFO, which the engine drains while a load from it runs. -/
def cfgData (v : W32) (s : State) : State :=
  match s.vel.strm with
  | some ws => strmStep { s with vel := { s.vel with strm := some (v :: ws) } }
  | none =>
    if s.vel.fifo.length < 64 then { s with vel := { s.vel with fifo := s.vel.fifo ++ [v] } }
    else { s with vel := { s.vel with ovf := true } }

/-- VEL_CFG_DATA (R467). -/
def execVelCfgData (v : W32) (s : State) : Out := done (cfgData v s)

/-- R468: the bits and stored CRC of a frame; a block RAM frame reads the RAM's current contents. -/
def frameBits (s : State) (f : Nat) : BitVec 1024 × W32 × Bool :=
  let r := kget {} s.vel.frames f
  if 3264 ≤ f ∧ f < 3552 then
    let ram := (f - 3264) / 18
    let b0 := (f - 3264) % 18 * 1024
    ((List.range 1024).foldl (fun x i =>
      setBit x i (bit (kget 0 s.vel.bram (512 * ram + (b0 + i) / 36)) ((b0 + i) % 36))) 0, r.crc, false)
  else (r.data, r.crc, r.crc == frameCrcW f r.data)

/-- R468: a readback. -/
def readback (f : BitVec 12) (s : State) : State :=
  let r := frameBits s f.toNat
  { s with vel := { s.vel with rbFrame := f, rbData := r.1, rbCrc := r.2.1, rbMatch := r.2.2 } }

/-- VEL_RB_FRAME (R468). -/
def execVelRbFrame (f : BitVec 12) (s : State) : Out := done (readback f s)

-- The Internal Rewrite Port
/-- The number of an IRP state (Table 13.8). -/
def IrpSt.num : IrpSt → BitVec 4
  | .idle => 0 | .opened => 1 | .done => 2 | .failed => 3 | .refused => 4

/-- Word 511 of the mailbox RAM (Table 13.8). -/
def irpStatus (v : Vel) : W32 := v.irp.num ++ v.irpSeq ++ v.irpRegion ++ v.irpCode

/-- The mailbox RAM takes word `w`. -/
def mboxPut (w : Nat) (x : W32) (s : State) : State :=
  match s.vel.gcfg with
  | none => s
  | some g => { s with vel := { s.vel with bram := kset 0 s.vel.bram (512 * g.mboxRam.toNat + w) (x.setWidth 36) } }

/-- A command of the IRP has been completed: SEQ advances and word 511 shows the status. -/
def irpEndCmd (st : IrpSt) (code : W16) (s : State) : State :=
  let s := { s with vel := { s.vel with irp := st, irpCode := code, irpSeq := s.vel.irpSeq + 1 } }
  mboxPut 511 (irpStatus s.vel) s

/-- R470: the path owns the IRP (GLB_OWN.IRP_OWN: 0 fabric, 1 registers). -/
def irpMine (fab : Bool) (s : State) : Bool := fab == !(bit s.glb.own 9)

/-- R471, R472, R475: BEGIN. -/
def irpBegin (w : W32) (s : State) : State :=
  let region := fld w 16 9
  let bad := w &&& 0xFE00CFFF ≠ 0x10000000
  if bit s.vel.lock 4 && fld w 28 4 = (1 : BitVec 4) then irpEndCmd .refused 0x0909 s
  else if bad ∨ 272 ≤ region.toNat ∨ s.vel.irpOpen then irpEndCmd .refused 0x090C s
  else irpEndCmd .opened 0 { s with vel := { s.vel with
    irpOpen := true, irpRegion := region, irpTree := fld w 12 2, irpDone := [],
    held := kset false s.vel.held region.toNat true } }

/-- R474: a rewrite fails and its region stays held. -/
def irpFail (s : State) : State :=
  irpEndCmd .failed 0x0989 (logErr .vel 0x0989 agVel (s.vel.irpRegion.setWidth 48)
    { s with vel := { s.vel with irpOpen := false } })

/-- R471, R474: FRAME. -/
def irpFrame (w : W32) (d : BitVec 1024) (crc : W32) (s : State) : State :=
  let f := (fld w 0 12).toNat
  if s.vel.irpOpen then
    if f < nFrames ∧ regionOf f = s.vel.irpRegion.toNat ∧ crc = frameCrcW f d then
      irpEndCmd .opened 0 { s with vel := { s.vel with
        frames := kset {} s.vel.frames f { data := d, crc := crc, origin := .stream }
        irpDone := f :: s.vel.irpDone } }
    else irpFail s
  else if s.vel.irp = .failed then s
  else irpEndCmd .refused 0x090C s

/-- The contents a block RAM takes when its region is rewritten. -/
def bramCommit (r : Nat) (s : State) : State :=
  if 256 ≤ r ∧ r < 272 then
    let k := r - 256
    let bits := fun (b : Nat) => bit (kget {} s.vel.frames (3264 + 18 * k + b / 1024)).data (b % 1024)
    { s with vel := { s.vel with bram := (List.range 512).foldl (fun m w =>
        kset 0 m (512 * k + w) ((List.range 36).foldl (fun x i => setBit x i (bits (36 * w + i))) 0)) s.vel.bram } }
  else s

/-- R473, R474: END. -/
def irpEnd (s : State) : State :=
  if s.vel.irpOpen then
    if (framesOf s.vel.irpRegion.toNat).all (fun f => s.vel.irpDone.contains f) then
      let r := s.vel.irpRegion.toNat
      let s := { s with vel := { s.vel with
        irpOpen := false, held := kset false s.vel.held r false
        fab := { s.vel.fab with regWait := kput s.vel.fab.regWait r (2, s.vel.irpTree) } } }
      let g := Config.decodeGlobal (cfgFrames s.vel.frames)
      let s := { s with vel := { s.vel with gcfg := s.vel.gcfg.map (fun _ => g) } }
      irpEndCmd .done 0 (bramCommit r s)
    else irpFail s
  else if s.vel.irp = .failed then s
  else irpEndCmd .refused 0x090C s

/-- R471: READ into words 0 to 33 of the mailbox RAM; after a failure it is ignored like every word before the next BEGIN
(R474). -/
def irpRead (w : W32) (s : State) : State :=
  if s.vel.irp = .failed then s else
  let f := fld w 0 12
  let r := frameBits s f.toNat
  let s := (List.range 32).foldl (fun s k => mboxPut k (r.1.extractLsb' (32 * k) 32) s) s
  irpEndCmd s.vel.irp 0 (mboxPut 33 (f.setWidth 32) (mboxPut 32 r.2.1 s))

/-- R474: ABORT ends an open transaction as FAILED. -/
def irpAbort (s : State) : State := if s.vel.irpOpen then irpFail s else s

/-- IRP_BEGIN (R470 to R475). -/
def execIrpBegin (fab : Bool) (w : W32) (s : State) : Out := done (if irpMine fab s then irpBegin w s else s)
/-- IRP_FRAME (R471, R474). -/
def execIrpFrame (fab : Bool) (w : W32) (d : BitVec 1024) (crc : W32) (s : State) : Out :=
  done (if irpMine fab s then irpFrame w d crc s else s)
/-- IRP_END (R473). -/
def execIrpEnd (fab : Bool) (_w : W32) (s : State) : Out := done (if irpMine fab s then irpEnd s else s)
/-- IRP_READ (R471). -/
def execIrpRead (fab : Bool) (w : W32) (s : State) : Out := done (if irpMine fab s then irpRead w s else s)
/-- IRP_ABORT (R474). -/
def execIrpAbort (fab : Bool) (_w : W32) (s : State) : Out := done (if irpMine fab s then irpAbort s else s)

/-- A command at the head of the register path's FIFO acts, all its words taken. -/
def irpAct (ws : List W32) (s : State) : State :=
  let w := ws.headD 0
  let op := (w >>> 28).toNat
  if op = 2 then irpFrame w (leWord 1024 (((ws.drop 1).take 32).flatMap (wordBytes 4))) (ws.getD 33 0) s
  else if op = 3 then irpEnd s
  else if op = 4 then irpRead w s
  else if op = 5 then irpAbort s
  else if op = 1 ∨ s.vel.irp ≠ .failed then irpBegin w s
  else s

/-- How many words the command that starts with `w` takes (R471). -/
def irpLen (w : W32) : Nat := if (w >>> 28).toNat = 2 then 34 else 1

/-- The whole commands in the register path's FIFO act, in order. -/
def irpDrain : Nat → State → State
  | 0, s => s
  | n + 1, s =>
    match s.vel.irpWords with
    | [] => s
    | w :: ws =>
      if irpLen w ≤ ws.length + 1 then
        irpDrain n (irpAct ((w :: ws).take (irpLen w)) { s with vel := { s.vel with irpWords := (w :: ws).drop (irpLen w) } })
      else s

/-- R469: a load from the configuration flash takes every frame slot until it is done. -/
def portTaken (s : State) : Bool := s.vel.passed && s.vel.fromSrc == 0

/-- R470, R471, R474, R476: a word of the register path; one that finds the FIFO full fails an open rewrite. -/
def irpWord (v : W32) (s : State) : State :=
  if irpMine false s then
    if s.vel.irpWords.length ≥ 66 then
      (if s.vel.irpOpen then irpFail { s with vel := { s.vel with irpWords := [] } } else s)
    else
      let s := { s with vel := { s.vel with irpWords := s.vel.irpWords ++ [v] } }
      if portTaken s then s else irpDrain 66 s
  else s

/-- LOAD_DONE (R461, R464); the register path then has the frame port again. -/
def execLoadDone (s : State) : Out := done (if s.vel.passed then irpDrain 66 (loadDone s) else s)

-- Locks, PRIMARY and GOLDEN
/-- A change stored in the information sector: the other copy takes the next generation (R456). -/
def infoStore (f : Vel → Vel) (s : State) : State :=
  { s with vel := { f s.vel with infoGen := s.vel.infoGen + 1 } }

/-- R477: lock bits set. -/
def lockSet (v : BitVec 5) (s : State) : State :=
  if v = 0 then s else infoStore (fun x => { x with lock := x.lock ||| v }) s
/-- VEL_LOCK_SET (R477). -/
def execVelLockSet (v : BitVec 5) (s : State) : Out := done (lockSet v s)
/-- R477: lock bits clear only in a recovery boot. -/
def lockClr (v : BitVec 5) (s : State) : State :=
  if v = 0 then s else checked .vel [(!s.vel.recovery, 0x0907)] (infoStore (fun x => { x with lock := x.lock &&& ~~~v })) s
/-- VEL_LOCK_CLR (R477). -/
def execVelLockClr (v : BitVec 5) (s : State) : Out := done (lockClr v s)

/-- R478: a change of PRIMARY [1:0] or GOLDEN [3:2]. -/
def primaryGolden (v : BitVec 4) (s : State) : State :=
  let p := fld v 0 2
  let g := fld v 2 2
  if p = s.vel.prim ∧ g = s.vel.golden then s
  else checked .vel [(bit s.vel.lock s.vel.golden.toNat, 0x0908)]
    (infoStore (fun x => { x with prim := p, golden := g })) s
/-- PRIMARY_GOLDEN_WRITE (R478). -/
def execPrimaryGoldenWrite (v : BitVec 4) (s : State) : Out := done (primaryGolden v s)

/-- R481: a program or erase of the slot the configuration came from makes its frames unreloadable. -/
def slotTouched (n : Nat) (s : State) : State :=
  if s.vel.fromSrc = 0 ∧ s.vel.fromSlot.toNat = n then
    { s with vel := { s.vel with frames := s.vel.frames.map (fun e =>
        (e.1, { e.2 with origin := if e.2.origin = .slot s.vel.fromSlot then .stream else e.2.origin })) } }
  else s

/-- The page that CFL_ADDR names, and its slot. -/
def cflPage (s : State) : Nat := s.vel.cflAddr.toNat / 256
def cflSlot (s : State) : Nat := s.vel.cflAddr.toNat / 0x80000

/-- A command of the configuration flash starts, or is refused with its reason and sets CFL_ERR. -/
def cflStart (cs : List (Bool × W16)) (op : FlashOp) (s : State) : State :=
  match firstReason cs with
  | some r => setReason .vel r { s with vel := { s.vel with cfl := { s.vel.cfl with err := true } } }
  | none => slotTouched (cflSlot s) { s with vel := { s.vel with cfl := { s.vel.cfl with op := some op } } }

/-- R478, R485: program a page of the configuration flash from CFL_BUF. -/
def cflProgram (s : State) : State :=
  cflStart [(s.vel.cfl.busy, 0x090B), (bit s.vel.lock (cflSlot s), 0x0908), (s.vel.cfl.refuses (cflPage s), 0x090B)]
    (.program (cflPage s) (pageOfBuf s.vel.cflBuf)) s
/-- CFL_PROGRAM. -/
def execCflProgram (s : State) : Out := done (cflProgram s)

/-- R478, R487: erase a sector of the configuration flash. -/
def cflErase (s : State) : State :=
  cflStart [(s.vel.cfl.busy, 0x090B), (bit s.vel.lock (cflSlot s), 0x0908)] (.erase (cflPage s / 16)) s
/-- CFL_ERASE. -/
def execCflErase (s : State) : Out := done (cflErase s)

-- The hard scrubber
/-- The bit (0 to 1,023 data, 1,024 to 1,055 stored CRC) whose flip makes a frame's CRC match (R480). -/
def singleBit (f : Nat) (r : FrameRec) : Option Nat :=
  let c := frameCrcW f r.data
  match (List.range 32).find? (fun i => c ^^^ r.crc = (1#32 <<< i)) with
  | some i => some (1024 + i)
  | none => (List.range 1024).find? (fun i => frameCrcW f (r.data ^^^ (1#1024 <<< i)) = r.crc)

/-- R488: the flash word in which a reload of frame `f` from slot `n` meets an uncorrectable word. -/
def reloadBad (s : State) (n : BitVec 2) (f : Nat) : Option Nat :=
  ((List.range 132).map (fun i => n.toNat * 0x80000 + 64 + 132 * f + i)).find? s.vel.cfl.bad

/-- R481: the frame as its origin holds it. -/
def reloadOf (s : State) (f : Nat) (r : FrameRec) : Option FrameRec :=
  match r.origin with
  | .slot n =>
    let bs := kread 0xFF s.vel.cfl.mem (n.toNat * 0x80000 + 64 + 132 * f) 132
    if (reloadBad s n f).isSome then none
    else some { data := leWord 1024 (bs.take 128), crc := leWord 32 (bs.drop 128), origin := r.origin }
  | .qspi => some (kget {} s.vel.qspi f)
  | _ => none

/-- R480: the scrubber checks one frame. -/
def scrubFrame (s : State) (f : Nat) : State :=
  let r := kget {} s.vel.frames f
  let s := { s with vel := { s.vel with lastFrame := BitVec.ofNat 12 f } }
  if frameCrcW f r.data = r.crc then s
  else match singleBit f r with
  | some i =>
    let r := if i < 1024 then { r with data := r.data ^^^ (1#1024 <<< i) } else { r with crc := r.crc ^^^ (1#32 <<< (i - 1024)) }
    { s with vel := { s.vel with frames := kset {} s.vel.frames f r, corrected := satInc s.vel.corrected } }
  | none =>
    match reloadOf s f r with
    | some r => logErr .vel 0x0986 agVel (BitVec.ofNat 48 f)
        { s with vel := { s.vel with frames := kset {} s.vel.frames f r, reloaded := satInc s.vel.reloaded } }
    | none =>
      let s := match r.origin with
        | .slot n => (reloadBad s n f).elim s (fun a => logCflWord (a / 8 * 8) s)
        | _ => s
      logErr .vel 0x0987 agVel (BitVec.ofNat 48 f)
        { s with vel := { s.vel with unreload := satInc s.vel.unreload } }

/-- R479: frame `f` is checked in a pass. -/
def scrubChecks (s : State) (f : Nat) : Bool :=
  !(3264 ≤ f && f < 3552) && !(bit (kget 0 s.vel.mask (f / 32)) (f % 32)) && !(kget false s.vel.held (regionOf f))

/-- R479: one pass over every unmasked frame. -/
def scrubPass (s : State) : State :=
  if s.vel.scrubEn && !s.vel.scrubFault && s.vel.loaded && s.domRun 18 then
    let s := ((List.range nFrames).filter (scrubChecks s)).foldl scrubFrame s
    { s with vel := { s.vel with passes := s.vel.passes + 1 } }
  else s

/-- SCRUB_PASS (R479). -/
def execScrubPass (s : State) : Out := done (scrubPass s)

/-- SCRUB_FAULT (R483): a voter disagreement or a ROM parity error stops the scrubber. -/
def execScrubFault (vote rom : Bool) (s : State) : Out :=
  done (if vote || rom then
    logErr .vel 0x0988 agVel 0 { s with vel := { s.vel with
      scrubFault := true, vote := s.vel.vote || vote, romPar := s.vel.romPar || rom } }
  else s)

end Sys2Proof.Machine
end

