-- ==== Sys2Proof/Machine/Vellum.lean ====
section
/-!
DEFINITION. The Vellum fabric: the release check and sequence, delay lines, user flash, serial ports, probes, the fabric
slave window, block RAM collisions, and the VEL registers (chapter 12, Tables 13.10 to 13.12).
-/
namespace Sys2Proof.Machine

/-- R424: the I/O plan of pin `p`; nothing is planned while no configuration is loaded. -/
def planOf (s : State) (p : Nat) : Plan :=
  match s.vel.gcfg with
  | none => .unused
  | some g => kget .unused g.plan p

/-- GLB_OWN.SPORT_OWN: the registers own port `n`. -/
def sportReg (s : State) (n : Nat) : Bool := bit s.glb.own n

/-- The control word of port `n`: its registers', or what the global frames set (R434). -/
def sportCtl (s : State) (n : Nat) : W32 :=
  if sportReg s n then (kget {} s.vel.sport n).ctl
  else match s.vel.gcfg with | none => 0 | some g => kget 0 g.sport n

/-- Port `n` is enabled (R434). -/
def sportEn (s : State) (n : Nat) : Bool := bit (sportCtl s n) 0

/-- Table 12.2: the I/O cells of port `n` under a control word. -/
def sportPins (n : Nat) (ctl : W32) : List Nat :=
  if n < 2 then [48 * n + 40, 48 * n + 41, 48 * n + 42] ++
    ((List.range 4).filter (fun i => bit ctl (8 + i))).map (fun i => 48 * n + 43 + i)
  else if n < 4 then [48 * n + 44, 48 * n + 45]
  else [48 * (n - 4) + 46, 48 * (n - 4) + 47]

/-- R432, R433: the plan gives every pin of the port to it. -/
def pinsOk (s : State) (n : Nat) (ctl : W32) : Bool :=
  (sportPins n ctl).all (fun p => planOf s p == .hard (BitVec.ofNat 3 n))

/-- R17: a port's control word holds an undefined value. -/
def sportUndef (n : Nat) (ctl : W32) : Bool :=
  let mode := fld ctl 1 2
  4 < (fld ctl 3 3).toNat || (n < 2 && fld ctl 6 2 = 3) || (2 ≤ n && mode = 3)

/-- The I/O plan uses bank `b`. -/
def bankUsed (s : State) (b : Nat) : Bool :=
  (List.range 48).any (fun i => match planOf s (48 * b + i) with | .fabric => true | .hard _ => true | _ => false)

/-- R440 step 5. -/
def planFails (s : State) : Bool :=
  (List.range 192).any (fun p => match planOf s p with | .hard n => !(n.toNat < 6 && sportEn s n.toNat) | _ => false)
  || (List.range 6).any (fun n => sportEn s n && !pinsOk s n (sportCtl s n))

/-- R417: Table 12.1 assigns the index. -/
def gimSource (i : Nat) : Bool :=
  i < 0xE00 ||
  (0xE00 ≤ i && i < 0xF80 && (i - 0xE00) % 0x40 < 35) ||
  (0xF80 ≤ i && i ≤ 0xFA1) || i == 0xFC0 || i == 0xFC1 ||
  (0x1000 ≤ i && i < 0x1840) || (0x1900 ≤ i && i ≤ 0x1910) || (0x1920 ≤ i && i ≤ 0x1941) ||
  (0x1980 ≤ i && i ≤ 0x19A1)

/-- R440: the release check, in its order. -/
def releaseChecks (s : State) : List (Bool × W16) :=
  [(s.vel.reversing, 0x0905), (!s.glb.surrEn, 0x0901), (!s.vel.loaded, 0x0902),
   ((List.range 4).any (fun b => bankUsed s b && kget false s.vel.bankBad b), 0x0903),
   ((List.range 4).any (fun b => bankUsed s b && !s.domRun (19 + b)), 0x0904),
   (planFails s, 0x0110),
   ((match s.vel.gcfg with | none => false | some g => g.undef) || 64 < s.vel.mstOwner.toNat ||
     (List.range 6).any (fun n => sportEn s n && sportUndef n (sportCtl s n)), 0x0906)]

/-- R440, R442: setting VEL_RELEASE. -/
def velReleaseSet (s : State) : State :=
  if s.vel.release && !s.vel.reversing then s
  else checked .vel (releaseChecks s)
    (fun s => { s with vel := { s.vel with release := true, stage := 0, reversing := false } }) s

/-- VEL_RELEASE_SET (R440). -/
def execVelReleaseSet (s : State) : Out := done (velReleaseSet s)

/-- R442: clearing VEL_RELEASE starts the reverse release. -/
def velReleaseClear (s : State) : State :=
  if s.vel.release then
    if s.vel.stage = 0 then { s with vel := { s.vel with release := false, reversing := false } }
    else { s with vel := { s.vel with reversing := true } }
  else s

/-- VEL_RELEASE_CLEAR (R442). -/
def execVelReleaseClear (s : State) : Out := done (velReleaseClear s)

/-- R434: the fabric-owned ports that the configuration enables start, or all fabric-owned ports stop. -/
def sportsLive (go : Bool) (s : State) : State :=
  { s with vel := { s.vel with sport := (List.range 6).foldl (fun m n =>
      if sportReg s n then m else kmod {} m n (fun p => { p with live := go && sportEn s n })) s.vel.sport } }

/-- R441, R442: the release sequencer moves to its next stage (Table 12.6). -/
def releaseStage (s : State) : State :=
  if !s.vel.release then s
  else if s.vel.reversing then
    let st := s.vel.stage - 1
    let s := { s with vel := { s.vel with stage := st } }
    let s := if st = 2 then sportsLive false s else s
    if st = 0 then { s with vel := { s.vel with release := false, reversing := false } } else s
  else if s.vel.stage = 3 then s
  else
    let st := s.vel.stage + 1
    let s := { s with vel := { s.vel with stage := st } }
    if st = 3 then sportsLive true s else s

/-- VEL_DLY (R422): the target tap of a cell. -/
def execVelDly (p : Byte) (tap : BitVec 6) (s : State) : Out :=
  done (if p.toNat < 192 then { s with vel := { s.vel with tap := kset 0 s.vel.tap p.toNat tap } } else s)

/-- R422: one tap per period of the 40 MHz oscillator. -/
def tapStep (p : Nat) (s : State) : State :=
  let t := kget 0 s.vel.tap p
  let c := kget 0 s.vel.cur p
  { s with vel := { s.vel with cur := kset 0 s.vel.cur p (if c.ult t then c + 1 else if t.ult c then c - 1 else c) } }

/-- TAP_STEP (R422). -/
def execTapStep (p : Byte) (s : State) : Out := done (tapStep p.toNat s)

-- User flash
/-- R430, R488: a word of the user flash; an uncorrectable word returns its raw bits and is logged. -/
def uflRead (wa : BitVec 17) (s : State) : W32 × State :=
  let d := s.vel.ufl.word wa.toNat
  if s.vel.ufl.bad (4 * wa.toNat) then
    (d, logErr .vel 0x0981 agVel (BitVec.ofNat 48 (0xC1 * 0x10000000000 + 4 * wa.toNat))
      { s with vel := { s.vel with ufl := { s.vel.ufl with err := true } } })
  else (d, s)

/-- R430: the fabric read port returns DATA with VALID. -/
def uflFabric (wa : BitVec 17) (s : State) : State :=
  let (d, s) := uflRead wa s
  { s with vel := { s.vel with uflData := d, uflValid := true } }

/-- UFL_FABRIC_READ (R430, R431): a read waits while a program or erase runs. -/
def execUflFabricRead (wa : BitVec 17) (s : State) : Out :=
  done (if s.vel.ufl.busy then { s with vel := { s.vel with uflWait := s.vel.uflWait ++ [wa], uflValid := false } }
    else uflFabric wa s)

/-- GLB_OWN.UFL_OWN: the path owns the user flash. -/
def uflMine (fab : Bool) (s : State) : Bool := fab == !(bit s.glb.own 8)

/-- R430, R485: a program or erase of the user flash starts, or is refused; a refusal by the flash sets ERR. -/
def uflStart (fab : Bool) (op : FlashOp) (refuse : Bool) (s : State) : State :=
  if !uflMine fab s then setReason .vel 0x0110 s
  else if fab ∧ s.vel.stage.toNat < 2 then s
  else if s.vel.ufl.busy || refuse then
    setReason .vel 0x090B { s with vel := { s.vel with ufl := { s.vel.ufl with err := true } } }
  else { s with vel := { s.vel with ufl := { s.vel.ufl with op := some op } } }

/-- R430: program the page of word address `wa` from VEL_UFL_BUF. -/
def uflProgram (fab : Bool) (wa : BitVec 17) (s : State) : State :=
  uflStart fab (.program (wa.toNat / 64) (pageOfBuf s.vel.uflBuf)) (s.vel.ufl.refuses (wa.toNat / 64)) s
/-- UFL_PROGRAM (R430). -/
def execUflProgram (fab : Bool) (wa : BitVec 17) (s : State) : Out := done (uflProgram fab wa s)
/-- R430: erase the sector that holds the page. -/
def uflErase (fab : Bool) (wa : BitVec 17) (s : State) : State := uflStart fab (.erase (wa.toNat / 1024)) false s
/-- UFL_ERASE (R430). -/
def execUflErase (fab : Bool) (wa : BitVec 17) (s : State) : Out := done (uflErase fab wa s)

/-- R431: a read of VEL_UFL_DATA. -/
def velUflData (s : State) : W32 × State :=
  if s.vel.ufl.busy then (0xFFFFFFFF, { s with vel := { s.vel with rdBusy := true } }) else uflRead s.vel.uflAddr s
/-- VEL_UFL_DATA (R431). -/
def execVelUflData (ag : Agent) (s : State) : Out :=
  let r := velUflData s
  done (ans ag .ok (r.1.setWidth 512) r.2)

/-- FLASH_OPERATION_DONE: flash 0 configuration, 1 user, 2 boot. Fabric reads that waited are served (R431). -/
def execFlashOperationDone (f : BitVec 2) (s : State) : Out :=
  if f = 0 then done { s with vel := { s.vel with cfl := s.vel.cfl.finish } }
  else if f = 1 then
    let w := s.vel.uflWait
    done (w.foldl (fun s a => uflFabric a s) { s with vel := { s.vel with ufl := s.vel.ufl.finish, uflWait := [] } })
  else if f = 2 then done { s with sep := { s.sep with bfl := s.sep.bfl.finish } }
  else done s

-- Serial ports
def State.sportAt (s : State) (n : Nat) : Sport := kget {} s.vel.sport n
def State.setSport (s : State) (n : Nat) (p : Sport) : State :=
  { s with vel := { s.vel with sport := kset {} s.vel.sport n p } }

/-- R432, R433: a write of EN with `ctl` the port's options. -/
def sportEnable (n : Nat) (v : Bool) (s : State) : State :=
  if !sportReg s n then (if v then setReason .vel 0x0110 s else s)
  else
    let p := s.sportAt n
    if v then
      checked .vel [(!pinsOk s n p.ctl, 0x0110), (sportUndef n p.ctl, 0x0906)]
        (fun s => s.setSport n { p with ctl := p.ctl ||| 1, live := true }) s
    else s.setSport n { p with ctl := p.ctl &&& 0xFFFFFFFE, live := false }

/-- SERIAL_PORT_EN (R432). -/
def execSerialPortEn (n : BitVec 3) (v : Bool) (s : State) : Out :=
  done (if n.toNat < 6 then sportEnable n.toNat v s else s)

/-- R435: a word for transmission; ignored while TX_FREE is 0 or while the fabric owns the port. -/
def sportTx (n : Nat) (v : W32) (s : State) : State :=
  let p := s.sportAt n
  if sportReg s n ∧ p.tx.length < 16 then s.setSport n { p with tx := p.tx ++ [v] } else s
/-- TXDATA (Table 12.9). -/
def execTxdata (n : BitVec 3) (v : W32) (s : State) : Out := done (if n.toNat < 6 then sportTx n.toNat v s else s)

/-- A read of RXDATA: the oldest received word, 0 when there is none or the fabric owns the port. -/
def sportRx (n : Nat) (s : State) : W32 × State :=
  if sportReg s n then
    match (s.sportAt n).rx with
    | [] => (0, s)
    | w :: ws => (w, s.setSport n { s.sportAt n with rx := ws })
  else (0, s)
/-- RXDATA (Table 12.9). -/
def execRxdata (ag : Agent) (n : BitVec 3) (s : State) : Out :=
  let r := sportRx n.toNat s
  done (ans ag .ok (r.1.setWidth 512) r.2)

/-- SERIAL_RX_WORD (R435): a received word, dropped when the buffer is full. -/
def execSerialRxWord (n : BitVec 3) (v : W32) (s : State) : Out :=
  let p := s.sportAt n.toNat
  done (if n.toNat < 6 ∧ p.live then
    if p.rx.length < 16 then s.setSport n.toNat { p with rx := p.rx ++ [v] }
    else logErr .vel 0x0982 agVel (n.setWidth 48) (s.setSport n.toNat { p with overrun := true, err := true })
  else s)

/-- SERIAL_TX_WORD: the oldest word has been sent; an I2C target that does not acknowledge sets NACK. -/
def execSerialTxWord (n : BitVec 3) (acked : Bool) (s : State) : Out :=
  let p := s.sportAt n.toNat
  done (if n.toNat < 6 ∧ p.live then
    match p.tx with
    | [] => s
    | _ :: ws => s.setSport n.toNat { p with tx := ws, nack := p.nack || (n.toNat / 2 = 1 && !acked) }
  else s)

-- Probes
/-- R443: EN of probe channel `n`. -/
def probeEn (n : Nat) (v : Bool) (s : State) : State :=
  let w := kget 0 s.vel.probe n
  let pin := fun (w : W32) => (fld w 16 8).toNat
  if v then
    if bit w 31 then s else
    checked .vel
      [(planOf s (pin w) ≠ .spare ||
          (List.range 16).any (fun m => m ≠ n && bit (kget 0 s.vel.probe m) 31 && pin (kget 0 s.vel.probe m) = pin w), 0x0110),
       (!gimSource (fld w 0 13).toNat, 0x0906)]
      (fun s => { s with vel := { s.vel with probe := kset 0 s.vel.probe n (w ||| 0x80000000) } }) s
  else { s with vel := { s.vel with probe := kset 0 s.vel.probe n (w &&& 0x7FFFFFFF) } }

/-- VEL_PROBE_EN (R443). -/
def execVelProbeEn (n : BitVec 4) (v : Bool) (s : State) : Out := done (probeEn n.toNat v s)

-- The fabric slave window
/-- R445: an error response of the bridge. -/
def slvError (ag : Agent) (log : Bool) (o : Nat) (s : State) : State :=
  let s := { s with vel := { s.vel with slvErr := satInc s.vel.slvErr } }
  respond ag true 0 (if log then logErr .vel 0x098C ag (BitVec.ofNat 48 o) s else s)

/-- R445: an access at offset `o` of the VEL block is presented to the fabric, after those accepted before it. -/
def slaveAccess (ag : Agent) (o : Nat) (wr : Bool) (v : W32) (s : State) : State :=
  if !s.vel.slvEn || s.vel.stage ≠ 3 then slvError ag true o s
  else { s with vel := { s.vel with slv := s.vel.slv ++ [{ ag := ag, o := BitVec.ofNat 19 (o - 0x80000), wr := wr, v := v }] } }

/-- SLAVE_WINDOW_ACCESS (R445). -/
def execSlaveWindowAccess (ag : Agent) (a : Dpa) (wr : Bool) (v : W32) (s : State) : Out :=
  let o := a.toNat % 0x100000
  done (if 0x030000C80000 ≤ a.toNat ∧ a.toNat < 0x030000D00000 ∧ a.toNat % 4 = 0 then slaveAccess ag o wr v s else s)

/-- SLV_ACK (R445): the fabric acknowledges the access it is presented. -/
def execSlvAck (rdata : W32) (err : Bool) (s : State) : Out :=
  match s.vel.slv with
  | [] => done s
  | x :: xs =>
    let s := { s with vel := { s.vel with slv := xs } }
    done (if err then slvError x.ag false (x.o.toNat + 0x80000) s else respond x.ag false (if x.wr then 0 else rdata) s)

/-- SLV_ACK_TIMEOUT (R445). -/
def execSlvAckTimeout (s : State) : Out :=
  match s.vel.slv with
  | [] => done s
  | x :: xs => done (slvError x.ag true (x.o.toNat + 0x80000) { s with vel := { s.vel with slv := xs } })

/-- MST_ACK (R446): the response of the master access is presented for one edge. -/
def execMstAck (s : State) : Out :=
  match s.vel.mst with
  | some m =>
    match m.resp with
    | some r => done { s with vel := { s.vel with mst := none, mstOut := some r } }
    | none => done s
  | none => done s

/-- BRAM_COLLISION (R426): the colliding bits take the values the ports' race gives them. -/
def execBramCollision (r : BitVec 4) (words : List (Nat × Bool)) (s : State) : Out :=
  let bram := words.foldl (fun m e =>
    if e.1 < 18432 then kmod 0 m (512 * r.toNat + e.1 / 36) (fun x => setBit x (e.1 % 36) e.2) else m) s.vel.bram
  done (logErr .vel 0x0980 agVel (r.setWidth 48) { s with vel := { s.vel with bram := bram, bramColl := true } })

-- Registers (Tables 12.8, 12.9, 13.10 to 13.12)
/-- VEL_STATUS.BANK_OK. -/
def bankOk (s : State) : W32 :=
  (List.range 4).foldl (fun w b => if kget false s.vel.bankBad b then w else setBit w b true) 0

/-- The value of a serial port register. -/
def sportRead (n off : Nat) (s : State) : W32 :=
  let p := s.sportAt n
  if off = 0 then sportCtl s n
  else if off = 4 then
    BitVec.ofNat 32 ((16 - p.tx.length) + 0x100 * p.rx.length) ||| (b2w p.overrun <<< 16) ||| (b2w p.nack <<< 17)
  else if off = 0xC then (sportRx n s).1
  else 0

/-- MBOX_RAM: the mailbox RAM that the configuration names. -/
def mboxRamW (v : Vel) : W32 := match v.gcfg with | none => 0 | some g => g.mboxRam.setWidth 32

/-- The value a VEL register holds. -/
def velRead (off : Nat) (s : State) : W32 :=
  let v := s.vel
  if off = 0x000 then b2w v.release
  else if off = 0x004 then v.stage.setWidth 32 ||| (bankOk s <<< 4) ||| (b2w v.bramColl <<< 8)
  else if off = 0x008 then v.reason.setWidth 32
  else if 0x010 ≤ off ∧ off ≤ 0x018 then errWord v.errlog ((off - 0x010) / 4)
  else if off = 0x020 then (if tickRuns s then BitVec.ofNat 32 (Config.freeValue s.fresh % 0x10000) else 0)
  else if off = 0x024 then v.grst.setWidth 32
  else if off = 0x030 then v.mstOwner.setWidth 32 ||| (b2w v.mstEn <<< 8) ||| (b2w v.slvEn <<< 9)
  else if off = 0x034 then v.slvErr.setWidth 32
  else if 0x040 ≤ off ∧ off < 0x080 then kget 0 v.probe ((off - 0x040) / 4)
  else if 0x200 ≤ off ∧ off < 0x2C0 then sportRead ((off - 0x200) / 0x20) (off % 0x20) s
  else if 0x100 ≤ off ∧ off < 0x400 then
    (kget 0 v.tap ((off - 0x100) / 4)).setWidth 32 ||| ((kget 0 v.cur ((off - 0x100) / 4)).setWidth 32 <<< 8)
  else if off = 0x400 then v.uflAddr.setWidth 32
  else if off = 0x408 then (velUflData s).1
  else if off = 0x40C then b2w v.ufl.busy ||| (b2w v.rdBusy <<< 1) ||| (b2w v.ufl.err <<< 2)
  else if 0x500 ≤ off ∧ off < 0x700 then kget 0 v.ufl.wear ((off - 0x500) / 4)
  else if 0x800 ≤ off ∧ off < 0x900 then kget 0 v.uflBuf ((off - 0x800) / 4)
  else if off = 0x1000 then v.src.setWidth 32 ||| (v.slot.setWidth 32 <<< 2)
  else if off = 0x1004 then
    b2w v.loaded ||| (b2w v.busy <<< 1) ||| (b2w v.fallback <<< 2) ||| (b2w v.cfgErr <<< 3) |||
    (v.fromSlot.setWidth 32 <<< 4) ||| (v.fromSrc.setWidth 32 <<< 6)
  else if off = 0x1008 then v.qspiAddr.setWidth 32
  else if off = 0x1010 then BitVec.ofNat 32 (64 - v.fifo.length) ||| (b2w v.ovf <<< 8)
  else if off = 0x1014 then v.failFrame.setWidth 32 ||| (v.failStep.setWidth 32 <<< 12)
  else if 0x1020 ≤ off ∧ off < 0x1030 then kget 0 v.ids ((off - 0x1020) / 4)
  else if off = 0x1040 then
    v.prim.setWidth 32 ||| (v.golden.setWidth 32 <<< 2) ||| (b2w v.recovery <<< 8) ||| (v.bootsrc.setWidth 32 <<< 9)
  else if off = 0x1044 ∨ off = 0x1048 then v.lock.setWidth 32
  else if off = 0x1050 then v.cflAddr.setWidth 32
  else if off = 0x1058 then b2w v.cfl.busy ||| (b2w v.cfl.err <<< 1)
  else if off = 0x105C then v.cfl.word (v.cflAddr.toNat / 4)
  else if off = 0x1080 then flsWord v.cfl
  else if off = 0x1084 then flsWord v.ufl
  else if off = 0x1088 then flsWord s.sep.bfl
  else if 0x1100 ≤ off ∧ off < 0x1200 then kget 0 v.cflBuf ((off - 0x1100) / 4)
  else if off = 0x1200 then b2w v.scrubEn
  else if off = 0x1204 then
    b2w (v.scrubEn && !v.scrubFault && v.loaded) ||| (b2w v.scrubFault <<< 1) ||| (b2w v.vote <<< 2) ||| (b2w v.romPar <<< 3)
  else if off = 0x1208 then v.passes
  else if off = 0x120C then v.corrected.setWidth 32
  else if off = 0x1210 then v.reloaded.setWidth 32
  else if off = 0x1214 then v.unreload.setWidth 32
  else if off = 0x1218 then v.lastFrame.setWidth 32
  else if 0x1400 ≤ off ∧ off < 0x15C0 then kget 0 v.mask ((off - 0x1400) / 4)
  else if off = 0x1604 then irpStatus v
  else if off = 0x1608 then
    BitVec.ofNat 32 (66 - v.irpWords.length) ||| (mboxRamW v <<< 8)
  else if off = 0x1700 then v.rbFrame.setWidth 32
  else if off = 0x1704 then b2w v.rbMatch <<< 1
  else if 0x1780 ≤ off ∧ off < 0x1800 then v.rbData.extractLsb' (8 * (off - 0x1780)) 32
  else if off = 0x1800 then v.rbCrc
  else 0

/-- What a read of a VEL register changes: the RC counters, the received word, and the effects of a flash read. -/
def velClear (off : Nat) (s : State) : State :=
  if off = 0x034 then { s with vel := { s.vel with slvErr := 0 } }
  else if off = 0x020 then (draw s).2
  else if off = 0x408 then (velUflData s).2
  else if off = 0x120C then { s with vel := { s.vel with corrected := 0 } }
  else if off = 0x1210 then { s with vel := { s.vel with reloaded := 0 } }
  else if off = 0x1214 then { s with vel := { s.vel with unreload := 0 } }
  else if off = 0x105C then
    if s.vel.cfl.bad (s.vel.cflAddr.toNat / 4 * 4) then logCflWord (s.vel.cflAddr.toNat / 8 * 8) s else s
  else if 0x200 ≤ off ∧ off < 0x2C0 ∧ off % 0x20 = 0xC then (sportRx ((off - 0x200) / 0x20) s).2
  else s

/-- A write of a serial port register; MODE to DIV are RWL under EN. -/
def sportWrite (n off : Nat) (v : W32) (s : State) : State :=
  if off = 0 then
    if sportReg s n then
      let p := s.sportAt n
      let s := if bit p.ctl 0 then s else s.setSport n { p with ctl := v &&& 0x0FFF0FFE }
      if bit v 0 = bit p.ctl 0 then s else sportEnable n (bit v 0) s
    else if bit v 0 then setReason .vel 0x0110 s else s
  else if off = 4 ∧ sportReg s n then
    let p := s.sportAt n
    s.setSport n { p with overrun := p.overrun && !bit v 16, nack := p.nack && !bit v 17, err := p.err && !bit v 16 }
  else if off = 8 then sportTx n v s
  else s

/-- A write of a VEL register. -/
def velWrite (off : Nat) (v : W32) (s : State) : State :=
  let x := s.vel
  if off = 0x000 then (if bit v 0 then velReleaseSet s else velReleaseClear s)
  else if off = 0x004 then (if bit v 8 then { s with vel := { x with bramColl := false } } else s)
  else if off = 0x024 then { s with vel := { x with grst := fld v 0 2 } }
  else if off = 0x030 then { s with vel := { x with mstOwner := fld v 0 7, mstEn := bit v 8, slvEn := bit v 9 } }
  else if 0x040 ≤ off ∧ off < 0x080 then
    let n := (off - 0x040) / 4
    let w := kget 0 x.probe n
    let s := if bit w 31 then s else { s with vel := { x with probe := kset 0 x.probe n (v &&& 0x00FF1FFF) } }
    if bit v 31 = bit w 31 then s else probeEn n (bit v 31) s
  else if 0x200 ≤ off ∧ off < 0x2C0 then sportWrite ((off - 0x200) / 0x20) (off % 0x20) v s
  else if 0x100 ≤ off ∧ off < 0x400 then { s with vel := { x with tap := kset 0 x.tap ((off - 0x100) / 4) (fld v 0 6) } }
  else if off = 0x400 then { s with vel := { x with uflAddr := fld v 0 17 } }
  else if off = 0x404 then
    if fld v 0 2 = 1 then uflProgram false x.uflAddr s else if fld v 0 2 = 2 then uflErase false x.uflAddr s else s
  else if off = 0x40C then
    { s with vel := { x with rdBusy := x.rdBusy && !bit v 1, ufl := { x.ufl with err := x.ufl.err && !bit v 2 } } }
  else if 0x800 ≤ off ∧ off < 0x900 then { s with vel := { x with uflBuf := kset 0 x.uflBuf ((off - 0x800) / 4) v } }
  else if off = 0x1000 then
    let s := { s with vel := { x with src := fld v 0 2, slot := fld v 2 2 } }
    if bit v 8 then cfgLoadReg s else s
  else if off = 0x1008 then { s with vel := { x with qspiAddr := fld v 0 24 } }
  else if off = 0x100C then cfgData v s
  else if off = 0x1010 then (if bit v 8 then { s with vel := { x with ovf := false } } else s)
  else if off = 0x1040 then primaryGolden (fld v 0 4) s
  else if off = 0x1044 then lockSet (fld v 0 5) s
  else if off = 0x1048 then (if fld v 0 5 = 0 then s else lockClr (fld v 0 5) s)
  else if off = 0x1050 then { s with vel := { x with cflAddr := fld v 0 21 } }
  else if off = 0x1054 then (if fld v 0 2 = 1 then cflProgram s else if fld v 0 2 = 2 then cflErase s else s)
  else if off = 0x1058 then (if bit v 1 then { s with vel := { x with cfl := { x.cfl with err := false } } } else s)
  else if 0x1100 ≤ off ∧ off < 0x1200 then { s with vel := { x with cflBuf := kset 0 x.cflBuf ((off - 0x1100) / 4) v } }
  else if off = 0x1200 then { s with vel := { x with scrubEn := bit v 0 } }
  else if 0x1400 ≤ off ∧ off < 0x15C0 then { s with vel := { x with mask := kset 0 x.mask ((off - 0x1400) / 4) v } }
  else if off = 0x1600 then irpWord v s
  else if off = 0x1700 then readback (fld v 0 12) s
  else s

end Sys2Proof.Machine
end

