-- ==== Sys2Proof/Machine/Fabric.lean ====
section
/-!
DEFINITION. The user's logic in the Vellum fabric: product terms, macrocells, wires, I/O cells, block RAM ports, clock and
reset trees, and what drives a pin (R26 and chapter 12).
-/
namespace Sys2Proof.Machine

/-- R407 to R420: what the frames of logic blocks, I/O cells and the global region select. -/
def State.fabCfg (s : State) : FabCfg :=
  Config.decodeFabric ((s.vel.frames.filter (fun e => e.1 < 3264 || 3552 ≤ e.1)).map (fun e => (e.1, e.2.data)))

/-- The fabric is configured and its core domain runs. -/
def fabOn (s : State) : Bool := s.vel.loaded && s.vel.gcfg.isSome && s.domRun 18

/-- R472: region `r` is held. -/
def regionHeld (s : State) (r : Nat) : Bool := kget false s.vel.held r

/-- R441: the registers, RAMs and flash port may be written. -/
def writesGranted (s : State) : Bool := 2 ≤ s.vel.stage.toNat

/-- The wire of a destination. -/
def FabCfg.wireOf (c : FabCfg) (d : Dest) : Wire :=
  match d with
  | .vlb v i => kget {} (kget {} c.vlb v.toNat).ins i.toNat
  | d => ((c.wire.find? (fun e => e.1 == d)).map (·.2)).getD {}

/-- The options of macrocell `m`. -/
def FabCfg.mcOf (c : FabCfg) (m : Nat) : McCfg := kget {} (kget {} c.vlb (m / 32)).mc (m % 32)

-- What drives a pin (R26)
/-- The trip force drives pin `p` (R505). -/
def pinForced (s : State) (p : Nat) : Bool := s.tripActive && bit (s.forceReg p) 2
/-- The SAFE drive of pin `p`: 3 is forced as high impedance. -/
def pinSafe (s : State) (p : Nat) : BitVec 2 := let x := fld (s.forceReg p) 0 2; if x = 3 then 2 else x
/-- The hold latch has the pin: the device is in reset, or the bank's domain is gated. -/
def pinHeld (s : State) (p : Nat) : Bool :=
  s.glb.atReset || (s.domAt (19 + p / 48)).st == .gated || (s.domAt (19 + p / 48)).st == .waking
/-- R443: the probe channel that owns pin `p`, which the plan marks SPARE. -/
def pinProbe (s : State) (p : Nat) : Option Nat :=
  if planOf s p == .spare then
    (List.range 16).find? (fun m => bit (kget 0 s.vel.probe m) 31 && (fld (kget 0 s.vel.probe m) 16 8).toNat == p)
  else none

/-- R26: the one source that drives a pin. -/
inductive PinSrc where
  | hold | trip
  | probe (n : Nat)
  | fabric
  /-- A HARD pin, driven by the serial port that takes it (R432). -/
  | serial (n : BitVec 3)
  /-- Nothing drives the pin. -/
  | none
deriving DecidableEq, Repr

/-- R26, R424, R441: the source of pin `p`; the first that applies wins. -/
def pinSource (s : State) (p : Nat) : PinSrc :=
  if pinHeld s p then .hold
  else if pinForced s p then .trip
  else match pinProbe s p with
  | some n => .probe n
  | none =>
    match planOf s p with
    | .fabric => .fabric
    | .hard n => if s.vel.stage = 0 ∨ !sportEn s n.toNat then .none else .serial n
    | _ => .none

/-- R419, R420, R441, R472: what the I/O cell of a FABRIC pin drives, its OUT_R, OUT_F and OE wires at the levels given:
0, 1, or 2 for high impedance. -/
def cellDrive (c : FabCfg) (s : State) (p : Nat) (outR oe : Bool) : BitVec 2 :=
  let f := s.vel.fab
  let k := kget {} c.io p
  if !fabOn s || s.vel.stage = 0 then 2
  else if regionHeld s (64 + p) then pinSafe s p
  else if !(if k.oeReg then kget false f.oe p else oe) then 2
  else match k.out with
    | .comb => b2w outR
    | .reg => b2w (kget false f.outR p)
    | .ddr => b2w (if bit f.tree k.outCk.toNat then kget false f.outR p else kget false f.outF p)

-- GIM sources (Table 12.1)
/-- R423, R424: the level that I/O cell `p`'s input buffer sees: 0 while the bank is not in RUN or the pin is UNUSED. -/
def padIn (s : State) (p : Nat) : Bool :=
  s.domRun (19 + p / 48) && planOf s p != .unused && kget false s.vel.fab.pin p

/-- The level of GIM source `i` before its optional register. -/
def srcRaw (c : FabCfg) (s : State) (i : Nat) : Bool :=
  let v := s.vel
  let f := v.fab
  if i < 0x800 then kget false f.fb i
  else if i < 0x8C0 then
    (match (kget {} c.io (i - 0x800)).inp with
      | .comb => padIn s (i - 0x800)
      | _ => kget false f.inR (i - 0x800) && s.domRun (19 + (i - 0x800) / 48))
  else if i < 0x980 then kget false f.inF (i - 0x8C0) && s.domRun (19 + (i - 0x8C0) / 48)
  else if i < 0xE00 then
    let r := (i - 0x980) / 36
    !regionHeld s (256 + r / 2) && bit (kget 0 f.ramQ r) ((i - 0x980) % 36)
  else if i < 0xF80 then
    let n := (i - 0xE00) / 0x40
    let b := (i - 0xE00) % 0x40
    let p := kget {} v.sport n
    !sportReg s n && (if b < 32 then bit (p.rx.headD 0) b else if b = 32 then !p.rx.isEmpty
      else if b = 33 then decide (p.tx.length < 16) else b == 34 && p.err)
  else if i ≤ 0xFA1 then
    (if i < 0xFA0 then bit v.uflData (i - 0xF80) else if i = 0xFA0 then v.uflValid else v.ufl.busy)
  else if i = 0xFC0 ∨ i = 0xFC1 then bit f.osc (i - 0xFC0)
  else if 0x1000 ≤ i ∧ i < 0x1800 then bit (kget 0 s.plant.shown ((i - 0x1000) / 32)) ((i - 0x1000) % 32)
  else if 0x1800 ≤ i ∧ i < 0x1840 then bit s.plant.strobe (i - 0x1800)
  else if 0x1900 ≤ i ∧ i ≤ 0x1910 then (match v.slv with | x :: _ => bit x.o (i - 0x1900 + 2) | [] => false)
  else if 0x1920 ≤ i ∧ i < 0x1940 then (match v.slv with | x :: _ => x.wr && bit x.v (i - 0x1920) | [] => false)
  else if i = 0x1940 then (match v.slv with | x :: _ => x.wr | [] => false)
  else if i = 0x1941 then !v.slv.isEmpty
  else if 0x1980 ≤ i ∧ i < 0x19A0 then (match v.mstOut with | some x => bit x.2 (i - 0x1980) | none => false)
  else if i = 0x19A0 then v.mstOut.isSome
  else if i = 0x19A1 then (match v.mstOut with | some x => x.1 | none => false)
  else false

/-- R416: the level of GIM source `i`, from its register where it has one. -/
def srcLevel (c : FabCfg) (s : State) (i : Nat) : Bool :=
  match kfind c.src i with
  | some _ => kget false s.vel.fab.sreg i
  | none => srcRaw c s i

-- Product terms (R407 to R410)
/-- R415 before the optional register, for a wire that selects no product term. -/
def selLevel (c : FabCfg) (s : State) (w : Wire) : Bool :=
  match w.sel with | .zero => false | .gim i => srcLevel c s i.toNat | .pt4 _ => false

/-- The level that VLB `v` reads on its input `i`. -/
def vlbIn (c : FabCfg) (s : State) (v i : Nat) : Bool :=
  let w := c.wireOf (.vlb (BitVec.ofNat 6 v) (BitVec.ofNat 7 i))
  match w.reg with
  | some _ => ((s.vel.fab.dreg.find? (fun e => e.1 == .vlb (BitVec.ofNat 6 v) (BitVec.ofNat 7 i))).map (·.2)).getD false
  | none => selLevel c s w

/-- R408: a term is the AND of the literals it selects; one that selects none is 1, a disabled one 0. -/
def termLevel (inp : Nat → Bool) : PTerm → Bool
  | none => false
  | some l => (List.range 72).all (fun i => (!bit l i || inp i) && (!bit l (72 + i) || !inp i))

/-- Product term PT`k` of a macrocell. -/
def ptLevel (inp : Nat → Bool) (m : McCfg) (k : Nat) : Bool := termLevel inp (kfind m.pt k)

/-- R409, R410: the OR of the undiverted private terms and the selected shared terms. -/
def sumLevel (inp : Nat → Bool) (v : VlbCfg) (m : McCfg) : Bool :=
  (List.range 5).any (fun k => !bit m.divert k && ptLevel inp m k) ||
  (List.range 32).any (fun k => bit m.shared k && termLevel inp (kfind v.sh k))

/-- R411: X = SUM XOR P. -/
def xLevel (inp : Nat → Bool) (v : VlbCfg) (m : McCfg) : Bool :=
  xor (sumLevel inp v m) (if bit m.divert 0 then ptLevel inp m 0 else m.pol)

/-- The level that destination `d` selects, before its optional register (R414, R415). -/
def destRaw (c : FabCfg) (s : State) (d : Dest) : Bool :=
  match (c.wireOf d).sel with
  | .pt4 m => let k := c.mcOf m.toNat; bit k.divert 4 && k.pt4oe && ptLevel (vlbIn c s (m.toNat / 32)) k 4
  | _ => selLevel c s (c.wireOf d)

/-- R416: the level of destination `d`, from its register where it has one. -/
def destLevel (c : FabCfg) (s : State) (d : Dest) : Bool :=
  match (c.wireOf d).reg with
  | some _ => ((s.vel.fab.dreg.find? (fun e => e.1 == d)).map (·.2)).getD false
  | none => destRaw c s d

/-- R26, R559, R621: the drive of pin `p`: 0, 1, or 2 for high impedance, as while VCCIO of its bank is out of range; none where it is a serial port's waveform. -/
def pinDrive (s : State) (p : Nat) : Option (BitVec 2) :=
  let c := s.fabCfg
  if kget false s.vel.bankBad (p / 48) then some 2 else
  match pinSource s p with
  | .hold => some (if s.domRun (19 + p / 48) && pinForced s p then pinSafe s p else kget 2 s.glb.hold p)
  | .trip => some (pinSafe s p)
  | .probe n => some (b2w (srcLevel c s (fld (kget 0 s.vel.probe n) 0 13).toNat))
  | .fabric =>
    some (cellDrive c s p (destLevel c s (.outR (BitVec.ofNat 8 p))) (destLevel c s (.oe (BitVec.ofNat 8 p))))
  | .serial _ => none
  | .none => some 2

-- Clock and reset trees (R436, R437)
/-- R436: the level of clock tree `n`. -/
def treeLevel (c : FabCfg) (s : State) (n : Nat) : Bool :=
  match kget .pin c.tree n with
  | .pin => padIn s (48 * n)
  | .osc40 => bit s.vel.fab.osc 0
  | .osc32 => bit s.vel.fab.osc 1
  | .user => destLevel c s (.clk (BitVec.ofNat 2 n))

/-- What one pass of the fabric works with: the levels of the trees and their edges, the reset trees, and the free value
that decides the edges of R448. -/
structure Edge where
  lvl  : BitVec 4
  was  : BitVec 4
  rst  : BitVec 2
  rstWas : BitVec 2
  grant : Bool
  free : Nat

def Edge.rise (e : Edge) (n : Nat) : Bool := bit e.lvl n && !bit e.was n
def Edge.fall (e : Edge) (n : Nat) : Bool := !bit e.lvl n && bit e.was n
/-- GRSEL names an asserted reset tree. -/
def Edge.reset (e : Edge) : Option (BitVec 1) → Bool | none => false | some t => bit e.rst t.toNat
/-- R448: the tree deasserts as the edge arrives: the register may take the edge or ignore it. -/
def Edge.takes (e : Edge) (g : Option (BitVec 1)) (key : Nat) : Bool :=
  match g with
  | none => true
  | some t => !(bit e.rstWas t.toNat && !bit e.rst t.toNat) || e.free.testBit key

/-- R437: the SYNC setting of reset tree `n`. -/
def rstSync (s : State) (n : Nat) : Option (BitVec 2) :=
  match s.vel.gcfg with | none => none | some g => if n = 0 then g.syncA else g.syncB

/-- R437: the edges that reset tree `n` waits for after its last cause; 0: deasserted. -/
def rstNext (c : FabCfg) (s : State) (rise : Nat → Bool) (n : Nat) : Nat :=
  let cause := s.vel.stage ≠ 3 || destLevel c s (.rst (BitVec.ofNat 1 n)) || bit s.vel.grst n
  let w := kget 0 s.vel.fab.rstWait n
  match rstSync s n with
  | none => if cause then 1 else 0
  | some k => if cause then 2 else if rise k.toNat then w - 1 else w

/-- The edges of a pass. -/
def edges (c : FabCfg) (free : Nat) (s : State) : Edge :=
  let lvl : BitVec 4 := (List.range 4).foldl (fun w n => setBit w n (treeLevel c s n)) 0
  let rise := fun n => bit lvl n && !bit s.vel.fab.tree n
  { lvl := lvl, was := s.vel.fab.tree
    rst := (List.range 2).foldl (fun w n => setBit w n (decide (0 < rstNext c s rise n))) 0
    rstWas := s.vel.fab.rstWas, grant := writesGranted s, free := free }

/-- R416, R441: a plain register: its reset tree forces INIT, the rising edge of its tree takes `d`. -/
def wireNext (e : Edge) (r : WireReg) (key : Nat) (d old : Bool) : Bool :=
  if !e.grant || e.reset r.gr then r.init
  else if e.rise r.ck.toNat && e.takes r.gr key then d else old

/-- R411 to R413: the register of a macrocell after the pass: term reset, term set, global reset, clock. -/
def mcNext (e : Edge) (m : McCfg) (key : Nat) (pt : Nat → Bool) (x ckRise old : Bool) : Bool :=
  if !e.grant then m.init
  else if bit m.divert 3 && pt 3 then false
  else if bit m.divert 2 && pt 2 then true
  else if e.reset m.gr then m.init
  else if ckRise && e.takes m.gr key && (!(bit m.divert 4 && !m.pt4oe) || pt 4) then
    (if m.tMode then xor old x else x)
  else old

/-- One macrocell of VLB `v` in a pass; R472: one of a held region presents INIT and takes no clock; R473: the registers of a
region just committed hold INIT. -/
def mcStep (e : Edge) (inp : Nat → Bool) (v : Nat) (vc : VlbCfg) (held fresh : Bool) (f : Fab) (m : Nat × McCfg) : Fab :=
  let k := 32 * v + m.1
  let pck := bit m.2.divert 1 && ptLevel inp m.2 1
  let ckRise := if m.2.cksel = 4 then pck && !kget false f.pck k else e.rise m.2.cksel.toNat
  let x := xLevel inp vc m.2
  let q := if held || fresh then m.2.init else mcNext e m.2 k (ptLevel inp m.2) x ckRise (kget false f.q k)
  { f with
    q := kset false f.q k q
    pck := kset false f.pck k pck
    fb := kset false f.fb k (if held then m.2.init else if m.2.bypass then x else q) }

/-- The macrocells of every logic block in a pass; all read the levels of `s`. -/
def vlbStep (c : FabCfg) (e : Edge) (s : State) (f : Fab) : Fab :=
  c.vlb.foldl (fun f v =>
    v.2.mc.foldl (mcStep e (vlbIn c s v.1) v.1 v.2 (regionHeld s v.1) (kfind s.vel.fab.regWait v.1).isSome) f) f

/-- R419, R420: the registers of I/O cell `p` in a pass. -/
def cellStep (c : FabCfg) (e : Edge) (s : State) (f : Fab) (k : Nat × IoCfg) : Fab :=
  let p := k.1
  let b := BitVec.ofNat 8 p
  let old := s.vel.fab
  let i := k.2.inCk.toNat
  let o := k.2.outCk.toNat
  let pad := padIn s p
  let put := fun (on : Bool) (m : KMap Bool) (x : Bool) => if !e.grant then kset false m p false else if on then kset false m p x else m
  { f with
    inR := put (e.rise i) f.inR pad
    inCap := put (e.fall i) f.inCap pad
    inF := put (e.rise i && k.2.inp == .ddr) f.inF (kget false old.inCap p)
    outR := put (e.rise o) f.outR (destLevel c s (.outR b))
    outF := put (e.rise o && k.2.out == .ddr) f.outF (destLevel c s (.outF b))
    oe := put (e.rise k.2.oeCk.toNat) f.oe (destLevel c s (.oe b)) }

-- Block RAM ports (R425 to R427)
/-- The data bits of an access: its word, first bit and width; the aspects of 1, 2 and 4 bits reach no ninth bit. -/
def ramPlace (aspect a : Nat) : Nat × Nat × Nat :=
  if aspect = 0 then (a / 32 % 512, a % 32 / 8 * 9 + a % 8, 1)
  else if aspect = 1 then (a / 16 % 512, a % 16 / 4 * 9 + a % 4 * 2, 2)
  else if aspect = 2 then (a / 8 % 512, a % 8 / 2 * 9 + a % 2 * 4, 4)
  else if aspect = 3 then (a / 4 % 512, a % 4 * 9, 9)
  else if aspect = 4 then (a / 2 % 512, a % 2 * 18, 18)
  else (a % 512, 0, 36)

/-- Bits `[lo + w - 1 : lo]` of `x` taken from `d`. -/
def ramPut (x d : BitVec 36) (lo w : Nat) : BitVec 36 :=
  let m : BitVec 36 := BitVec.ofNat 36 ((2 ^ w - 1) * 2 ^ lo)
  (x &&& (m ^^^ BitVec.allOnes 36)) ||| ((d <<< lo) &&& m)

/-- A number read bit by bit. -/
def levels (n : Nat) (f : Nat → Bool) : Nat := (List.range n).foldl (fun w b => w + b2n (f b) * 2 ^ b) 0

/-- What port `pt` of RAM `r` asks on this pass: its place, data, write, and that it is clocked and enabled. -/
def ramAsk (c : FabCfg) (e : Edge) (s : State) (r : Nat) (pt : BitVec 1) : (Nat × Nat × Nat) × BitVec 36 × Bool × Bool :=
  let k := kget {} c.ram (2 * r + pt.toNat)
  let rb := BitVec.ofNat 4 r
  let a := levels 14 (fun b => destLevel c s (.ramAddr rb pt (BitVec.ofNat 4 b)))
  let d := BitVec.ofNat 36 (levels 36 (fun b => destLevel c s (.ramData rb pt (BitVec.ofNat 6 b))))
  (ramPlace k.aspect.toNat a, d, destLevel c s (.ramWe rb pt) && e.grant && !regionHeld s (256 + r),
    e.rise k.ck.toNat && destLevel c s (.ramEn rb pt))

/-- R425, R426: a port's new read data, from the contents before the edge. -/
def ramOut (c : FabCfg) (old : KMap (BitVec 36)) (r : Nat) (pt : BitVec 1) (q : (Nat × Nat × Nat) × BitVec 36 × Bool × Bool)
    (was : BitVec 36) : BitVec 36 :=
  let k := kget {} c.ram (2 * r + pt.toNat)
  let (w, lo, n) := q.1
  let m : BitVec 36 := BitVec.ofNat 36 (2 ^ n - 1)
  if !q.2.2.2 then was
  else if q.2.2.1 && k.rdw = 1 then q.2.1 &&& m
  else if q.2.2.1 && k.rdw = 2 then was
  else (kget 0 old (512 * r + w) >>> lo) &&& m

/-- One block RAM on the edges of a pass: both reads are of the old contents, and A's data wins a double write (R426). -/
def ramStep (c : FabCfg) (e : Edge) (s : State) (v : Vel) (r : Nat) : Vel :=
  let qa := ramAsk c e s r 0
  let qb := ramAsk c e s r 1
  let old := s.vel.bram
  let wr := fun (m : KMap (BitVec 36)) (q : (Nat × Nat × Nat) × BitVec 36 × Bool × Bool) =>
    if q.2.2.1 && q.2.2.2 then kmod 0 m (512 * r + q.1.1) (fun x => ramPut x q.2.1 q.1.2.1 q.1.2.2) else m
  { v with
    bram := wr (wr v.bram qb) qa
    fab := { v.fab with
      ramQ := kset 0 (kset 0 v.fab.ramQ (2 * r) (ramOut c old r 0 qa (kget 0 s.vel.fab.ramQ (2 * r))))
        (2 * r + 1) (ramOut c old r 1 qb (kget 0 s.vel.fab.ramQ (2 * r + 1))) } }

/-- R504: the level of plant interrupt line `i`. -/
def plantLine (s : State) (i : Nat) : Bool := fabOn s && destLevel s.fabCfg s (.plant (BitVec.ofNat 4 i))

-- Passes
/-- The registered destination wires of the configuration. -/
def regDests (c : FabCfg) : List (Dest × WireReg) :=
  c.vlb.flatMap (fun v => v.2.ins.filterMap (fun i => i.2.reg.map (fun r => (.vlb (BitVec.ofNat 6 v.1) (BitVec.ofNat 7 i.1), r)))) ++
  c.wire.filterMap (fun e => e.2.reg.map (fun r => (e.1, r)))

/-- R416: the registers of wires in a pass. -/
def wireStep (c : FabCfg) (e : Edge) (s : State) (f : Fab) : Fab :=
  { f with
    dreg := (regDests c).zipIdx.map (fun d => (d.1.1, wireNext e d.1.2 (2048 + d.2) (destRaw c s d.1.1)
      (((s.vel.fab.dreg.find? (fun x => x.1 == d.1.1)).map (·.2)).getD false)))
    sreg := c.src.foldl (fun m r => kset false m r.1
      (wireNext e r.2 (16384 + r.1) (srcRaw c s r.1) (kget false s.vel.fab.sreg r.1))) s.vel.fab.sreg }

/-- One pass: every element of the fabric takes the levels that the pass before it left. -/
def fabPass (c : FabCfg) (free : Nat) (s : State) : State :=
  let e := edges c free s
  let rise := e.rise
  let f := wireStep c e s (vlbStep c e s s.vel.fab)
  let f := c.io.foldl (cellStep c e s) f
  let f := { f with
    tree := e.lvl, rstWas := e.rst
    regWait := f.regWait.filterMap (fun w =>
      if rise w.2.2.toNat then (if w.2.1 ≤ 1 then none else some (w.1, (w.2.1 - 1, w.2.2))) else some w)
    rstWait := (List.range 2).foldl (fun m n => kset 0 m n (rstNext c s rise n)) f.rstWait }
  let v := (List.range 16).foldl (fun v r =>
    if (kfind c.ram (2 * r)).isSome || (kfind c.ram (2 * r + 1)).isSome then ramStep c e s v r else v) { s.vel with fab := f }
  { s with vel := v }

/-- Pass after pass until nothing changes: a path of k macrocells settles in k passes. A loop without a stable state has
gone round `n` times (log entry 134). -/
def fabSettle (c : FabCfg) (free : Nat) : Nat → State → State
  | 0, s => s
  | n + 1, s =>
    let t := fabPass c free s
    if t.vel.fab = s.vel.fab ∧ t.vel.bram = s.vel.bram then s else fabSettle c free n t

/-- The fabric settles on its inputs as they are. -/
def fabRun (s : State) : State :=
  if fabOn s then let d := draw s; fabSettle d.2.fabCfg d.1 4096 d.2 else s

/-- What a pin reads while the outside drives `ext` on it: the chip's own drive wins. -/
def padLevel (s : State) (ext : Nat) (p : Nat) : Bool :=
  match pinDrive s p with
  | some d => if d = 2 then ext.testBit p else d == 1
  | none => ext.testBit p

/-- The outside of the fabric moves: the oscillators and the pins take free levels, and the fabric settles (log entry 131). -/
def fabEvent (s : State) : State :=
  if fabOn s then
    let d := draw s
    let s := d.2
    let pins := (List.range 192).foldl (fun m p => kset false m p (padLevel s d.1 p)) ([] : KMap Bool)
    fabRun { s with vel := { s.vel with fab := { s.vel.fab with pin := pins, osc := BitVec.ofNat 2 (d.1 >>> 192) } } }
  else s

/-- RELEASE_STAGE (R441): the drive values of stage 1 are computed with every register at its reset value. -/
def execReleaseStage (s : State) : Out := done (fabRun (releaseStage s))

end Sys2Proof.Machine
end

