-- ==== Sys2Proof/Machine/Fec.lean ====
section
/-!
DEFINITION. The RS(544,514) code of a link over 10-bit symbols (IEEE 802.3 Clause 91, the standard that R306 names): the
encoder, and the striping of a codeword over the lanes.
-/
namespace Sys2Proof.Machine

/-- A symbol: an element of GF(2^10) with x^10 = x^3 + 1. -/
abbrev Sym := BitVec 10

/-- Multiply by x. -/
def symX (a : Sym) : Sym := (a <<< 1) ^^^ (if bit a 9 then 0x009 else 0)

/-- Multiply two symbols. -/
def symMul (a b : Sym) : Sym :=
  ((List.range 10).foldl (fun (r : Sym × Sym) i => (if bit b i then r.1 ^^^ r.2 else r.1, symX r.2)) (0, a)).1

/-- The product of a polynomial, highest coefficient first, and x - c. -/
def polyMul (p : List Sym) (c : Sym) : List Sym :=
  List.zipWith (· ^^^ ·) (p ++ [0]) (0 :: p.map (symMul c))

/-- The generator: the product of x - α^j for j from 0 to 29, highest coefficient first. -/
def rsGen : List Sym :=
  ((List.range 30).foldl (fun (r : List Sym × Sym) _ => (polyMul r.1 r.2, symX r.2)) ([1], 1)).1

/-- One step of the division by the generator: symbol `m` enters. -/
def rsStep (g : List Sym) (r : List Sym) (m : Sym) : List Sym :=
  let f := m ^^^ r.headD 0
  List.zipWith (fun x y => x ^^^ symMul f y) (r.drop 1 ++ [0]) (g.drop 1)

/-- R306: a codeword: the 514 symbols of the message in order, and the 30 parity symbols. -/
def rsEncode (m : List Sym) : List Sym := m ++ m.foldl (rsStep rsGen) (List.replicate 30 0)

/-- The 514 symbols of a message of 5,140 bits, bit 0 first (log entry 157). -/
def msgSyms (m : Nat) : List Sym := (List.range 514).map (fun i => BitVec.ofNat 10 (m >>> (10 * i)))

/-- R306: the symbols of a codeword striped round-robin over the 8 lanes, lane 0 first. -/
def stripe (c : List Sym) : List (List Sym) :=
  (List.range 8).map (fun l => (List.range 68).map (fun i => c.getD (8 * i + l) 0))

end Sys2Proof.Machine
end

