-- ==== Sys2Proof/Machine/Kysto.lean ====
section
/-!
DEFINITION. The Kysto link layer: frames, retry, credits, topology and routing, tick synchronisation, and the KL registers
(chapter 09).
-/
namespace Sys2Proof.Machine

-- Topology (R326 to R329)
/-- DX, DY, DZ of the active surroundings table. -/
def dimSize (s : State) (d : Nat) : Nat := (s.surrByte (0x40 + d)).toNat
def chipNo (s : State) : Nat := (s.surrByte 0x43).toNat
def chipCount (s : State) : Nat := dimSize s 0 * dimSize s 1 * dimSize s 2
def linkConn (s : State) (l : Nat) : Bool := bit (s.surrByte (0x50 + l)) 0
def linkDim (s : State) (l : Nat) : Nat := (fld (s.surrByte (0x50 + l)) 1 2).toNat
/-- DIR: true towards −. -/
def linkDir (s : State) (l : Nat) : Bool := bit (s.surrByte (0x50 + l)) 3

/-- R328: coordinate `d` of chip `i`. -/
def coord (s : State) (i d : Nat) : Nat :=
  if d = 0 then i % dimSize s 0
  else if d = 1 then i / dimSize s 0 % dimSize s 1
  else i / (dimSize s 0 * dimSize s 1)

/-- R327: the links of a bundle, ascending. -/
def bundle (s : State) (d : Nat) (minus : Bool) : List Nat :=
  (List.range 16).filter (fun l => linkConn s l && linkDim s l == d && linkDir s l == minus)

/-- R327: the link map is valid; a size above 16 is none that Table 09.7 defines (log entry 170). -/
def mapValid (s : State) : Bool :=
  (List.range 3).all (fun d => dimSize s d ≤ 16) && chipCount s ≤ 256 && chipNo s < chipCount s &&
  (List.range 16).all (fun l => !linkConn s l || (linkDim s l < 3 && 2 ≤ dimSize s (linkDim s l))) &&
  (List.range 3).all (fun d => dimSize s d < 2 || (!(bundle s d false).isEmpty && !(bundle s d true).isEmpty))

/-- R328: the dimension and direction of the next hop from chip `c` to chip `d`. -/
def nextDir (s : State) (c d : Nat) : Option (Nat × Bool) :=
  (List.range 3).findSome? (fun k =>
    let n := dimSize s k
    if n = 0 then none else
    let delta := (coord s d k + n - coord s c k) % n
    if delta = 0 then none else some (k, !(delta ≤ n - delta)))

/-- R328: the next link for a packet at this chip bound for chip `d`. -/
def nextLink (s : State) (d : Nat) : Option Nat :=
  if chipCount s ≤ d then none else
  match nextDir s (chipNo s) d with
  | none => none
  | some (k, m) =>
    let b := bundle s k m
    if b.isEmpty then none else b[d % b.length]?

/-- R329: the link is a wrap link. -/
def isWrap (s : State) (l : Nat) : Bool :=
  let x := coord s (chipNo s) (linkDim s l)
  if linkDir s l then x == 0 else x + 1 == dimSize s (linkDim s l)

/-- The chip at the far end of link `l`. -/
def neighbour (s : State) (l : Nat) : Nat :=
  let k := linkDim s l
  let n := dimSize s k
  let me := chipNo s
  let x := coord s me k
  let x' := if linkDir s l then (x + n - 1) % n else (x + 1) % n
  let stride := if k = 0 then 1 else if k = 1 then dimSize s 0 else dimSize s 0 * dimSize s 1
  me - x * stride + x' * stride

/-- R335: hops from chip `c` to chip 0. -/
def hops (s : State) (c : Nat) : Nat :=
  (List.range 3).foldl (fun t k => let x := coord s c k; t + min x (dimSize s k - x)) 0

/-- R335: the parent link, and the depth; from the SYNC_IN pin the depth is 1. -/
def parentLink (s : State) : Option Nat := if chipNo s = 0 ∨ s.kl.src then none else nextLink s 0
def depthOf (s : State) : Nat := if s.kl.src then 1 else hops s (chipNo s)
/-- The parent can be heard: its link is UP, or it is the pin. -/
def parentUp (s : State) : Bool :=
  s.kl.src || (match parentLink s with | none => false | some l => (s.linkAt l).st == .up)

-- Frames (R307)
/-- Header fields (Table 09.2). -/
def hdr (kind : BitVec 2) (buf : BitVec 3) (seq ack : BitVec 10) (ackv sop : Bool) (nfr : BitVec 2) : W32 :=
  kind ++ buf ++ seq ++ ack ++ b2w (n := 1) ackv ++ b2w (n := 1) sop ++ nfr ++ (0 : BitVec 3)

/-- R307: a frame from its header and payload, with its CRC over bytes 0 to 131. -/
def mkFrame (h : W32) (p : BitVec 1024) : BitVec 1088 := crc32 (wordBytes 132 (p ++ h)) ++ p ++ h

def frHdr (f : BitVec 1088) : W32 := fld f 0 32
def frPay (f : BitVec 1088) : BitVec 1024 := fld f 32 1024
/-- R308: the CRC of a frame is good. -/
def frGood (f : BitVec 1088) : Bool := fld f 1056 32 == crc32 (wordBytes 132 f)

/-- Receive buffer sizes (Table 09.5). -/
def bufSize (b : Nat) : Nat := if b < 4 then 64 else 128

/-- R317: available credits of class `b`. -/
def Link.credits (k : Link) (b : Nat) : Nat := bufSize b - (kget 0 k.sent b - kget 0 k.freedAt b).toNat

/-- The header of a frame that link `k` sends: it carries the ACK (R322). -/
def Link.head (k : Link) (kind : BitVec 2) (buf : BitVec 3) (seq : BitVec 10) (sop : Bool) (nfr : BitVec 2) : W32 :=
  hdr kind buf seq (k.rxSeq - 1) k.rxAny sop nfr

/-- R306: a frame joins the message being filled; a full message of 5,140 bits leaves as a codeword, striped over the lanes. -/
def Link.packFrame (k : Link) (f : BitVec 1088) : Link :=
  let m := k.txMsg + f.toNat * 2 ^ k.txLen
  let n := k.txLen + 1088
  if n < 5140 then { k with txMsg := m, txLen := n }
  else { k with txMsg := m >>> 5140, txLen := n - 5140, lanes := stripe (rsEncode (msgSyms m)) }

/-- A frame goes out; it acknowledges what has been accepted. -/
def Link.sendFrame (k : Link) (f : BitVec 1088) : Link := { k.packFrame f with lastTx := some f, unacked := 0 }

/-- R306, Table 09.13: of the codewords that a received frame overlaps, the decoder may have corrected one: a free value, since
the frame's row carries what the decoder delivers (log entry 158). -/
def fecSeen (l : Nat) (s : State) : State :=
  let d := draw s
  let k := d.2.linkAt l
  d.2.setLink l { k with fecCorr := if d.1 % 2 = 1 then satInc k.fecCorr else k.fecCorr }

/-- R309: what a LINK frame says of its sender: chip index, link number, DIM and DIR, in bytes 0 to 3 (log entry 156). -/
def linkIdent (l : Nat) (s : State) : W32 :=
  b2w (linkDir s l) <<< 24 ||| BitVec.ofNat 32 (linkDim s l) <<< 16 ||| BitVec.ofNat 32 l <<< 8 ||| BitVec.ofNat 32 (chipNo s)

/-- The payload of a LINK frame: the sender's identity, NAK in bytes 4 and 5, frames freed per class at bytes 8 + 2 BUF (R309,
R317, R323). -/
def Link.linkPayload (k : Link) (nak : Bool) : BitVec 1024 :=
  let p : BitVec 1024 := k.ident.setWidth 1024
  let p : BitVec 1024 := if nak then setFld p 32 ((k.rxSeq.setWidth 16 : W16) ||| 0x8000) else p
  (List.range 6).foldl (fun p b => setFld p (64 + 16 * b) (kget 0 k.freed b)) p

/-- Send frame `n` of packet `p`, with payload `f`. -/
def Link.sendData (k : Link) (now : W64) (p : Pkt) (n : Nat) (f : BitVec 1024) : Link :=
  let b := p.buf.toNat
  let g := mkFrame (k.head 0 p.buf k.txSeq (n == 0) (BitVec.ofNat 2 (if n = 0 then p.frames.length - 1 else 0))) f
  { k.sendFrame g with
    txSeq := k.txSeq + 1
    replay := k.replay ++ [{ seq := k.txSeq, frame := g, since := now }]
    sent := kset 0 k.sent b (kget 0 k.sent b + 1)
    cur := if n + 1 < p.frames.length then [(p, n + 1)] else []
    fwd := match p.held with | some c => k.fwd ++ [(p.link, c)] | none => k.fwd }

/-- Channel order of R315: RSP, COLL, REQ. -/
def chanRank (b : BitVec 3) : Nat := if b.toNat / 2 = 1 then 0 else if b.toNat / 2 = 2 then 1 else 2

/-- METERED of a packet (Table 09.4). -/
def Pkt.metered (p : Pkt) : Bool := bit (p.frames.headD 0) 20

/-- The order in which R315 takes new packets; a class passed over 64 times goes first. -/
def Link.pktKey (k : Link) (p : Pkt) : Nat :=
  if 64 ≤ kget 0 k.passed p.buf.toNat then 0
  else (if p.metered then 1 else 2) * 2 ^ 80 + p.stamp.toNat * 4 + chanRank p.buf

/-- A new packet may start: credits for all its frames, and room in the replay buffer (R317, R321). -/
def Link.mayStart (k : Link) (p : Pkt) : Bool := p.frames.length ≤ k.credits p.buf.toNat && k.replay.length < 512

/-- R314: packets of one channel from one chip to one chip. -/
def Pkt.follows (p q : Pkt) : Bool := p.buf.toNat / 2 == q.buf.toNat / 2 && fld (p.frames.headD 0) 0 16 == fld (q.frames.headD 0) 0 16

/-- The packets that no earlier one of their order precedes. -/
def firsts : List Pkt → List Pkt → List Pkt
  | _, [] => []
  | seen, p :: ps => (if seen.any p.follows then [] else [p]) ++ firsts (p :: seen) ps

/-- The packet R315 takes next, in the order that R314 keeps. -/
def Link.pick (k : Link) : Option Pkt :=
  ((firsts [] k.txq).filter k.mayStart).foldl (fun b p =>
    match b with | none => some p | some q => if k.pktKey p < k.pktKey q then some p else some q) none

/-- Classes with a packet ready are passed over by one opportunity, but for class `b`; the count is of consecutive ones. -/
def Link.passOver (k : Link) (b : Option Nat) : Link :=
  { k with passed := (List.range 6).foldl (fun m c =>
      if b ≠ some c ∧ k.txq.any (fun p => p.buf.toNat == c) then kset 0 m c (kget 0 m c + 1) else kset 0 m c 0) k.passed }

/-- A LINK frame. -/
def Link.sendLink (k : Link) (nak : Bool) : Link :=
  { k.sendFrame (mkFrame (k.head 1 0 0 false 0) (k.linkPayload nak)) with nakPend := false, credChg := none, idPend := false }

/-- No DATA frame is ready: a LINK frame that carries credits, or an IDLE frame. -/
def Link.sendSpare (k : Link) : Link :=
  if k.credChg.isSome then k.sendLink false else k.sendFrame (mkFrame (k.head 3 0 0 false 0) 0)

/-- R315: one frame opportunity. A LINK frame that carries only credits goes out at the latest 64 ticks after a change. -/
def Link.opportunity (k : Link) (now : W64) : Link :=
  match k.tickq with
  | f :: fs => Link.passOver { k.sendFrame f with tickq := fs } none
  | [] =>
    let due := match k.credChg with | some t => (t + 64).ule now | none => false
    if k.nakPend then (k.sendLink true).passOver none
    else if due || k.idPend then (k.sendLink false).passOver none
    else match k.resend with
    | r :: rs =>
      let f := mkFrame ((frHdr r.frame &&& 0xFFFE003F) ||| (k.head 0 0 0 false 0 &&& 0x0001FFC0)) (frPay r.frame)
      Link.passOver { k.sendFrame f with
        resend := rs, replay := k.replay.map (fun x => if x.seq = r.seq then { x with since := now } else x) } none
    | [] =>
      match k.cur with
      | (p, n) :: _ =>
        if k.replay.length < 512 then
          (k.sendData now p n (p.frames.getD n 0)).passOver (some p.buf.toNat)
        else (k.sendSpare).passOver none
      | [] =>
        match k.pick with
        | some p =>
          let f := setFld (p.frames.headD 0) 48 (fld p.stamp 0 16)
          (Link.sendData { k with txq := k.txq.erase p } now p 0 f).passOver (some p.buf.toNat)
        | none => (k.sendSpare).passOver none

/-- R317: space of `n` frames of class `b` on link `l` is free again. -/
def freeSpace (l : Nat) (b : BitVec 3) (n : Nat) (s : State) : State :=
  let k := s.linkAt l
  s.setLink l { k with
    freed := kset 0 k.freed b.toNat (kget 0 k.freed b.toNat + BitVec.ofNat 16 n)
    credChg := if k.credChg.isSome then k.credChg else some s.now }

/-- R317: the frames that link `l` has forwarded leave their receive buffers. -/
def fwdFree (l : Nat) (s : State) : State :=
  (s.linkAt l).fwd.foldl (fun s e => freeSpace e.1 e.2 1 s) (s.setLink l { s.linkAt l with fwd := [] })

/-- Link `l` takes one frame opportunity. -/
def linkSend (l : Nat) (s : State) : State :=
  let k := s.linkAt l
  if k.st = .up then fwdFree l (s.setLink l (k.opportunity s.now)) else s

/-- FRAME_OPPORTUNITY (R315). -/
def execFrameOpportunity (l : BitVec 4) (s : State) : Out := done (linkSend l.toNat s)

/-- R315, R322: an ACK or a credit report is due: 32 frames or 64 ticks after an acceptance, 64 ticks after a change. -/
def Link.reportDue (k : Link) (now : W64) : Bool :=
  32 ≤ k.unacked || (0 < k.unacked && (k.unackAt + 64).ule now) || (match k.credChg with | some t => (t + 64).ule now | none => false)

/-- R322: the ACK of a received header covers frames of the replay buffer. -/
def Link.takeAck (k : Link) (h : W32) : Link :=
  let a := fld h 7 10
  if bit h 6 && k.replay.any (fun r => r.seq == a) then
    let rest := (k.replay.dropWhile (fun r => r.seq != a)).drop 1
    { k with replay := rest, stuck := 0, resend := k.resend.filter (fun r => rest.any (fun x => x.seq == r.seq)) }
  else k

/-- R312, R322: an accepted DATA frame goes into its receive buffer. -/
def Link.accept (k : Link) (f : BitVec 1088) (l : Nat) (now : W64) : Link :=
  let h := frHdr f
  let b := (fld h 27 3).toNat
  let k := { k with
    rxSeq := k.rxSeq + 1, rxAny := true, nakAt := none,
    unacked := k.unacked + 1, unackAt := if k.unacked = 0 then now else k.unackAt }
  if bit h 5 then
    { k with
      rx := k.rx ++ [{ buf := BitVec.ofNat 3 b, frames := [frPay f], stamp := now, link := l }]
      rxLeft := kset 0 k.rxLeft b (fld h 3 2).toNat }
  else
    let add := fun (ps : List Pkt) =>
      match ps.reverse.findIdx? (fun p => p.buf.toNat == b) with
      | none => ps
      | some i => ps.modify (ps.length - 1 - i) (fun p => { p with frames := p.frames ++ [frPay f], stamp := now })
    { k with rx := add k.rx, rxLeft := kset 0 k.rxLeft b (kget 0 k.rxLeft b - 1) }

/-- DATA_FRAME (R322): a good DATA frame with the expected SEQ is accepted. -/
def execDataFrame (l : BitVec 4) (f : BitVec 1088) (s : State) : Out :=
  let k := s.linkAt l.toNat
  let h := frHdr f
  done (if k.st = .up ∧ frGood f ∧ fld h 30 2 = 0 ∧ fld h 17 10 = k.rxSeq ∧ fld h 27 3 ≠ 6 ∧ fld h 27 3 ≠ 7 then
    fecSeen l.toNat (s.setLink l.toNat ((k.takeAck h).accept f l.toNat s.now)) else s)

/-- BAD_FRAME (R308, R323): discarded and counted; a NAK goes out if none is outstanding. -/
def execBadFrame (l : BitVec 4) (why : BadKind) (s : State) : Out :=
  let k := s.linkAt l.toNat
  let k' := match why with
    | .crc => { k with crcErr := satInc k.crcErr }
    | .fec => { k with fecUncorr := satInc k.fecUncorr }
    | .sequence => k
  let k' := if k.nakAt.isSome then k' else { k' with nakAt := some s.now, nakPend := true }
  done (if k.st = .up then s.setLink l.toNat k' else s)

/-- NAK_REPEAT (R323). -/
def execNakRepeat (l : BitVec 4) (s : State) : Out :=
  let k := s.linkAt l.toNat
  done (match k.nakAt with
    | some t => if k.st = .up ∧ (t + 1024).ule s.now then
        s.setLink l.toNat { k with nakAt := some s.now, nakPend := true } else s
    | none => s)

/-- R324: resend every frame from `seq` on; none: the link is lost, 8 resends having brought no advance (R325). -/
def Link.resendFrom (k : Link) (seq : BitVec 10) (now : W64) : Option Link :=
  if 8 ≤ k.stuck then none
  else some { k with
    resend := k.replay.dropWhile (fun r => r.seq != seq)
    replay := k.replay.map (fun r => { r with since := now })
    stuck := k.stuck + 1, replays := satInc k.replays }

/-- R317, R323: what a LINK frame does to the link; none: the link is lost. -/
def Link.takeLink (k : Link) (f : BitVec 1088) (now : W64) : Option Link :=
  let p := frPay f
  let k := k.takeAck (frHdr f)
  let k := { k with freedAt := (List.range 6).foldl (fun m b => kset 0 m b (fld p (64 + 16 * b) 16)) k.freedAt }
  let ovr := (List.range 6).any (fun b => bufSize b < (kget 0 k.sent b - kget 0 k.freedAt b).toNat)
  if ovr then none
  else
    let nak := fld p 32 16
    if bit nak 15 then { k with naks := satInc k.naks }.resendFrom (fld nak 0 10) now else some k

-- Packets (R312)
/-- Header fields of a packet's first payload (Table 09.4). -/
def Pkt.h (p : Pkt) : BitVec 1024 := p.frames.headD 0
def Pkt.dst (p : Pkt) : Nat := (fld p.h 0 8).toNat
def Pkt.src (p : Pkt) : Nat := (fld p.h 8 8).toNat
def Pkt.op (p : Pkt) : Nat := (fld p.h 16 4).toNat
def Pkt.owner (p : Pkt) : Owner := fld p.h 24 7
def Pkt.tag (p : Pkt) : BitVec 10 := fld p.h 32 10
def Pkt.len (p : Pkt) : Nat := (fld p.h 42 4).toNat
def Pkt.status (p : Pkt) : BitVec 2 := fld p.h 46 2
def Pkt.hopStamp (p : Pkt) : W16 := fld p.h 48 16
def Pkt.addr (p : Pkt) : W64 := fld p.h 64 64
/-- The data of a packet: the bytes after its header, across its frames. -/
def Pkt.data (p : Pkt) : List Byte := ((p.frames.flatMap (wordBytes 128)).drop 16).take (32 * p.len)

/-- The channel an OP travels on: 0 REQ, 1 RSP, 2 COLL. -/
def opChan (op : Nat) : Nat := if op < 2 then 0 else if op < 4 then 1 else 2

/-- Build a packet (R312). -/
def mkPkt (dst src op : Nat) (metered : Bool) (o : Owner) (tag : BitVec 10) (status : BitVec 2) (addr : W64) (data : List Byte)
    (now : W64) : Pkt :=
  let len := (data.length + 31) / 32
  let h : BitVec 128 := addr ++ (0 : W16) ++ status ++ BitVec.ofNat 4 len ++ tag ++ (0 : BitVec 1) ++ o ++ (0 : BitVec 3) ++
    b2w (n := 1) metered ++ BitVec.ofNat 4 op ++ BitVec.ofNat 8 src ++ BitVec.ofNat 8 dst
  let bytes := wordBytes 16 h ++ data
  let n := (bytes.length + 127) / 128
  { buf := BitVec.ofNat 3 (2 * opChan op), stamp := now
    frames := (List.range n).map (fun i => leWord 1024 ((bytes.drop (128 * i)).take 128)) }

/-- R317: the frames of a packet that is not forwarded leave their receive buffer. -/
def freeHeld (p : Pkt) (n : Nat) (s : State) : State :=
  match p.held with | some c => freeSpace p.link c n s | none => s

/-- R331: a packet is dropped. -/
def dropPkt (p : Pkt) (s : State) : State :=
  freeHeld p p.frames.length
    (logErr .kl 0x0785 agColl (fld p.addr 0 48) { s with kl := { s.kl with dropped := s.kl.dropped + 1 } })

/-- A link that is off, with the counters that only a read clears (Table 09.13). -/
def Link.counted (k : Link) : Link :=
  { crcErr := k.crcErr, fecUncorr := k.fecUncorr, fecCorr := k.fecCorr, replays := k.replays, naks := k.naks, late := k.late }

/-- R331: the packets that wait for link `l` find their route down; the rest of a packet already begun is not sent. -/
def linkEmpty (l : Nat) (s : State) : State :=
  let k := s.linkAt l
  let s := s.setLink l { k with txq := [], cur := [] }
  let s := k.cur.foldl (fun s e => freeHeld e.1 (e.1.frames.length - e.2) s) s
  k.txq.foldl (fun s p => dropPkt p s) s

/-- R325: the link fails; its buffers are discarded. -/
def linkFail (l : Nat) (s : State) : State :=
  let s := linkEmpty l s
  let k := s.linkAt l
  s.setLink l { k.counted with st := .failed, partner := k.partner }

-- KL_ENABLE and training (R309)
/-- R309: the check of a KL_ENABLE bit. -/
def klChecks (s : State) (l : Nat) : List (Bool × W16) :=
  [(!s.glb.surrEn, 0x0701), (!mapValid s || !linkConn s l, 0x0702), (!s.domRun (24 + l), 0x0703)]

/-- R309: a write of KL_ENABLE, bit by bit. -/
def klEnableBit (v : W16) (s : State) (l : Nat) : State :=
  let was := bit s.kl.enable l
  if bit v l && !was then
    checked .kl (klChecks s l) (fun s =>
      let k := s.linkAt l
      let s := s.setLink l { k.counted with st := .training }
      { s with kl := { s.kl with enable := setBit s.kl.enable l true } }) s
  else if !bit v l && was then
    let s := linkEmpty l s
    let s := s.setLink l (s.linkAt l).counted
    { s with kl := { s.kl with enable := setBit s.kl.enable l false } }
  else s
def klEnable (v : W16) (s : State) : State := (List.range 16).foldl (klEnableBit v) s

/-- KL_ENABLE (R309). -/
def execKlEnable (v : W16) (s : State) : Out := done (klEnable v s)

/-- LINK_TRAINED (R309): the link reaches UP, and the partner's identity is checked; or it enters FAILED. -/
def execLinkTrained (l : BitVec 4) (ok : Bool) (chip : Byte) (_link : BitVec 4) (dim : BitVec 2) (dir : Bool) (s : State) : Out :=
  let n := l.toNat
  let k := s.linkAt n
  done (if k.st ≠ .training then s
    else if ok ∧ chip.toNat = neighbour s n ∧ dim.toNat = linkDim s n ∧ dir ≠ linkDir s n then
      s.setLink n { k with st := .up, partner := chip, idPend := true, ident := linkIdent n s }
    else logErr .kl 0x0781 agColl (l.setWidth 48) (s.setLink n { k with st := .failed, partner := if ok then chip else k.partner }))

/-- R328, R329: put a packet on its next link: class 0 on entering or turning, class 1 over a wrap link. `from_` is the
link it arrived on. -/
def routePkt (from_ : Option Nat) (p : Pkt) (s : State) : State :=
  match nextLink s p.dst with
  | none => dropPkt p s
  | some l =>
    if (s.linkAt l).st ≠ .up then dropPkt p s
    else
      let chan := p.buf.toNat / 2
      let keep := match from_ with | none => false | some k => linkDim s k == linkDim s l && p.buf.toNat % 2 == 1
      let cls := if keep || isWrap s l then 1 else 0
      let k := s.linkAt l
      s.setLink l { k with txq := k.txq ++ [{ p with buf := BitVec.ofNat 3 (2 * chan + cls), stamp := s.now }] }

/-- R43: a packet crosses between the collective engine (end 0) and the link layer (end 1) under C2K. -/
def sendC2k (out : Bool) (p : Pkt) (s : State) : State :=
  sendX { cls := .c2k, src := b2n (!out), dst := b2n out, stamp := s.now, metered := p.metered, pay := .pkt out p } s

/-- R330: STAMP extended to the value within 32,768 ticks of the receiver's count. -/
def extendStamp (now : W64) (st : W16) : W64 := now + (st - fld now 0 16).signExtend 64

/-- The oldest packet of class `b` in link `k` that is whole, and the link without it. -/
def Link.takeRx (k : Link) (b : Nat) : Option (Pkt × Link) :=
  match k.rx.find? (fun p => p.buf.toNat == b) with
  | none => none
  | some p =>
    let last := ((k.rx.filter (fun q => q.buf.toNat == b)).length == 1)
    if last && 0 < kget 0 k.rxLeft b then none
    else some (p, { k with rx := k.rx.erase p })

-- Tick synchronisation (R335 to R341)
def clampI (lo hi x : Int) : Int := if x < lo then lo else if hi < x then hi else x

/-- A TICK frame's payload (Table 09.15). -/
def tickPayload (s : State) (reply : Bool) (t1 t2 t3 offm pcount : W64) : BitVec 1024 :=
  let b : BitVec 96 := (0 : BitVec 56) ++ BitVec.ofNat 8 (depthOf s) ++ BitVec.ofNat 8 (b2n (chipNo s = 0)) ++
    BitVec.ofNat 8 (b2n s.tk.locked) ++ BitVec.ofNat 8 (chipNo s) ++ BitVec.ofNat 8 (b2n reply)
  (pcount ++ offm ++ t3 ++ t2 ++ t1 ++ b : BitVec 416).setWidth 1024

/-- A TICK frame joins a link's queue. -/
def tickEnqueue (l : Nat) (p : BitVec 1024) (s : State) : State :=
  let k := s.linkAt l
  s.setLink l { k with tickq := k.tickq ++ [mkFrame (k.head 2 0 0 false 0) p] }

/-- R336: exchanges run. -/
def exchanging (s : State) : Bool := s.tk.syncEn || s.kl.acqBusy

/-- R336: the link over which a TICK REQ is due on this tick: one on each tick whose count modulo 2,048 is 0. -/
def tickReqDue (s : State) : Option Nat :=
  match parentLink s with
  | none => none
  | some l =>
    if exchanging s ∧ s.now.toNat % 2048 = 0 ∧ s.kl.reqAt ≠ some s.now ∧ (s.linkAt l).st = .up then some l else none

/-- R336: the TICK REQ leaves with transmit phase `phase`. -/
def tickReqSend (phase : BitVec 5) (l : Nat) (s : State) : State :=
  let t1 := (s.now <<< 5) + phase.setWidth 64
  let s := tickEnqueue l (tickPayload s false t1 0 0 0 0) s
  { s with kl := { s.kl with
    missed := if s.kl.t1.isSome then s.kl.missed + 1 else s.kl.missed, t1 := some t1, reqAt := some s.now } }

/-- TICK_REQ_SEND (R336): `phase` is the phase of the transmit stamp. -/
def execTickReqSend (phase : BitVec 5) (s : State) : Out :=
  done (match tickReqDue s with | none => s | some l => tickReqSend phase l s)

/-- R336: a TICK REQ that is due leaves with the tick; its phase is a free value. -/
def tickReqNow (s : State) : State :=
  match tickReqDue s with | none => s | some l => tickReqSend (BitVec.ofNat 5 (draw s).1) l (draw s).2

/-- TICK_REQ_RECEIVE (R336): a chip with SYNC_EN answers. -/
def execTickReqReceive (l : BitVec 4) (f : BitVec 1088) (t2 t3 : W64) (s : State) : Out :=
  done (if s.tk.syncEn ∧ frGood f ∧ fld (frHdr f) 30 2 = 2 ∧ fld (frPay f) 0 8 = 0 ∧ (s.linkAt l.toNat).st = .up then
    let offm : W64 := if chipNo s = 0 then 0 else BitVec.ofInt 64 s.kl.offm
    tickEnqueue l.toNat (tickPayload s true (fld (frPay f) 96 64) t2 t3 offm (t3 >>> 5)) s
  else s)

/-- R81, R338: LOCKED clears with an error of block `b`, and the tick interrupt is raised. -/
def lockLost (b : Blk) (code : W16) (s : State) : State :=
  if s.tk.locked then
    let s := { s with tk := { s.tk with locked := false, irq := true }, kl := { s.kl with good := 0, bad := 0 } }
    logErr b code agColl 0 s
  else s

/-- R336, R337: steer the PLL by an offset, and set LOCKED after 16 good exchanges. -/
def steer (offp offm : Int) (parLocked : Bool) (s : State) : State :=
  let acc := clampI (-1048576) 1048576 (s.kl.acc + offm)
  let ppm := clampI (-300) 300 ((40 * offm + 4 * acc).tdiv 32)
  let near := -48 ≤ offm ∧ offm ≤ 48
  let good := if near ∧ parLocked then s.kl.good + 1 else 0
  let bad := if near then 0 else s.kl.bad + 1
  let s := { s with
    kl := { s.kl with
      acc := acc, ppm := BitVec.ofInt 10 ppm, offp := offp, offm := offm, good := good, bad := bad, missed := 0, t1 := none }
    tk := { s.tk with
      offset := BitVec.ofInt 8 ((offm + 16) / 32), locked := s.tk.locked || (s.tk.syncEn && 16 ≤ good) } }
  -- R81: a drift of more than 3 ticks, as OFFM measures it (log entry 148)
  if offm < -96 ∨ 96 < offm then lockLost .tk 0x0281 s
  else if 4 ≤ bad ∨ !parLocked then lockLost .kl 0x0783 s else s

/-- R340: the load of an ACQUIRE: the counter takes the corrected value on the next tick. -/
def acquireLoad (v : W64) (s : State) : State :=
  { s with tk := { s.tk with load := v, pend := some v }, kl := { s.kl with acqBusy := false } }

/-- TICK_REPLY (R336, R337, R340). -/
def execTickReply (f : BitVec 1088) (t4 : W64) (s : State) : Out :=
  let p := frPay f
  let t1 := fld p 96 64
  let t2 := fld p 160 64
  let t3 := fld p 224 64
  let offp : Int := (((t2 - t1) - (t4 - t3)).toInt).tdiv 2
  let offm : Int := offp + (fld p 288 64).toInt
  let plock := bit p 16
  let pmast := bit p 24
  done (if exchanging s ∧ frGood f ∧ fld (frHdr f) 30 2 = 2 ∧ fld p 0 8 = 1 ∧ s.kl.t1 = some t1 then
    let s := { s with kl := { s.kl with heard := true, parLock := plock, parMaster := pmast } }
    let acq := s.kl.acqBusy
    let s := steer offp offm plock s
    if acq then
      if !plock && !pmast then setReason .kl 0x0704 { s with kl := { s.kl with acqBusy := false } }
      else acquireLoad (s.now + 1 + BitVec.ofInt 64 ((offm + 16) / 32)) s
    else s
  else s)

/-- TICK_REPLY_MISSING (R338, R340): 8 consecutive exchanges got no reply. -/
def execTickReplyMissing (s : State) : Out :=
  let overdue : Bool := match s.kl.t1 with | some t => ((t >>> 5) + 2048).ule s.now | none => false
  done (if exchanging s ∧ (8 ≤ s.kl.missed ∨ (7 ≤ s.kl.missed ∧ overdue)) then
    let s := { s with kl := { s.kl with missed := 0, t1 := none } }
    if s.kl.acqBusy then
      logErr .kl 0x0784 agColl 0 { s with kl := { s.kl with acqBusy := false } }
    else lockLost .kl 0x0784 s
  else s)

/-- Any owner's CTX_ENABLE reads 1. -/
def anyCtx (s : State) : Bool := s.sched.own.any (fun e => e.2.enable)

/-- R340: a write of ACQUIRE. -/
def acquire (s : State) : State :=
  checked .kl [(s.tk.syncEn || anyCtx s, 0x020B), (!parentUp s, 0x0704)]
    (fun s => { s with kl := { s.kl with acqBusy := true, missed := 0, t1 := none, inEdges := [] } }) s

/-- ACQUIRE (R340). -/
def execAcquire (s : State) : Out := done (acquire s)

/-- R341: the width of the SYNC_OUT pulse at count `c`. -/
def pulseWidth (c : W64) : Nat :=
  let k := (c >>> 13).toNat % 64
  let c0 := c >>> 19
  if k = 0 then 48 else if k ≤ 45 then (if bit c0 (k - 1) then 32 else 16) else 16

/-- R341: SYNC_OUT goes high on a multiple of 8,192. -/
def syncOutRise (s : State) : State :=
  if s.kl.syncOutEn ∧ s.now.toNat % 8192 = 0 then
    { s with kl := { s.kl with syncOut := true, syncOutEnd := s.now + BitVec.ofNat 64 (pulseWidth s.now) } }
  else s

/-- SYNC_OUT_PULSE (R341). -/
def execSyncOutPulse (s : State) : Out := done (syncOutRise s)

/-- SYNC_IN_EDGE (R341): a rising edge stamped `t`, taken as a reply. During ACQUIRE, the 64th edge ends the sequence; the
count it has spelled by its widths is a free value, since the step carries the edge alone. -/
def execSyncInEdge (t : W64) (s : State) : Out :=
  let d := (s.kl.syncDelay).setWidth 64
  let c := (((t - d).toNat + 131072) / 262144) * 8192
  let offm : Int := (BitVec.ofNat 64 (32 * c) + d - t).toInt
  done (if s.kl.src ∧ exchanging s then
    if s.kl.acqBusy then
      let es := t :: s.kl.inEdges
      if es.length = 64 then
        let r := draw { s with kl := { s.kl with inEdges := [] } }
        acquireLoad (BitVec.ofNat 64 r.1) r.2
      else { s with kl := { s.kl with inEdges := es } }
    else steer offm offm true s
  else s)

/-- The KL block's work of a new tick: SYNC_OUT falls at the end of its pulse, and rises for the next (R341). -/
def klTick (s : State) : State :=
  let s := if s.kl.syncOut && s.kl.syncOutEnd.ule s.now then { s with kl := { s.kl with syncOut := false } } else s
  syncOutRise s

-- Registers (Tables 09.12 to 09.14)
/-- The number of a link state. -/
def LinkSt.num : LinkSt → W32 | .off => 0 | .training => 1 | .up => 2 | .failed => 3

/-- The value of a register of link `l`. -/
def linkRead (l off : Nat) (s : State) : W32 :=
  let k := s.linkAt l
  if off = 0x00 then
    k.st.num ||| BitVec.ofNat 32 (linkDim s l * 0x100) ||| (b2w (linkDir s l) <<< 10) ||| (b2w (linkConn s l && isWrap s l) <<< 11) |||
    (k.partner.setWidth 32 <<< 16)
  else if off = 0x04 then k.fecUncorr ++ k.crcErr
  else if off = 0x08 then k.fecCorr
  else if off = 0x0C then k.naks ++ k.replays
  else if off = 0x10 ∨ off = 0x14 then
    if k.st = .up then
      leWord 32 ((List.range (if off = 0x10 then 4 else 2)).map (fun b => BitVec.ofNat 8 (k.credits (b + (if off = 0x10 then 0 else 4)))))
    else 0
  else if off = 0x18 then k.late.setWidth 32
  else 0

/-- The value a KL register holds. -/
def klRead (off : Nat) (s : State) : W32 :=
  let k := s.kl
  if off = 0x000 then k.enable.setWidth 32
  else if off = 0x004 then k.reason.setWidth 32
  else if off = 0x008 then b2w k.src ||| (b2w k.syncOutEn <<< 1)
  else if off = 0x00C then
    BitVec.ofNat 32 ((parentLink s).getD 0) ||| (b2w (parentLink s).isSome <<< 4) ||| BitVec.ofNat 32 (depthOf s * 0x100) |||
    (b2w k.acqBusy <<< 16)
  else if off = 0x010 then BitVec.ofInt 16 k.offm ++ BitVec.ofInt 16 k.offp
  else if off = 0x014 then k.syncDelay.setWidth 32
  else if off = 0x018 then k.ppm.setWidth 32
  else if 0x020 ≤ off ∧ off ≤ 0x028 then errWord k.errlog ((off - 0x020) / 4)
  else if off = 0x030 then
    let c := chipNo s
    BitVec.ofNat 32 (c + coord s c 0 * 0x100 + coord s c 1 * 0x1000 + coord s c 2 * 0x10000)
  else if 0x100 ≤ off ∧ off < 0x300 then linkRead ((off - 0x100) / 0x20) (off % 0x20) s
  else if 0x400 ≤ off ∧ off < 0x800 then
    match nextLink s ((off - 0x400) / 4) with | some l => if mapValid s then BitVec.ofNat 32 (l + 16) else 0 | none => 0
  else 0

/-- What a read of a KL register clears. -/
def klClear (off : Nat) (s : State) : State :=
  if 0x100 ≤ off ∧ off < 0x300 then
    let l := (off - 0x100) / 0x20
    let k := s.linkAt l
    let o := off % 0x20
    if o = 0x04 then s.setLink l { k with crcErr := 0, fecUncorr := 0 }
    else if o = 0x08 then s.setLink l { k with fecCorr := 0 }
    else if o = 0x0C then s.setLink l { k with replays := 0, naks := 0 }
    else if o = 0x18 then s.setLink l { k with late := 0 }
    else s
  else s

/-- A write of a KL register; SRC is locked under TICK_CTRL.SYNC_EN. -/
def klWrite (off : Nat) (v : W32) (s : State) : State :=
  if off = 0x000 then klEnable (fld v 0 16) s
  else if off = 0x008 then
    let s := { s with kl := { s.kl with src := if s.tk.syncEn then s.kl.src else bit v 0, syncOutEn := bit v 1 } }
    if bit v 2 then acquire s else s
  else if off = 0x014 then { s with kl := { s.kl with syncDelay := fld v 0 16 } }
  else s

end Sys2Proof.Machine
end

