-- ==== Sys2Proof/Machine/Madder.lean ====
section
/-!
DEFINITION. Madder: sources, health tests, the conditioner, the DRBG instances and the software ports (chapter 08).
-/
namespace Sys2Proof.Machine

def State.srcAt (s : State) (n : Nat) : Src := kget {} s.mad.src n
def State.setSrc (s : State) (n : Nat) (x : Src) : State := { s with mad := { s.mad with src := kset {} s.mad.src n x } }
def State.instAt (s : State) (i : Nat) : Drbg := kget {} s.mad.inst i
def State.setInst (s : State) (i : Nat) (x : Drbg) : State := { s with mad := { s.mad with inst := kset {} s.mad.inst i x } }

/-- The healthy sources, ascending (R280). -/
def healthyList (s : State) : List Nat := (List.range 4).filter (fun n => (s.srcAt n).healthy)

/-- A source begins its start-up test (R284); its counters stay. -/
def Src.begin (x : Src) : Src :=
  { rctFails := x.rctFails, aptFails := x.aptFails, startFails := x.startFails, consec := x.consec, aptLast := x.aptLast,
    on := true, starting := true }

/-- A source restarts (R285). -/
def Src.restart (x : Src) : Src :=
  { rctFails := x.rctFails, aptFails := x.aptFails, startFails := x.startFails, consec := x.consec, aptLast := x.aptLast,
    on := true, restarting := true }

/-- R280, R281, R291: Madder after power-on reset, or after the host domain wakes: every enabled source starts, and the five
instances wait for their instantiation, LEN taken as 0; the conditioner's register stays. -/
def madStart (s : State) : State :=
  let m : Mad := { s := s.mad.s }
  { s with mad := { m with
    started := true
    src := (List.range 4).foldl (fun k n => if bit m.srcEn n then kset {} k n (Src.begin {}) else k) []
    inst := (List.range 5).foldl (fun k i => kset {} k i { need := 3, isInst := true }) [] } }

/-- R288: the fatal alarm. -/
def fatalAlarm (s : State) : State :=
  if s.mad.fatal then s else logErr .mad 0x0882 agMad 0 { s with mad := { s.mad with fatal := true } }

/-- R287: fewer than two healthy sources, after two have been healthy together. -/
def fatalCheck (s : State) : State :=
  if s.mad.two && (healthyList s).length < 2 then fatalAlarm s else s

/-- R285: a test of source `n` fails. -/
def sourceFail (n : Nat) (code : W16) (s : State) : State :=
  let x := s.srcAt n
  let cs := x.consec + (if x.consec = 7 then 0 else 1)
  let s := s.setSrc n ({ x with consec := cs }.restart)
  let s := { s with mad := { s.mad with
    cnt := 0, discards := satInc s.mad.discards,
    src := s.mad.src.map (fun e => (e.1, { e.2 with contrib := 0 })) } }
  let s := logErr .mad code agMad (BitVec.ofNat 48 n) s
  fatalCheck (if 4 ≤ cs.toNat then fatalAlarm s else s)

/-- R281: the conditioner's register absorbs a bit. -/
def absorb (r : BitVec 256) (b : Bool) : BitVec 256 :=
  let fb := (((bit r 255 ^^ bit r 253) ^^ bit r 250) ^^ bit r 245) ^^ b
  (r <<< 1) ||| b2w fb

/-- R281, R282: the bit of a healthy source enters the conditioner in its turn. -/
def condition (n : Nat) (b : Bool) (s : State) : State :=
  let rota := (if s.mad.rota.isEmpty then healthyList s else s.mad.rota.filter (fun k => (s.srcAt k).healthy))
  let rota := if rota.isEmpty then healthyList s else rota
  if s.mad.fatal || rota.head? ≠ some n then s
  else
    let s := s.setSrc n { s.srcAt n with contrib := (s.srcAt n).contrib + 1 }
    let s := { s with mad := { s.mad with s := absorb s.mad.s b, cnt := s.mad.cnt + 1, rota := rota.tail } }
    if s.mad.cnt = 1024 then
      { s with mad := { s.mad with
        cnt := 0
        offer := some (s.mad.s, s.mad.src.filterMap (fun e => if e.2.contrib = 0 then none else some (e.1, e.2.contrib)))
        src := s.mad.src.map (fun e => (e.1, { e.2 with contrib := 0 })) } }
    else s

/-- R283: what the two tests make of a bit: the source, and whether the repetition and the proportion test fail. -/
def Src.test (x : Src) (b : Bool) : Src × Bool × Bool :=
  let run := if 0 < x.runLen ∧ x.last = b then x.runLen + 1 else 1
  let first := if x.winPos = 0 then b else x.winFirst
  let cnt := (if x.winPos = 0 then 0 else x.winCnt) + b2n (b == first)
  let fin := x.winPos + 1 = 1024
  ({ x with
      last := b, runLen := run, winFirst := first, winCnt := cnt,
      winPos := if fin then 0 else x.winPos + 1, aptLast := if fin then BitVec.ofNat 11 cnt else x.aptLast },
    61 ≤ run, 840 ≤ cnt)

/-- RAW_BIT (R281 to R285). -/
def rawBit (n : Nat) (b : Bool) (s : State) : State :=
  let x := s.srcAt n
  if !x.on || x.restarting then s
  else if x.starting then
    if 1024 ≤ x.seen then s else
    let t := x.test b
    s.setSrc n { t.1 with seen := x.seen + 1, bad := x.bad || t.2.1 || t.2.2 }
  else
    let t := x.test b
    let s := s.setSrc n t.1
    if t.2.1 then sourceFail n 0x0880 (s.setSrc n { t.1 with rctFails := satInc x.rctFails })
    else if t.2.2 then sourceFail n 0x0881 (s.setSrc n { t.1 with aptFails := satInc x.aptFails })
    else condition n b s

/-- RAW_BIT (R281). -/
def execRawBit (n : BitVec 2) (b : Bool) (s : State) : Out := done (rawBit n.toNat b s)

/-- STARTUP_TEST_DONE (R284, R285). -/
def execStartupTestDone (n : BitVec 2) (s : State) : Out :=
  let x := s.srcAt n.toNat
  done (if x.starting ∧ x.seen = 1024 then
    if x.bad then sourceFail n.toNat 0x0883 (s.setSrc n.toNat { x with startFails := satInc x.startFails })
    else
      let s := s.setSrc n.toNat { x with starting := false, healthy := true }
      { s with mad := { s.mad with two := s.mad.two || 2 ≤ (healthyList s).length } }
  else s)

/-- SOURCE_RESTART_DONE (R285): a start-up test begins, or a source that SRC_EN disables stays off. -/
def execSourceRestartDone (n : BitVec 2) (s : State) : Out :=
  let x := s.srcAt n.toNat
  done (if x.restarting then
    s.setSrc n.toNat (if bit s.mad.srcEn n.toNat then x.begin else { x with restarting := false, on := false })
  else s)

/-- FATAL_STARTUP_TIMEOUT (R287): two sources have not been healthy together within 1.0 ms. -/
def execFatalStartupTimeout (s : State) : Out :=
  done (if s.mad.started ∧ !s.mad.two then fatalAlarm s else s)

/-- R288: a write of CLEAR_FATAL. -/
def clearFatal (s : State) : State :=
  { s with mad := { s.mad with
    fatal := false, two := false, started := true
    src := (List.range 4).foldl (fun k n =>
      let x := { kget {} k n with consec := 0 }
      kset {} k n (if bit s.mad.srcEn n then x.restart
        else { x with on := false, restarting := false, starting := false, healthy := false })) s.mad.src } }

/-- CLEAR_FATAL (R288). -/
def execClearFatal (s : State) : Out := done (clearFatal s)

-- DRBG instances
/-- An operation waits or runs (R292). -/
def Drbg.busy (d : Drbg) : Bool := d.need != 0 || d.full
/-- The instance has received some of the blocks of its operation. -/
def Drbg.begun (d : Drbg) : Bool := d.need != 0 && d.need < (if d.isInst then 3 else 2)

/-- R292: the instance that receives the next block. -/
def nextInst (s : State) : Option Nat :=
  match (List.range 5).find? (fun i => (s.instAt i).begun) with
  | some i => some i
  | none => (List.range 5).find? (fun i => (s.instAt i).need != 0)

/-- BLOCK_OFFERED (R286, R292). -/
def blockOffered (s : State) : State :=
  match s.mad.offer with
  | none => s
  | some (b, c) =>
    let s := { s with mad := { s.mad with offer := none } }
    match nextInst s with
    | none => s
    | some i =>
      let d := s.instAt i
      let s := s.setInst i { d with need := d.need - 1, full := d.need = 1, blocks := d.blocks ++ [b] }
      { s with mad := { s.mad with
        blocks := s.mad.blocks + 1
        src := s.mad.src.map (fun e => (e.1, if 256 ≤ kget 0 c e.1 then { e.2 with consec := 0 } else e.2)) } }

/-- BLOCK_OFFERED (R292). -/
def execBlockOffered (s : State) : Out := done (blockOffered s)

/-- R290: the LEN bytes of INST_INPUT0 upwards, low byte first. -/
def Drbg.bytes (d : Drbg) : List Byte :=
  (List.range d.len.toNat).map (fun k => fld (kget 0 d.input (k / 4)) (8 * (k % 4)) 8)

/-- R290, R292: an operation waits for `n` blocks. -/
def Drbg.begin (d : Drbg) (n : Nat) (inst : Bool) : Drbg :=
  { d with need := n, isInst := inst, blocks := [], extra := d.bytes }

/-- R293: the check of an operation of instance `i`, which then waits for `n` blocks. -/
def drbgOp (i n : Nat) (inst : Bool) (s : State) : State :=
  let d := s.instAt i
  checked .mad [(48 < d.len.toNat, 0x0803), (d.busy, 0x0804)] (fun s => s.setInst i (d.begin n inst)) s

/-- INSTANTIATE (R290, R291). -/
def execInstantiate (i : BitVec 3) (s : State) : Out := done (if i.toNat < 5 then drbgOp i.toNat 3 true s else s)
/-- RESEED (R290, R291). -/
def execReseed (i : BitVec 3) (s : State) : Out := done (if i.toNat < 5 then drbgOp i.toNat 2 false s else s)

/-- AUTO_RESEED (R291): after 2^16 generate requests; not during the fatal alarm (R294). -/
def execAutoReseed (i : BitVec 3) (s : State) : Out :=
  let d := s.instAt i.toNat
  done (if i.toNat < 5 ∧ d.ready ∧ !d.busy ∧ 65536 ≤ d.reqs.toNat ∧ !s.mad.fatal then
    s.setInst i.toNat (d.begin 2 false) else s)

/-- R289, R290: the working state after the operation: two blocks of entropy, s[255] first, and for an instantiation bits
[255:128] of the third block as the nonce. -/
def Drbg.next (d : Drbg) : CtrState :=
  let b := fun (k : Nat) => beBytes 32 (d.blocks.getD k 0)
  if d.isInst then ctrInstantiate (b 0 ++ b 1) ((b 2).take 16) d.extra else ctrReseed (b 0 ++ b 1) d.extra d.st

/-- R294: one generate request is counted; at 2^48 the instance stops. -/
def countGenerate (i : Nat) (s : State) : State :=
  let d := s.instAt i
  s.setInst i (if d.reqs = BitVec.allOnes 48 then { d with stopped := true } else { d with reqs := d.reqs + 1 })

/-- R289: one generate request of instance `i`: 64 bytes. -/
def generate (i : Nat) (s : State) : List Byte × State :=
  let r := ctrGenerate (s.instAt i).st
  let s := countGenerate i s
  (r.1, s.setInst i { s.instAt i with st := r.2 })

/-- R289: at power-on, CIPHER gives each cipher engine a wrapping key of 16 bytes (log entry 155). -/
def wrapKeys (s : State) : State :=
  if s.mad.wrap.isEmpty then
    let (bs, s) := generate 0 s
    { s with mad := { s.mad with wrap := (List.range 4).map (fun k => (bs.drop (16 * k)).take 16) } }
  else s

/-- DRBG_OPERATION_DONE (R290, R292): the instance serves again, its request count at 0. -/
def execDrbgOperationDone (i : BitVec 3) (s : State) : Out :=
  let d := s.instAt i.toNat
  done (if d.full then
    let s := s.setInst i.toNat { d with
      full := false, ready := true, reqs := 0, stopped := false, st := d.next, blocks := [], extra := [] }
    if i = 0 then wrapKeys s else s
  else s)

/-- R291, R292, R294: instance `i` serves a generate request now. -/
def canGenerate (i : Nat) (s : State) : Bool :=
  let d := s.instAt i
  d.ready && !d.busy && !d.stopped && (if s.mad.fatal then i < 2 else d.reqs.toNat < 65536)

/-- CIPHER_MASK_REFRESH (R289). -/
def execCipherMaskRefresh (s : State) : Out :=
  done (if canGenerate 0 s then
    let (bs, s) := generate 0 s
    { s with mad := { s.mad with masks := s.mad.masks + 1, mask := bs } }
  else s)

/-- R289: generate 64 bytes of instance `i` and hold them as keys or words of `k` bytes, the most significant byte first (log
entry 138). -/
def hold (i k : Nat) (s : State) : State :=
  let (bs, s) := generate i s
  s.setInst i { s.instAt i with
    out := (s.instAt i).out ++ (List.range (64 / k)).map (fun j => leWord 64 ((bs.drop (k * j)).take k).reverse) }

/-- SW_PORT_GENERATE (R295). -/
def execSwPortGenerate (host : Bool) (s : State) : Out :=
  let i := if host then 4 else 3
  done (if (s.instAt i).out.isEmpty && canGenerate i s then hold i 4 s else s)

/-- The oldest word or key of instance `i`. -/
def takeOut (i : Nat) (s : State) : Option (W64 × State) :=
  match (s.instAt i).out with
  | [] => none
  | w :: ws => some (w, s.setInst i { s.instAt i with out := ws })

/-- The address of the DATA register of a software port. -/
def swAddr (host : Bool) : BitVec 48 := if host then 0x030000B00310 else 0x030000B00300

/-- R295, R296: a read of a DATA register by `ag`; none: an error response. -/
def swRead (host : Bool) (ag : Agent) (s : State) : Option W32 × State :=
  if (if host then ag == agHost else 0x100 ≤ ag.toNat && ag.toNat < 0x108) then
    match takeOut (if host then 4 else 3) s with
    | some (w, s) => (some (fld w 0 32), s)
    | none =>
      let s := { s with mad := if host then { s.mad with hostUnder := true } else { s.mad with sepUnder := true } }
      (some 0, logErr .mad 0x0884 ag (swAddr host) s)
  else (none, logErr .mad 0x0885 ag (swAddr host) s)

/-- The answer of a read of a DATA register. -/
def swData (host : Bool) (ag : Agent) (s : State) : State :=
  match swRead host ag s with
  | (some w, s) => ans ag .ok (w.setWidth 512) s
  | (none, s) => errRsp ag s

/-- SW_SEPIA_DATA (R295, R296). -/
def execSwSepiaData (ag : Agent) (s : State) : Out := done (swData false ag s)
/-- SW_HOST_DATA (R295, R296). -/
def execSwHostData (ag : Agent) (s : State) : Out := done (swData true ag s)

-- Registers (Tables 08.6 to 08.9)
/-- A bit per source. -/
def srcBits (s : State) (f : Src → Bool) : W32 :=
  (List.range 4).foldl (fun w n => if f (s.srcAt n) then setBit w n true else w) 0

/-- The value a MAD register holds; the DATA registers of the software ports are read by `swData`. -/
def madRead (off : Nat) (s : State) : W32 :=
  let m := s.mad
  if off = 0x000 then m.srcEn.setWidth 32
  else if off = 0x004 then
    srcBits s Src.healthy ||| (srcBits s (fun x => x.restarting || x.starting) <<< 4) ||| (b2w m.fatal <<< 8)
  else if off = 0x008 then m.reason.setWidth 32
  else if 0x010 ≤ off ∧ off ≤ 0x018 then errWord m.errlog ((off - 0x010) / 4)
  else if off = 0x020 then m.blocks
  else if off = 0x024 then m.discards
  else if 0x040 ≤ off ∧ off < 0x080 then
    let x := s.srcAt ((off - 0x040) / 0x10)
    match off % 0x10 with
    | 0x0 => x.aptFails ++ x.rctFails
    | 0x4 => x.startFails.setWidth 32
    | 0x8 => x.consec.setWidth 32
    | 0xC => x.aptLast.setWidth 32
    | _ => 0
  else if 0x100 ≤ off ∧ off < 0x240 then
    let d := s.instAt ((off - 0x100) / 0x40)
    let o := (off - 0x100) % 0x40
    if o = 0x00 then d.len.setWidth 32 <<< 8
    else if o = 0x04 then b2w d.ready ||| (b2w d.busy <<< 1) ||| (b2w d.stopped <<< 2)
    else if o = 0x08 ∨ o = 0x0C then half (o = 0x0C) (d.reqs.setWidth 64)
    else kget 0 d.input ((o - 0x10) / 4)
  else if off = 0x304 then BitVec.ofNat 32 (s.instAt 3).out.length ||| (b2w m.sepUnder <<< 8)
  else if off = 0x314 then BitVec.ofNat 32 (s.instAt 4).out.length ||| (b2w m.hostUnder <<< 8)
  else 0

/-- What a read of a MAD register clears. -/
def madClear (off : Nat) (s : State) : State :=
  if off = 0x024 then { s with mad := { s.mad with discards := 0 } }
  else if 0x040 ≤ off ∧ off < 0x080 then
    let n := (off - 0x040) / 0x10
    let x := s.srcAt n
    if off % 0x10 = 0 then s.setSrc n { x with aptFails := 0, rctFails := 0 }
    else if off % 0x10 = 4 then s.setSrc n { x with startFails := 0 }
    else s
  else s

/-- A write of a MAD register. -/
def madWrite (off : Nat) (v : W32) (s : State) : State :=
  if off = 0x000 then
    let s := { s with mad := { s.mad with srcEn := fld v 0 4 } }
    if bit v 8 then clearFatal s else s
  else if 0x100 ≤ off ∧ off < 0x240 then
    let i := (off - 0x100) / 0x40
    let o := (off - 0x100) % 0x40
    if o = 0x00 then
      let s := s.setInst i { s.instAt i with len := fld v 8 6 }
      let s := if bit v 0 then drbgOp i 3 true s else s
      if bit v 1 then drbgOp i 2 false s else s
    else if 0x10 ≤ o then s.setInst i { s.instAt i with input := kset 0 (s.instAt i).input ((o - 0x10) / 4) v }
    else s
  else if off = 0x304 then (if bit v 8 then { s with mad := { s.mad with sepUnder := false } } else s)
  else if off = 0x314 then (if bit v 8 then { s with mad := { s.mad with hostUnder := false } } else s)
  else s

end Sys2Proof.Machine
end

