-- ==== Sys2Proof/Machine/Flags.lean ====
section
/-!
DEFINITION. The interrupt lines: when a source of Table 11.5 or a cause of Table 17.4 is active. A line raised by "any logged
error" of a block is active while that block's ERRLOG holds a code (log entry 29).
-/
namespace Sys2Proof.Machine

/-- An ERRLOG holds a code. -/
def ErrLog.any (e : ErrLog) : Bool := e.code != 0

/-- Source VTERM (R546). -/
def vtermActive (s : State) : Bool :=
  (s.dbg.vtRx.isSome && bit s.dbg.vtIrq 1) || (s.dbg.vtTx.isNone && bit s.dbg.vtIrq 0)

/-- Source DEBUG (R546), without the bits of core `c`. -/
def debugActive (s : State) (c : Option Nat) : Bool :=
  (List.range 8).any (fun i => some i != c && ((s.dcoreAt i).halted || (s.dcoreAt i).inMon)) || s.dbg.qbrkHit || s.dbg.qwHit

/-- Source VEL_CFG: configuration errors and SCRUB_FAULT (chapter 13). A configuration error raises it also while ERRLOG holds
an earlier error (R624); a read of CODE lowers it (log entry 162). -/
def velCfgActive (s : State) : Bool := s.vel.scrubFault || s.vel.cfgRaised

/-- The sources TRIP and TICK to GLB of Table 11.5, which the state shows; the lines PLANT0 to PLANT15 are the fabric's. -/
def srcActive (s : State) (n : Nat) : Bool :=
  match n with
  | 0 => s.tripActive
  | 17 => s.tk.irq
  | 18 => s.mad.fatal
  | 19 => debugActive s none
  | 20 => vtermActive s
  | 21 => velCfgActive s
  | 22 => s.kl.errlog.any
  | 23 => s.ink.errlog.any
  | 24 => s.sched.errlog.any
  | 25 => s.coll.errlog.any
  | 26 => s.pq.any (fun e => e.2.errlog.any)
  | 27 => s.pwr.overLimit || s.pwr.tjWarn
  | 28 => s.glb.errlog.any
  | n => decide (1 ≤ n ∧ n ≤ 16) && plantLine s (n - 1)

/-- Table 17.4: the cause of vector 65 + `k` is active. -/
def causeActive (s : State) (k : Nat) : Bool :=
  match k with
  | 0 => s.sep.down
  | 1 => srcActive s 0
  | 2 => (List.range 16).any (plantLine s)
  | k => srcActive s (14 + k)

end Sys2Proof.Machine
end

