-- ==== Sys2Proof/Machine/SepiaBus.lean ====
section
/-!
DEFINITION. The Sepia bus: control SRAM and boot flash by lines, the snoop filter, the MSI protocol, atomics at memory, and
the domain-down sequence (R379 to R393, R399 to R402, R542).
-/
namespace Sys2Proof.Machine

/-- The first line number of control SRAM and of boot flash (Table 17.5), and the lines of each. -/
def sramLine0 : Nat := 0x020000000000 / 64
def bflLine0 : Nat := 0x020010000000 / 64
def isSramLine (n : Nat) : Bool := sramLine0 ≤ n && n < sramLine0 + 0x10000
def isBflLine (n : Nat) : Bool := bflLine0 ≤ n && n < bflLine0 + 0x10000

/-- R542: the enabled patch unit of lowest number that maps the 32-byte boot-flash word `w`. -/
def patchOf (s : State) (w : Nat) : Option Nat :=
  (List.range 16).find? (fun n =>
    bit (kget 0 s.dbg.patch n) 31 && (fld (kget 0 s.dbg.patch n) 5 17).toNat = w)

/-- R542, R488: the 32 bytes of boot-flash word `w` as every bus read sees them, and the error code of a bad word. -/
def bflWord (s : State) (w : Nat) : BitVec 256 × Option (Blk × W16) :=
  match patchOf s w with
  | some n =>
    (leWord 256 ((kread 0 s.dbg.patchRam (8 * n) 8).flatMap (wordBytes 4)),
      if kget false s.dbg.patchBad n then some (.dbg, 0x0B83) else none)
  | none =>
    (leWord 256 (kread 0xFF s.sep.bfl.mem (32 * w) 32),
      if (List.range 4).any (fun i => s.sep.bfl.bad (32 * w + 8 * i)) then some (.vel, 0x0985) else none)

/-- A line of memory: its data, and the error a read of it meets (R381, R488, R544). -/
def memLine (s : State) (n : Nat) : BitVec 512 × Option (Blk × W16) :=
  if isSramLine n then
    let k := n - sramLine0
    (leWord 512 (kread 0 s.sep.sram (64 * k) 64),
      if (List.range 8).any (fun i => kget false s.sep.sramBad (8 * k + i)) then some (.sep, 0x0D82) else none)
  else
    let k := n - bflLine0
    let a := bflWord s (2 * k)
    let b := bflWord s (2 * k + 1)
    (b.1 ++ a.1, if a.2.isSome then a.2 else b.2)

/-- Memory takes a line of control SRAM. -/
def putLine (n : Nat) (d : BitVec 512) (s : State) : State :=
  if isSramLine n then
    { s with sep := { s.sep with
      sram := kbytes 0 s.sep.sram (64 * (n - sramLine0)) (wordBytes 64 d)
      sramBad := kfilter (fun w _ => w / 8 != n - sramLine0) s.sep.sramBad } }
  else s

/-- R381: memory takes the bytes of `mask` of a line, merged into `d`; an uncorrectable word of which some byte is not written stays
so (log entry 172). -/
def putMerged (n : Nat) (mask : W64) (d : BitVec 512) (s : State) : State :=
  let bad := fun (w : Nat) => kget false s.sep.sramBad (8 * (n - sramLine0) + w) && fld mask (8 * w) 8 != 0xFF
  let t := putLine n d s
  { t with sep := { t.sep with sramBad := (List.range 8).foldl (fun m w =>
      if isSramLine n && bad w then kset false m (8 * (n - sramLine0) + w) true else m) t.sep.sramBad } }

/-- The address of a line. -/
def lineAddr (n : Nat) : BitVec 48 := BitVec.ofNat 48 (64 * n)

-- Caches
/-- A line of a set, moved to the front as most recently used. -/
def setHit {α : Type} (n : Nat) (l : List (Nat × α)) : Option (α × List (Nat × α)) :=
  match l.find? (fun e => e.1 == n) with
  | none => none
  | some e => some (e.2, e :: l.filter (fun x => x.1 != n))

/-- R379: the set of a line. -/
def setOf (n : Nat) : Nat := n % 128

def Core.dLine (c : Core) (n : Nat) : Option DLine := (setHit n (kget [] c.dc (setOf n))).map (·.1)
/-- Put a line of the data cache as most recently used. -/
def Core.putD (c : Core) (n : Nat) (d : DLine) : Core :=
  { c with dc := kset [] c.dc (setOf n) ((n, d) :: (kget [] c.dc (setOf n)).filter (fun x => x.1 != n)) }
/-- Remove a line; losing the reserved line clears the reservation (R392). -/
def Core.dropD (c : Core) (n : Nat) : Core :=
  { c with
    dc := kset [] c.dc (setOf n) ((kget [] c.dc (setOf n)).filter (fun x => x.1 != n))
    resv := if c.resv = some n then none else c.resv
    defer := if c.resv = some n then false else c.defer }
/-- Put a line of the instruction cache, its parity bits right. -/
def Core.putI (c : Core) (n : Nat) (d : BitVec 512) : Core :=
  { c with
    ic := kset [] c.ic (setOf n) (((n, d) :: (kget [] c.ic (setOf n)).filter (fun x => x.1 != n)).take 4)
    icBad := kfilter (fun w _ => w / 16 != n) c.icBad }
/-- Invalidate a line of the instruction cache. -/
def Core.dropI (c : Core) (n : Nat) : Core :=
  { c with
    ic := kset [] c.ic (setOf n) ((kget [] c.ic (setOf n)).filter (fun x => x.1 != n))
    icBad := kfilter (fun w _ => w / 16 != n) c.icBad }

-- The snoop filter
/-- R386: core `c`'s state of line `n` in the filter: true for M. -/
def filtOf (s : State) (n c : Nat) : Option Bool := kfind s.sep.filt (8 * n + c)
def setFilt (n c : Nat) (v : Option Bool) (s : State) : State :=
  { s with sep := { s.sep with filt := match v with
    | none => kdel s.sep.filt (8 * n + c)
    | some m => kput s.sep.filt (8 * n + c) m } }
/-- The holders of a line other than core `me`. -/
def holders (s : State) (n : Nat) (me : Nat) : List Nat :=
  (List.range 8).filter (fun c => c != me && (filtOf s n c).isSome)

/-- The port of an agent (R382). -/
def portOf (ag : Agent) : Nat :=
  if 0x100 ≤ ag.toNat ∧ ag.toNat < 0x108 then ag.toNat - 0x100 else if ag = agVel then 9 else 8

/-- A request is posted at its agent's port, once. -/
def busPost (r : BusReq) (s : State) : State :=
  let p := portOf r.ag
  let q := kget [] s.sep.port p
  if q.contains r || s.sep.cur = some r then s
  else { s with sep := { s.sep with port := kset [] s.sep.port p (q ++ [r]) } }

/-- Withdraw the requests of core `c` for line `n` that satisfy `p`. -/
def busWithdraw (c n : Nat) (p : BusOp → Bool) (s : State) : State :=
  let q := (kget [] s.sep.port c).filter (fun r => !(r.line == n && p r.op))
  { s with sep := { s.sep with port := kset [] s.sep.port c q } }

-- Domain down (R399, R400)
/-- The requests of ports 8 and 9 that have not been answered. -/
def portsWaiting (s : State) : List BusReq :=
  kget [] s.sep.port 8 ++ kget [] s.sep.port 9 ++
    (match s.sep.cur with | some r => if 8 ≤ portOf r.ag then [r] else [] | none => [])

/-- R400, steps 3 and 4: they get an error response, with 0x0D85 logged. -/
def portsFail (rs : List BusReq) (s : State) : State :=
  rs.foldl (fun s r => respond r.ag true 0 (logErr .sep 0x0D85 r.ag (lineAddr r.line) s)) s

/-- The steps of Table 11.7. -/
def domainDown (cause : BitVec 2) (code : W16) (ag : Agent) (addr : BitVec 48) (s : State) : State :=
  portsFail (portsWaiting s) (logErr .sep code ag addr { s with sep := { s.sep with
    down := true, cause := cause, agent := ag, poisoned := true, port := [], cur := none } })

/-- R388, R391: a holder in M writes the whole line back, from its cache or its write-back buffer; a line with an
uncorrectable word goes out poisoned and takes the domain down (R399). The holder then has state `keep`. -/
def crossWb (n c : Nat) (keep : Option Bool) (s : State) : State :=
  let core := s.coreAt c
  match core.dLine n with
  | some d =>
    let s := if d.m then putLine n d.data s else s
    let s := match keep with
      | none => setFilt n c none (s.setCore c (core.dropD n))
      | some m => setFilt n c (some m) (s.setCore c (core.putD n { d with m := m }))
    if d.m && d.bad then domainDown 2 0x0D81 (agCore c) (lineAddr n) s else s
  | none =>
    match core.wbuf.find? (fun e => e.1 == n) with
    | some e =>
      let s := putLine n e.2.data s
      let s := s.setCore c { core with wbuf := core.wbuf.filter (fun x => x.1 != n) }
      let s := busWithdraw c n (fun op => op == .wb) (setFilt n c none s)
      if e.2.bad then domainDown 2 0x0D81 (agCore c) (lineAddr n) s else s
    | none => setFilt n c none s

/-- R393: a holder defers this snoop. -/
def defers (s : State) (n : Nat) (cs : List Nat) : Bool :=
  cs.any (fun c => (s.coreAt c).defer && (s.coreAt c).resv == some n)

/-- Snoop the holders `cs` of a line: each goes to `keep` of its state. -/
def snoopAll (n : Nat) (keep : Bool → Option Bool) : List Nat → State → State
  | [], s => s
  | c :: cs, s =>
    match filtOf s n c with
    | none => snoopAll n keep cs s
    | some m => snoopAll n keep cs (crossWb n c (keep m) s)

/-- An error response to the request: a core's request raises the access fault of its fetch or load (R381). -/
def busErrRsp (r : BusReq) (s : State) : State :=
  let c := portOf r.ag
  if c < 8 then s.setCore c { s.coreAt c with busErr := some r.line } else respond r.ag true 0 s

/-- Fill the requester's data cache. -/
def fillD (c n : Nat) (m : Bool) (r : BusReq) (s : State) : State :=
  let x := memLine s n
  match x.2 with
  | some (b, code) => busErrRsp r (logErr b code r.ag (lineAddr n) s)
  | none => setFilt n c (some m) (s.setCore c ((s.coreAt c).putD n { m := m, data := x.1 }))

/-- BusRd (Table 11.4, R388). -/
def doBusRd (r : BusReq) (s : State) : State :=
  let c := portOf r.ag
  let s := snoopAll r.line (fun _ => some false) (holders s r.line c) s
  if s.sep.down then s else fillD c r.line false r s

/-- BusRdX (Table 11.4). -/
def doBusRdX (r : BusReq) (s : State) : State :=
  let c := portOf r.ag
  let s := snoopAll r.line (fun _ => none) (holders s r.line c) s
  if s.sep.down then s else fillD c r.line true r s

/-- BusUpgr, or a BusRdX where the filter no longer lists the core (R387). -/
def doBusUpgr (r : BusReq) (s : State) : State :=
  let c := portOf r.ag
  match filtOf s r.line c, (s.coreAt c).dLine r.line with
  | some _, some d =>
    let s := snoopAll r.line (fun _ => none) (holders s r.line c) s
    setFilt r.line c (some true) (s.setCore c ((s.coreAt c).putD r.line { d with m := true }))
  | _, _ => doBusRdX r s

/-- NRd (R389): a core's instruction fill, or a read by an agent without a cache. -/
def doNrd (r : BusReq) (s : State) : State :=
  let c := portOf r.ag
  let s := snoopAll r.line (fun m => some m) (holders s r.line 8) s
  if s.sep.down then s
  else
    let x := memLine s r.line
    match x.2 with
    | some (b, code) => busErrRsp r (logErr b code r.ag (lineAddr r.line) s)
    | none =>
      if c < 8 then s.setCore c ((s.coreAt c).putI r.line x.1)
      else match (if r.ag = agVel then s.vel.mst else none) with
        | some m => respond agVel false (fld x.1 (8 * (m.a.toNat % 64)) 32) s
        | none => ans r.ag .ok x.1 s

/-- Merge the bytes of `mask` of `d` into `x`. -/
def mergeBytes (x : BitVec 512) (mask : W64) (d : BitVec 512) : BitVec 512 :=
  leWord 512 ((List.range 64).map (fun i => if bit mask i then fld d (8 * i) 8 else fld x (8 * i) 8))

/-- NWr (R390); a write to boot flash gets a bus error (R377). -/
def doNwr (r : BusReq) (mask : W64) (d : BitVec 512) (s : State) : State :=
  if isSramLine r.line then
    let s := snoopAll r.line (fun _ => none) (holders s r.line 8) s
    if s.sep.down then s
    else respond r.ag false 0 (putMerged r.line mask (mergeBytes (memLine s r.line).1 mask d) s)
  else busErrRsp r (logErr .sep 0x0D84 r.ag (lineAddr r.line) s)

/-- The RISC-V AMO of funct5 `op`: SWAP 1, ADD 0, XOR 4, AND 12, OR 8, MIN 16, MAX 20, MINU 24, MAXU 28. -/
def amoOp (op : BitVec 5) (old v : W32) : W32 :=
  if op = 0 then old + v
  else if op = 1 then v
  else if op = 4 then old ^^^ v
  else if op = 8 then old ||| v
  else if op = 12 then old &&& v
  else if op = 16 then (if old.slt v then old else v)
  else if op = 20 then (if old.slt v then v else old)
  else if op = 24 then (if old.ult v then old else v)
  else (if old.ult v then v else old)

/-- Word `w` of a line, and the line with that word replaced. -/
def lineWord (d : BitVec 512) (w : Nat) : W32 := fld d (32 * w) 32
def lineSet (d : BitVec 512) (w : Nat) (v : W32) : BitVec 512 := setFld d (32 * w) v

/-- NAmo (R390). -/
def doNamo (r : BusReq) (op : BitVec 5) (w : Nat) (v : W32) (s : State) : State :=
  if isSramLine r.line then
    let s := snoopAll r.line (fun _ => none) (holders s r.line 8) s
    if s.sep.down then s
    else
      let x := memLine s r.line
      match x.2 with
      | some (b, code) => busErrRsp r (logErr b code r.ag (lineAddr r.line) s)
      | none =>
        let old := lineWord x.1 w
        respond r.ag false old (putLine r.line (lineSet x.1 w (amoOp op old v)) s)
  else busErrRsp r (logErr .sep 0x0D84 r.ag (lineAddr r.line) s)

/-- The bus serves Sepia memory: the domain is up and in RUN. -/
def busUp (s : State) : Bool := !s.sep.down && !s.sep.resetting && s.domRun 17

/-- BUS_GRANT (R383): round-robin from the port after the one granted last. -/
def busGrant (s : State) : State :=
  if busUp s ∧ s.sep.cur = none then
    let order := (List.range 10).map (fun i => (s.sep.lastPort.toNat + 1 + i) % 10)
    match order.find? (fun p => (kget [] s.sep.port p) ≠ []) with
    | none => s
    | some p =>
      match kget [] s.sep.port p with
      | [] => s
      | r :: rs => { s with sep := { s.sep with
          cur := some r, lastPort := BitVec.ofNat 4 p, port := kset [] s.sep.port p rs } }
  else s

/-- BUS_GRANT (R383). -/
def execBusGrant (s : State) : Out := done (busGrant s)

/-- Perform the granted request with `f` when it is of this kind and no snoop of it is deferred. -/
def perform (kind : BusOp → Bool) (dfr : Bool) (f : BusReq → State → State) (s : State) : State :=
  match s.sep.cur with
  | none => s
  | some r =>
    if kind r.op && busUp s && !(dfr && defers s r.line (holders s r.line (portOf r.ag))) then
      f r { s with sep := { s.sep with cur := none } }
    else s

/-- BUSRD. -/
def execBusrd (s : State) : Out := done (perform (fun o => o == .busRd) true doBusRd s)
/-- BUSRDX. -/
def execBusrdx (s : State) : Out := done (perform (fun o => o == .busRdX) true doBusRdX s)
/-- BUSUPGR. -/
def execBusupgr (s : State) : Out := done (perform (fun o => o == .busUpgr) true doBusUpgr s)
/-- EVC (R386): a clean line is announced as evicted. -/
def execEvc (s : State) : Out :=
  done (perform (fun o => o == .evc) false (fun r s =>
    let c := portOf r.ag
    setFilt r.line c none (s.setCore c ((s.coreAt c).dropD r.line))) s)
/-- WB (R391, R399): memory takes an evicted modified line. -/
def execWb (s : State) : Out :=
  done (perform (fun o => o == .wb) false (fun r s => crossWb r.line (portOf r.ag) none s) s)
/-- NRD. -/
def execNrd (s : State) : Out := done (perform (fun o => o == .nrd) false doNrd s)
/-- NWR. -/
def execNwr (s : State) : Out :=
  done (perform (fun o => match o with | .nwr _ _ => true | _ => false) false
    (fun r s => match r.op with | .nwr m d => doNwr r m d s | _ => s) s)
/-- NAMO. -/
def execNamo (s : State) : Out :=
  done (perform (fun o => match o with | .namo _ _ _ => true | _ => false) false
    (fun r s => match r.op with | .namo op w v => doNamo r op w.toNat v s | _ => s) s)

/-- A whole line read by an agent without a cache, granted and performed in this step (R389). -/
def nrdNow (ag : Agent) (n : Nat) (s : State) : Option (BitVec 512) × State :=
  if !busUp s then (none, logErr .sep 0x0D85 ag (lineAddr n) s)
  else
    let s := snoopAll n (fun m => some m) (holders s n 8) s
    if s.sep.down then (none, s)
    else
      let x := memLine s n
      match x.2 with
      | some (b, code) => (none, logErr b code ag (lineAddr n) s)
      | none => (some x.1, s)

/-- A write of bytes of a line by an agent without a cache, granted and performed in this step (R390). -/
def nwrNow (ag : Agent) (n : Nat) (mask : W64) (d : BitVec 512) (s : State) : Bool × State :=
  if !busUp s then (false, logErr .sep 0x0D85 ag (lineAddr n) s)
  else if !isSramLine n then (false, logErr .sep 0x0D84 ag (lineAddr n) s)
  else
    let s := snoopAll n (fun _ => none) (holders s n 8) s
    if s.sep.down then (false, s)
    else (true, putMerged n mask (mergeBytes (memLine s n).1 mask d) s)

/-- RESERVATION_DEFER_EXPIRY (R393). -/
def execReservationDeferExpiry (c : BitVec 3) (s : State) : Out :=
  done (s.setCore c.toNat { s.coreAt c.toNat with defer := false })

/-- SNOOP_TIMEOUT (R399): core `c` has not answered a snoop of the granted request. -/
def execSnoopTimeout (c : BitVec 3) (s : State) : Out :=
  done (match s.sep.cur with
    | none => s
    | some r =>
      if busUp s && (holders s r.line (portOf r.ag)).contains c.toNat then
        domainDown 1 0x0D80 (agCore c.toNat) (lineAddr r.line) s
      else s)

end Sys2Proof.Machine
end

