-- ==== Sys2Proof/Machine/SepiaCore.lean ====
section
/-!
DEFINITION. The Sepia cores: RV32IMAC with Zicsr and Zifencei, machine and user modes, PMP, traps, debug events and
comparators, and the interrupt controller (R372 to R376, R392 to R397, R521 to R527, R534, R535). The instruction semantics
are the RISC-V manuals' (log entry 31).
-/
namespace Sys2Proof.Machine

-- Interrupts
/-- PRIO and TARGET of a source (Table 11.12). -/
def srcPrio (s : State) (n : Nat) : Nat := (fld (kget 0 s.sep.src n) 0 3).toNat
def srcTargets (s : State) (n c : Nat) : Bool := bit (kget 0 s.sep.src n) (8 + c)
def threshOf (s : State) (c : Nat) : BitVec 3 := kget 0 s.sep.thresh c

/-- R395: the pending target source of highest PRIO, and of those the lowest number. -/
def bestSource (s : State) (c : Nat) : Option Nat :=
  (List.range 97).foldl (fun b n =>
    if kget false s.sep.pend n && srcTargets s n c && srcPrio s n ≠ 0 then
      match b with
      | none => some n
      | some m => if srcPrio s m < srcPrio s n then some n else some m
    else b) none

/-- R395: the external interrupt line of core `c`. -/
def extLine (s : State) (c : Nat) : Bool :=
  (List.range 97).any (fun n => kget false s.sep.pend n && srcTargets s n c && (threshOf s c).toNat < srcPrio s n)

def mtimecmpOf (s : State) (c : Nat) : W64 := kget 0xFFFFFFFFFFFFFFFF s.sep.mtimecmp c

/-- mip: MSIP [3], MTIP [7], MEIP [11]. -/
def mipOf (s : State) (c : Nat) : W32 :=
  (b2w (bit s.sep.msip c) <<< 3) |||
  (b2w ((mtimecmpOf s c).ule s.now) <<< 7) ||| (b2w (extLine s c) <<< 11)

/-- Core `c` executes: it is out of reset, not held, not halted, and its domain is in RUN. -/
def coreRuns (s : State) (c : Nat) : Bool :=
  busUp s && bit s.sep.run c && !(s.dcoreAt c).halted && !s.glb.atReset

-- Traps
/-- Enter the trap handler of machine mode with a cause, mtval and the target address. -/
def Core.trap (k : Core) (cause : W32) (tval target : W32) : Core :=
  { k with
    mepc := k.pc, mcause := cause, mtval := tval
    mstatus := setFld (setBit (setBit k.mstatus 7 (bit k.mstatus 3)) 3 false) 11 (if k.mmode then 3#2 else 0#2)
    mmode := true, pc := target, resv := none, defer := false, wfi := false }

/-- The handler address of a cause: vectored for interrupts when mtvec's mode is 1. -/
def Core.vector (k : Core) (cause : W32) : W32 :=
  let base := k.mtvec &&& 0xFFFFFFFC
  if bit k.mtvec 0 && bit cause 31 then base + ((cause &&& 0x7FFFFFFF) <<< 2) else base

/-- A trap of core `c`. -/
def trapTo (c : Nat) (cause tval : W32) (s : State) : State :=
  let k := s.coreAt c
  s.setCore c (k.trap cause tval (k.vector cause))

/-- R524, R528: core `c` halts; HALT_FIRES fires its XT_OUT. -/
def haltCore (c : Nat) (cause : BitVec 3) (s : State) : State :=
  let d := s.dcoreAt c
  if d.halted then s else
  let k := s.coreAt c
  let s := (s.setDcore c { d with halted := true, cause := cause }).setCore c
    { k with resv := none, defer := false, stepping := false, wfi := false }
  if bit d.ctl 2 then xtFire (fld d.ctl 16 8) (agCore c) s else s

/-- R522: core `c` enters Blotter. -/
def enterMon (c : Nat) (cause : BitVec 3) (tval : W32) (s : State) : State :=
  let d := s.dcoreAt c
  let th := threshOf s c
  let s := s.setDcore c { d with inMon := true, cause := cause, savedTh := th }
  let s := { s with sep := { s.sep with
    thresh := kset 0 s.sep.thresh c (if th.ult s.dbg.monLevel then s.dbg.monLevel else th) } }
  s.setCore c ((s.coreAt c).trap 3 tval (s.dbg.monVec &&& 0xFFFFFFFC))

/-- R521 to R524: a debug event. It is ignored while IN_MON is 1 (R523) or while the core is halted. An uncached access that has
been granted completes first; one that has not is made again afterwards (R524). -/
def debugEvent (c : Nat) (cause : BitVec 3) (tval : W32) (s : State) : State :=
  let d := s.dcoreAt c
  let k := s.coreAt c
  if d.inMon || d.halted || k.dbgPend.isSome then s
  else if k.uncached.any (·.sent) then s.setCore c { k with dbgPend := some (cause, tval) }
  else
    let s := s.setCore c { k with uncached := none }
    if bit d.ctl 0 then haltCore c cause s else enterMon c cause tval s

/-- The debug event that has waited for an uncached access. -/
def debugWaiting (c : Nat) (s : State) : State :=
  match (s.coreAt c).dbgPend with
  | some (cause, tval) => debugEvent c cause tval (s.setCore c { s.coreAt c with dbgPend := none })
  | none => s

/-- R527: what a core does as it leaves reset. -/
def coreLeavesReset (c : Nat) (s : State) : State :=
  let s := s.setCore c {}
  if s.dbg.hor then haltCore c 5 (s.setDcore c { s.dcoreAt c with halted := false, inMon := false }) else s

-- Comparators (R534, R535)
/-- Comparator `n` of core `c` matches an access: kind 0 execute, 1 load, 2 store. -/
def cmprMatch (d : DbgCore) (n : Nat) (kind : Nat) (a v : W32) : Bool :=
  let x := kget {} d.cmp n
  let k := (fld x.ctl 1 2).toNat
  bit x.ctl 0 && (k == kind || (k == 3 && (kind == 1 || kind == 2))) &&
  (a &&& ~~~x.amask) == (x.addr &&& ~~~x.amask) &&
  (!bit x.ctl 5 || (v &&& x.vmask) == (x.value &&& x.vmask))

/-- The comparators that fire on an access: CHAIN on n = 0 or 2 makes n and n + 1 fire only together. -/
def cmprFire (d : DbgCore) (kind : Nat) (a v : W32) : List Nat :=
  let m := fun n => cmprMatch d n kind a v
  let ch := fun n => bit (kget {} d.cmp n).ctl 6
  (List.range 4).filter (fun n =>
    let lo := n / 2 * 2
    if ch lo then m lo && m (lo + 1) else m n)

/-- R535: the matching comparators count, set HIT, and act; a debug event follows when one has ACTION 0. -/
def cmprAct (c : Nat) (kind : Nat) (a v : W32) (s : State) : State × Bool :=
  let d := s.dcoreAt c
  if d.inMon then (s, false) else
  match cmprFire d kind a v with
  | [] => (s, false)
  | ns =>
    let act := fun n => fld (kget {} d.cmp n).ctl 3 2
    let d' := ns.foldl (fun (d : DbgCore) n =>
      { d with hit := setBit d.hit n true, cmp := kmod {} d.cmp n (fun x => { x with count := satInc x.count }) }) d
    let s := s.setDcore c d'
    let s := if ns.any (fun n => act n == 2) then xtFire (fld d.ctl 16 8) (agCore c) s else s
    (s, ns.any (fun n => act n == 0))

-- Addresses (Table 11.1) and PMP
/-- Where a core address leads. -/
inductive Target where
  | mem (line : Nat) (flash : Bool)
  | dpa (a : Dpa)
  | bad

/-- R376: the device reached by a core address. -/
def target (s : State) (c : Nat) (a : W32) : Target :=
  let n := a.toNat
  if n < 0x400000 then .mem (bflLine0 + n / 64) true
  else if 0x10000000 ≤ n ∧ n < 0x10400000 then .mem (sramLine0 + n % 0x10000000 / 64) false
  else if 0x40000000 ≤ n ∧ n < 0x80000000 then
    .dpa (((kget 0 s.sep.win c).setWidth 48 <<< 30) + BitVec.ofNat 48 (n % 0x40000000))
  else if 0x80000000 ≤ n ∧ n < 0xC0000000 then .dpa (0x030000000000 + BitVec.ofNat 48 (n % 0x40000000))
  else .bad

/-- The byte range of a PMP entry: NAPOT, NA4 or TOR; none for OFF. -/
def pmpRange (k : Core) (i : Nat) : Option (Nat × Nat) :=
  let cfg := fld k.pmpcfg (8 * i) 8
  let ad := (kget 0 k.pmpaddr i).toNat
  let lo := if i = 0 then 0 else (kget 0 k.pmpaddr (i - 1)).toNat
  match (fld cfg 3 2).toNat with
  | 0 => none
  | 1 => if lo < ad then some (4 * lo, 4 * ad) else none
  | 2 => some (4 * ad, 4 * ad + 4)
  | _ =>
    let t := ((List.range 32).find? (fun j => ad.testBit j == false)).getD 32
    let size := 2 ^ (t + 3)
    let base := 4 * ad / size * size
    some (base, base + size)

/-- PMP: the access of `n` bytes at `a` is allowed; need is bit 0 read, 1 write, 2 execute. -/
def pmpOk (k : Core) (mmode : Bool) (a : Nat) (n : Nat) (need : Nat) : Bool :=
  match (List.range 8).find? (fun i =>
    match pmpRange k i with | none => false | some (lo, hi) => lo < a + n && a < hi) with
  | none => mmode
  | some i =>
    let cfg := fld k.pmpcfg (8 * i) 8
    match pmpRange k i with
    | none => false
    | some (lo, hi) => lo ≤ a && a + n ≤ hi && ((mmode && !bit cfg 7) || bit cfg need)

/-- The mode in which data accesses are made (mstatus.MPRV). -/
def dataMode (k : Core) : Bool :=
  if k.mmode && bit k.mstatus 17 then fld k.mstatus 11 2 = 3 else k.mmode

-- CSRs
/-- The value of a CSR, none where it is not implemented. -/
def csrRead (s : State) (c : Nat) (n : Nat) : Option W32 :=
  let k := s.coreAt c
  if n = 0x300 then some k.mstatus
  else if n = 0x301 then some 0x40101105
  else if n = 0x304 then some k.mie
  else if n = 0x305 then some k.mtvec
  else if n = 0x306 then some k.mcounteren
  else if n = 0x310 then some 0
  else if n = 0x320 then some k.mcountinhibit
  else if 0x323 ≤ n ∧ n ≤ 0x33F then some 0
  else if n = 0x340 then some k.mscratch
  else if n = 0x341 then some k.mepc
  else if n = 0x342 then some k.mcause
  else if n = 0x343 then some k.mtval
  else if n = 0x344 then some (mipOf s c)
  else if 0x3A0 ≤ n ∧ n ≤ 0x3A1 then some (fld k.pmpcfg (32 * (n - 0x3A0)) 32)
  else if 0x3A2 ≤ n ∧ n ≤ 0x3A3 then some 0
  else if 0x3B0 ≤ n ∧ n ≤ 0x3B7 then some (kget 0 k.pmpaddr (n - 0x3B0))
  else if 0x3B8 ≤ n ∧ n ≤ 0x3BF then some 0
  else if n = 0xB00 ∨ n = 0xC00 then some (fld k.mcycle 0 32)
  else if n = 0xB80 ∨ n = 0xC80 then some (fld k.mcycle 32 32)
  else if n = 0xB02 ∨ n = 0xC02 then some (fld k.minstret 0 32)
  else if n = 0xB82 ∨ n = 0xC82 then some (fld k.minstret 32 32)
  else if n = 0xC01 then some (fld s.now 0 32)
  else if n = 0xC81 then some (fld s.now 32 32)
  else if (0xB03 ≤ n ∧ n ≤ 0xB1F) ∨ (0xB83 ≤ n ∧ n ≤ 0xB9F) ∨ (0xC03 ≤ n ∧ n ≤ 0xC1F) ∨ (0xC83 ≤ n ∧ n ≤ 0xC9F) then some 0
  else if n = 0xF11 ∨ n = 0xF12 ∨ n = 0xF15 then some 0
  else if n = 0xF13 then some 0x11
  else if n = 0xF14 then some (BitVec.ofNat 32 c)
  else none

/-- Mode and counter-enable check of an access to CSR `n`. -/
def csrAllowed (k : Core) (n : Nat) : Bool :=
  if k.mmode then true
  else n / 0x100 % 4 = 0 && (!(0xC00 ≤ n && n < 0xD00) || bit k.mcounteren (n % 32))

/-- Write pmpcfg byte `i`, unless it is locked. -/
def pmpcfgByte (cfg : W64) (i : Nat) (b : Byte) : W64 :=
  if bit (fld cfg (8 * i) 8) 7 then cfg else setFld cfg (8 * i) (b &&& 0x9F)

/-- Write a CSR (the WARL fields of the RISC-V privileged manual). -/
def csrWrite (k : Core) (n : Nat) (v : W32) : Core :=
  if n = 0x300 then
    let mpp : BitVec 2 := if fld v 11 2 = 3 then 3 else if fld v 11 2 = 0 then 0 else fld k.mstatus 11 2
    { k with mstatus := setFld (v &&& 0x00220088) 11 mpp }
  else if n = 0x304 then { k with mie := v &&& 0x888 }
  else if n = 0x305 then { k with mtvec := v &&& 0xFFFFFFFD }
  else if n = 0x306 then { k with mcounteren := v &&& 7 }
  else if n = 0x320 then { k with mcountinhibit := v &&& 5 }
  else if n = 0x340 then { k with mscratch := v }
  else if n = 0x341 then { k with mepc := v &&& 0xFFFFFFFE }
  else if n = 0x342 then { k with mcause := v }
  else if n = 0x343 then { k with mtval := v }
  else if 0x3A0 ≤ n ∧ n ≤ 0x3A1 then
    { k with pmpcfg := (List.range 4).foldl (fun w i => pmpcfgByte w (4 * (n - 0x3A0) + i) (fld v (8 * i) 8)) k.pmpcfg }
  else if 0x3B0 ≤ n ∧ n ≤ 0x3B7 then
    let i := n - 0x3B0
    let cfg := fun j => fld k.pmpcfg (8 * j) 8
    if bit (cfg i) 7 || (i < 7 && bit (cfg (i + 1)) 7 && fld (cfg (i + 1)) 3 2 = 1) then k
    else { k with pmpaddr := kset 0 k.pmpaddr i v }
  else if n = 0xB00 then { k with mcycle := setFld k.mcycle 0 v }
  else if n = 0xB80 then { k with mcycle := setFld k.mcycle 32 v }
  else if n = 0xB02 then { k with minstret := setFld k.minstret 0 v }
  else if n = 0xB82 then { k with minstret := setFld k.minstret 32 v }
  else k

-- Registers
def Core.reg (k : Core) (r : Nat) : W32 := if r = 0 then 0 else kget 0 k.x r
def Core.setReg (k : Core) (r : Nat) (v : W32) : Core := if r = 0 then k else { k with x := kset 0 k.x r v }

/-- An instruction retires: its pc and counters. -/
def Core.retire (k : Core) (pc : W32) : Core :=
  { k with
    pc := pc
    mcycle := if bit k.mcountinhibit 0 then k.mcycle else k.mcycle + 1
    minstret := if bit k.mcountinhibit 2 then k.minstret else k.minstret + 1 }

-- Fetch
/-- The address of the word at byte `o` of line `n`, which ERR_ADDR gets for a cache error (log entry 159). -/
def wordAddr (n o : Nat) : BitVec 48 := lineAddr n + BitVec.ofNat 48 o

/-- What a fetch of 16 bits answers. -/
inductive FetchRes where
  | got (h : W16) (s : State)
  | fault (s : State)
  /-- The line has been requested. -/
  | miss (s : State)

/-- Fetch 16 bits at `a` through the instruction cache (R379, R389). A word of wrong parity invalidates its line, which is
fetched again, and logs 0x0D86 (R380). -/
def fetch16 (c : Nat) (a : W32) (s : State) : FetchRes :=
  let k := s.coreAt c
  if !pmpOk k k.mmode a.toNat 2 2 then .fault s else
  match target s c a with
  | .mem n _ =>
    if k.busErr = some n then .fault (s.setCore c { k with busErr := none }) else
    match setHit n (kget [] k.ic (setOf n)) with
    | some (d, l) =>
      if kget false k.icBad (16 * n + a.toNat % 64 / 4) then
        .miss (busPost { ag := agCore c, op := .nrd, line := n }
          (logErr .sep 0x0D86 (agCore c) (wordAddr n (a.toNat % 64 / 4 * 4)) (s.setCore c (k.dropI n))))
      else .got (fld d (8 * (a.toNat % 64)) 16) (s.setCore c { k with ic := kset [] k.ic (setOf n) l })
    | none => .miss (busPost { ag := agCore c, op := .nrd, line := n } s)
  | .dpa _ => .fault s
  | .bad => .fault (logErr .sep 0x0D83 (agCore c) (a.setWidth 48) s)

-- Compressed instructions
/-- Build R, I, S, B, U and J type words. -/
def encR (f7 rs2 rs1 f3 rd op : Nat) : W32 :=
  BitVec.ofNat 32 (f7 * 0x2000000 + rs2 * 0x100000 + rs1 * 0x8000 + f3 * 0x1000 + rd * 0x80 + op)
def encI (imm : BitVec 12) (rs1 f3 rd op : Nat) : W32 :=
  (imm.setWidth 32 <<< 20) ||| BitVec.ofNat 32 (rs1 * 0x8000 + f3 * 0x1000 + rd * 0x80 + op)
def encS (imm : BitVec 12) (rs2 rs1 f3 op : Nat) : W32 :=
  ((fld imm 5 7).setWidth 32 <<< 25) |||
  BitVec.ofNat 32 (rs2 * 0x100000 + rs1 * 0x8000 + f3 * 0x1000 + (fld imm 0 5).toNat * 0x80 + op)
def encB (imm : BitVec 13) (rs2 rs1 f3 : Nat) : W32 :=
  (b2w (bit imm 12) <<< 31) ||| ((fld imm 5 6).setWidth 32 <<< 25) ||| ((fld imm 1 4).setWidth 32 <<< 8) |||
  (b2w (bit imm 11) <<< 7) ||| BitVec.ofNat 32 (rs2 * 0x100000 + rs1 * 0x8000 + f3 * 0x1000 + 0x63)
def encJ (imm : BitVec 21) (rd : Nat) : W32 :=
  (b2w (bit imm 20) <<< 31) ||| ((fld imm 1 10).setWidth 32 <<< 21) ||| (b2w (bit imm 11) <<< 20) |||
  ((fld imm 12 8).setWidth 32 <<< 12) ||| BitVec.ofNat 32 (rd * 0x80 + 0x6F)

/-- Sign-extended 6-bit immediate of CI formats. -/
def ci6 (h : W16) : BitVec 12 := (fld h 12 1 ++ fld h 2 5 : BitVec 6).signExtend 12

/-- The 32-bit word a compressed instruction expands to; none where it is illegal. -/
def expand (h : W16) : Option W32 :=
  let op := (fld h 0 2).toNat
  let f3 := (fld h 13 3).toNat
  let rd := (fld h 7 5).toNat
  let rs2 := (fld h 2 5).toNat
  let rdp := 8 + (fld h 2 3).toNat
  let rs1p := 8 + (fld h 7 3).toNat
  let lw : BitVec 12 := (fld h 5 1 ++ fld h 10 3 ++ fld h 6 1 ++ (0 : BitVec 2) : BitVec 7).setWidth 12
  if op = 0 then
    if f3 = 0 then
      let imm : BitVec 12 := (fld h 7 4 ++ fld h 11 2 ++ fld h 5 1 ++ fld h 6 1 ++ (0 : BitVec 2) : BitVec 10).setWidth 12
      if imm = 0 then none else some (encI imm 2 0 rdp 0x13)
    else if f3 = 2 then some (encI lw rs1p 2 rdp 0x03)
    else if f3 = 6 then some (encS lw rdp rs1p 2 0x23)
    else none
  else if op = 1 then
    let j : BitVec 21 := (fld h 12 1 ++ fld h 8 1 ++ fld h 9 2 ++ fld h 6 1 ++ fld h 7 1 ++ fld h 2 1 ++ fld h 11 1 ++
      fld h 3 3 ++ (0 : BitVec 1) : BitVec 12).signExtend 21
    let b : BitVec 13 := (fld h 12 1 ++ fld h 5 2 ++ fld h 2 1 ++ fld h 10 2 ++ fld h 3 2 ++ (0 : BitVec 1) : BitVec 9).signExtend 13
    if f3 = 0 then some (encI (ci6 h) rd 0 rd 0x13)
    else if f3 = 1 then some (encJ j 1)
    else if f3 = 2 then some (encI (ci6 h) 0 0 rd 0x13)
    else if f3 = 3 then
      if rd = 2 then
        let imm : BitVec 12 := (fld h 12 1 ++ fld h 3 2 ++ fld h 5 1 ++ fld h 2 1 ++ fld h 6 1 ++ (0 : BitVec 4) : BitVec 10).signExtend 12
        if imm = 0 then none else some (encI imm 2 0 2 0x13)
      else
        let imm := (ci6 h).signExtend 20
        if imm = 0 then none else some ((imm.setWidth 32 <<< 12) ||| BitVec.ofNat 32 (rd * 0x80 + 0x37))
    else if f3 = 4 then
      let k := (fld h 10 2).toNat
      let sh := (fld h 2 5).toNat
      if k = 0 then (if bit h 12 then none else some (encR 0 sh rs1p 5 rs1p 0x13))
      else if k = 1 then (if bit h 12 then none else some (encR 0x20 sh rs1p 5 rs1p 0x13))
      else if k = 2 then some (encI (ci6 h) rs1p 7 rs1p 0x13)
      else if bit h 12 then none
      else
        let t := (fld h 5 2).toNat
        if t = 0 then some (encR 0x20 rdp rs1p 0 rs1p 0x33)
        else if t = 1 then some (encR 0 rdp rs1p 4 rs1p 0x33)
        else if t = 2 then some (encR 0 rdp rs1p 6 rs1p 0x33)
        else some (encR 0 rdp rs1p 7 rs1p 0x33)
    else if f3 = 5 then some (encJ j 0)
    else if f3 = 6 then some (encB b 0 rs1p 0)
    else some (encB b 0 rs1p 1)
  else
    let lwsp : BitVec 12 := (fld h 2 2 ++ fld h 12 1 ++ fld h 4 3 ++ (0 : BitVec 2) : BitVec 8).setWidth 12
    let swsp : BitVec 12 := (fld h 7 2 ++ fld h 9 4 ++ (0 : BitVec 2) : BitVec 8).setWidth 12
    if f3 = 0 then (if bit h 12 then none else some (encR 0 rs2 rd 1 rd 0x13))
    else if f3 = 2 then (if rd = 0 then none else some (encI lwsp 2 2 rd 0x03))
    else if f3 = 4 then
      if !bit h 12 then
        if rs2 = 0 then (if rd = 0 then none else some (encI 0 rd 0 0 0x67)) else some (encR 0 rs2 0 0 rd 0x33)
      else if rs2 = 0 then (if rd = 0 then some 0x00100073 else some (encI 0 rd 0 1 0x67))
      else some (encR 0 rs2 rd 0 rd 0x33)
    else if f3 = 6 then some (encS swsp rs2 2 2 0x23)
    else none

-- Execute
/-- What an executed instruction does. -/
inductive Exec where
  /-- It retires with this core and state, going on at `pc`. -/
  | ok (pc : W32) (s : State)
  | trap (cause tval : W32) (s : State)
  /-- It does not complete now: a bus request or an uncached access is under way. -/
  | wait (s : State)

/-- Integer register operations of OP and OP-IMM. -/
def aluRv (f3 : Nat) (alt : Bool) (a b : W32) : W32 :=
  if f3 = 0 then (if alt then a - b else a + b)
  else if f3 = 1 then a <<< (b.toNat % 32)
  else if f3 = 2 then b2w (a.slt b)
  else if f3 = 3 then b2w (a.ult b)
  else if f3 = 4 then a ^^^ b
  else if f3 = 5 then (if alt then a.sshiftRight (b.toNat % 32) else a >>> (b.toNat % 32))
  else if f3 = 6 then a ||| b
  else a &&& b

/-- The M extension. -/
def mulRv (f3 : Nat) (a b : W32) : W32 :=
  let ss := a.toInt * b.toInt
  let su := a.toInt * (b.toNat : Int)
  let uu := a.toNat * b.toNat
  if f3 = 0 then a * b
  else if f3 = 1 then BitVec.ofInt 32 (ss / 0x100000000)
  else if f3 = 2 then BitVec.ofInt 32 (su / 0x100000000)
  else if f3 = 3 then BitVec.ofNat 32 (uu / 0x100000000)
  else if f3 = 4 then (if b = 0 then 0xFFFFFFFF else if a = 0x80000000 ∧ b = 0xFFFFFFFF then a else a.sdiv b)
  else if f3 = 5 then (if b = 0 then 0xFFFFFFFF else a / b)
  else if f3 = 6 then (if b = 0 then a else if a = 0x80000000 ∧ b = 0xFFFFFFFF then 0 else a.srem b)
  else (if b = 0 then a else a % b)

/-- The width of a load or store by funct3; none where undefined. -/
def lsWidth (f3 : Nat) (store : Bool) : Option Nat :=
  match f3 with
  | 0 => some 1 | 1 => some 2 | 2 => some 4
  | 4 => if store then none else some 1
  | 5 => if store then none else some 2
  | _ => none

/-- A loaded value, extended by funct3. -/
def loadExt (f3 : Nat) (v : W32) : W32 :=
  if f3 = 0 then (fld v 0 8).signExtend 32
  else if f3 = 1 then (fld v 0 16).signExtend 32
  else if f3 = 4 then (fld v 0 8).setWidth 32
  else if f3 = 5 then (fld v 0 16).setWidth 32
  else v

/-- Make room in the set of line `n`: the least recently used line is evicted when the set is full (R379, R386). True when
the line can be requested at once. -/
def makeRoom (c n : Nat) (s : State) : Bool × State :=
  let k := s.coreAt c
  let l := kget [] k.dc (setOf n)
  if l.length < 4 then (true, s)
  else match l.getLast? with
  | none => (true, s)
  | some (v, d) =>
    if d.m then
      if k.wbuf.length < 2 then
        let k := { k.dropD v with wbuf := k.wbuf ++ [(v, d)] }
        (true, busPost { ag := agCore c, op := .wb, line := v } (s.setCore c k))
      else (false, s)
    else (false, busPost { ag := agCore c, op := .evc, line := v } s)

/-- Request line `n` for core `c`, in S or in M (Table 11.4). -/
def requestLine (c n : Nat) (excl : Bool) (s : State) : State :=
  match (s.coreAt c).dLine n with
  | some d => if excl && !d.m then busPost { ag := agCore c, op := .busUpgr, line := n } s else s
  | none =>
    if (s.coreAt c).wbuf.any (fun e => e.1 == n) then s else
    let r := makeRoom c n s
    if r.1 then busPost { ag := agCore c, op := if excl then .busRdX else .busRd, line := n } r.2 else r.2

/-- The data cache holds line `n` in the state an access needs; the line becomes most recently used. -/
def dHit (c n : Nat) (excl : Bool) (s : State) : Option DLine :=
  match (s.coreAt c).dLine n with
  | some d => if d.m || !excl then some d else none
  | none => none

/-- What the check bits of the data-cache word at byte `o` of a held line make of an access (R380, R399). -/
inductive CacheRd where
  /-- The word is good, or corrected on the read path; the access goes on from this state. -/
  | go (s : State)
  /-- The line leaves the cache first: an S line by its announcement, an M line written back poisoned. -/
  | gone (s : State)

/-- R380: a correctable word is logged and corrected on the read path; an uncorrectable word evicts an S line, which is
fetched again, and logs 0x0D86 once. R399: an M line with an uncorrectable word is written back at once, marked poisoned. -/
def cacheWord (c n o : Nat) (d : DLine) (s : State) : CacheRd :=
  let log := logErr .sep 0x0D86 (agCore c) (wordAddr n (o / 8 * 8))
  let k := s.coreAt c
  match kget .good d.ecc (o / 8) with
  | .good => .go s
  | .corr => .go (log s)
  | .bad =>
    if d.m then
      if k.wbuf.length < 2 then
        .gone (busPost { ag := agCore c, op := .wb, line := n }
          (s.setCore c { k.dropD n with wbuf := k.wbuf ++ [(n, d)] }))
      else .gone s
    else
      let r : BusReq := { ag := agCore c, op := .evc, line := n }
      if (kget [] s.sep.port c).contains r || s.sep.cur = some r then .gone s else .gone (busPost r (log s))

/-- The line after a write of the word at byte `o`: its check bits are made anew. -/
def DLine.write (d : DLine) (o : Nat) (x : BitVec 512) : DLine :=
  { d with data := x, ecc := kset .good d.ecc (o / 8) .good }

/-- An instruction that completes with a register value. -/
def okReg (c : Nat) (rd : Nat) (v pc : W32) (s : State) : Exec := .ok pc (s.setCore c ((s.coreAt c).setReg rd v))

/-- After a load or store, the comparators act (R535); true when a debug event follows. -/
def afterAccess (c : Nat) (kind : Nat) (a v : W32) (s : State) : State :=
  let r := cmprAct c kind a v s
  if r.2 then r.1.setDcore c { r.1.dcoreAt c with cause := 7 } else r.1

/-- A load or a store of `n` bytes (R373, R375, R377, R385). -/
def loadStore (c : Nat) (store : Bool) (f3 n : Nat) (a v : W32) (rd : Nat) (npc : W32) (s : State) : Exec :=
  let k := s.coreAt c
  let flt : W32 := if store then 7 else 5
  if a.toNat % n ≠ 0 then .trap (if store then 6 else 4) a s
  else if !pmpOk k (dataMode k) a.toNat n (if store then 1 else 0) then .trap flt a s
  else match target s c a with
  | .bad => .trap flt a (logErr .sep 0x0D83 (agCore c) (a.setWidth 48) s)
  | .dpa d =>
    .wait (s.setCore c { k with uncached := some { addr := d, wr := store, funct3 := BitVec.ofNat 3 f3, rd := BitVec.ofNat 5 rd, v := v, va := a, npc := npc } })
  | .mem ln flash =>
    if store && flash then .trap 7 a (logErr .sep 0x0D84 (agCore c) (lineAddr ln + (a &&& 63).setWidth 48) s)
    else if k.busErr = some ln then .trap flt a (s.setCore c { k with busErr := none })
    else match dHit c ln store s with
    | none => .wait (requestLine c ln store s)
    | some d =>
      let o := a.toNat % 64
      match cacheWord c ln o d s with
      | .gone s => .wait s
      | .go s =>
      let k := s.coreAt c
      if store then
        let data := mergeBytes d.data (((1#64 <<< n) - 1) <<< o) (v.setWidth 512 <<< (8 * o))
        let s := s.setCore c (k.putD ln (d.write o data))
        let vv := if n = 1 then (fld v 0 8).setWidth 32 else if n = 2 then (fld v 0 16).setWidth 32 else v
        .ok npc (afterAccess c 2 a vv s)
      else
        let raw := fld d.data (8 * o) 32
        let s := s.setCore c ((k.putD ln d).setReg rd (loadExt f3 raw))
        let vv := if n = 1 then (fld raw 0 8).setWidth 32 else if n = 2 then (fld raw 0 16).setWidth 32 else raw
        .ok npc (afterAccess c 1 a vv s)

/-- LR, SC and AMO (R392). -/
def atomic (c : Nat) (f5 : BitVec 5) (a v : W32) (rd : Nat) (npc : W32) (s : State) : Exec :=
  let k := s.coreAt c
  let lr := f5 == 2
  let sc := f5 == 3
  let flt : W32 := if lr then 5 else 7
  if a.toNat % 4 ≠ 0 then .trap (if lr then 4 else 6) a s
  else if !(pmpOk k (dataMode k) a.toNat 4 0 && (lr || pmpOk k (dataMode k) a.toNat 4 1)) then .trap flt a s
  else match target s c a with
  | .bad => .trap flt a (logErr .sep 0x0D83 (agCore c) (a.setWidth 48) s)
  | .dpa _ => .trap flt a s
  | .mem ln flash =>
    if flash then .trap flt a (logErr .sep 0x0D84 (agCore c) (lineAddr ln + (a &&& 63).setWidth 48) s)
    else if k.busErr = some ln then .trap flt a (s.setCore c { k with busErr := none })
    else
      let w := a.toNat % 64 / 4
      if sc then
        match dHit c ln true s with
        | some d =>
          if k.resv = some ln then
            match cacheWord c ln (4 * w) d s with
            | .gone s => .wait s
            | .go s =>
            let k := s.coreAt c
            let k := { (k.putD ln (d.write (4 * w) (lineSet d.data w v))).setReg rd 0 with resv := none, defer := false }
            .ok npc (afterAccess c 2 a v (s.setCore c k))
          else .ok npc (s.setCore c { k.setReg rd 1 with resv := none, defer := false })
        | none => .ok npc (s.setCore c { k.setReg rd 1 with resv := none, defer := false })
      else match dHit c ln true s with
      | none => .wait (requestLine c ln true s)
      | some d =>
        match cacheWord c ln (4 * w) d s with
        | .gone s => .wait s
        | .go s =>
        let k := s.coreAt c
        let old := lineWord d.data w
        if lr then
          let k := { (k.putD ln d).setReg rd old with resv := some ln, defer := true }
          .ok npc (afterAccess c 1 a old (s.setCore c k))
        else
          let nv := amoOp f5 old v
          let k := (k.putD ln (d.write (4 * w) (lineSet d.data w nv))).setReg rd old
          .ok npc (afterAccess c 2 a nv (s.setCore c k))

/-- MRET: back to the mode in MPP; in Blotter it ends IN_MON and restores SEP_THRESH (R522). The reservation is lost (R392). -/
def mret (c : Nat) (s : State) : Exec :=
  let k := s.coreAt c
  let toM := fld k.mstatus 11 2 = 3
  let st := setBit (setBit k.mstatus 3 (bit k.mstatus 7)) 7 true
  let st := setFld st 11 (0#2)
  let st := if toM then st else setBit st 17 false
  let s := s.setCore c { k with mstatus := st, mmode := toM, resv := none, defer := false }
  let d := s.dcoreAt c
  let s := if d.inMon then
      { s.setDcore c { d with inMon := false } with sep := { s.sep with thresh := kset 0 s.sep.thresh c d.savedTh } }
    else s
  .ok k.mepc s

/-- SYSTEM instructions: ECALL, EBREAK, MRET, WFI and the CSR instructions. -/
def system (c : Nat) (w : W32) (npc : W32) (s : State) : Exec :=
  let k := s.coreAt c
  let f3 := (fld w 12 3).toNat
  let rd := (fld w 7 5).toNat
  let rs1 := (fld w 15 5).toNat
  let n := (fld w 20 12).toNat
  if f3 = 0 then
    if w = 0x00000073 then .trap (if k.mmode then 11 else 8) 0 s
    else if w = 0x00100073 then .trap 3 k.pc s
    else if w = 0x30200073 then (if k.mmode then mret c s else .trap 2 w s)
    else if w = 0x10500073 then
      if !k.mmode && bit k.mstatus 21 then .trap 2 w s else .ok npc (s.setCore c { k with wfi := true })
    else .trap 2 w s
  else if f3 = 4 then .trap 2 w s
  else
    let src := if 4 ≤ f3 then BitVec.ofNat 32 rs1 else k.reg rs1
    let wr := f3 % 4 = 1 || rs1 ≠ 0
    match csrRead s c n with
    | none => .trap 2 w s
    | some old =>
      if !csrAllowed k n || (wr && n / 0x400 = 3) then .trap 2 w s
      else
        let v := if f3 % 4 = 1 then src else if f3 % 4 = 2 then old ||| src else old &&& ~~~src
        let k := if wr then csrWrite k n v else k
        .ok npc (s.setCore c (k.setReg rd old))

/-- One 32-bit (or expanded) instruction. -/
def execRv (c : Nat) (w : W32) (len : W32) (s : State) : Exec :=
  let k := s.coreAt c
  let op := (fld w 0 7).toNat
  let rd := (fld w 7 5).toNat
  let f3 := (fld w 12 3).toNat
  let a := k.reg (fld w 15 5).toNat
  let b := k.reg (fld w 20 5).toNat
  let f7 := (fld w 25 7).toNat
  let npc := k.pc + len
  let immI := (fld w 20 12).signExtend 32
  let immS := (fld w 25 7 ++ fld w 7 5 : BitVec 12).signExtend 32
  let immB := (fld w 31 1 ++ fld w 7 1 ++ fld w 25 6 ++ fld w 8 4 ++ (0 : BitVec 1) : BitVec 13).signExtend 32
  let immJ := (fld w 31 1 ++ fld w 12 8 ++ fld w 20 1 ++ fld w 21 10 ++ (0 : BitVec 1) : BitVec 21).signExtend 32
  let ill := Exec.trap 2 w s
  if op = 0x37 then okReg c rd (w &&& 0xFFFFF000) npc s
  else if op = 0x17 then okReg c rd (k.pc + (w &&& 0xFFFFF000)) npc s
  else if op = 0x6F then okReg c rd npc (k.pc + immJ) s
  else if op = 0x67 then (if f3 = 0 then okReg c rd npc ((a + immI) &&& 0xFFFFFFFE) s else ill)
  else if op = 0x63 then
    let t := if f3 / 2 = 0 then a == b else if f3 / 2 = 2 then a.slt b else a.ult b
    if f3 / 2 = 1 then ill else .ok (if t != (f3 % 2 = 1) then k.pc + immB else npc) s
  else if op = 0x03 then
    match lsWidth f3 false with | none => ill | some n => loadStore c false f3 n (a + immI) 0 rd npc s
  else if op = 0x23 then
    match lsWidth f3 true with | none => ill | some n => loadStore c true f3 n (a + immS) b rd npc s
  else if op = 0x13 then
    if f3 = 1 then (if f7 = 0 then okReg c rd (aluRv 1 false a (w >>> 20)) npc s else ill)
    else if f3 = 5 then
      if f7 = 0 ∨ f7 = 0x20 then okReg c rd (aluRv 5 (f7 = 0x20) a (fld w 20 5 |>.setWidth 32)) npc s else ill
    else okReg c rd (aluRv f3 false a immI) npc s
  else if op = 0x33 then
    if f7 = 1 then okReg c rd (mulRv f3 a b) npc s
    else if f7 = 0 then okReg c rd (aluRv f3 false a b) npc s
    else if f7 = 0x20 ∧ (f3 = 0 ∨ f3 = 5) then okReg c rd (aluRv f3 true a b) npc s
    else ill
  else if op = 0x0F then
    if f3 = 0 then .ok npc s
    else if f3 = 1 then .ok npc (s.setCore c { k with ic := [], icBad := [] })
    else ill
  else if op = 0x2F then
    let f5 := fld w 27 5
    let okf := [0, 1, 2, 3, 4, 8, 12, 16, 20, 24, 28].contains f5.toNat
    if f3 = 2 ∧ okf ∧ (f5 ≠ 2 ∨ (fld w 20 5) = 0) then atomic c f5 a b rd npc s else ill
  else if op = 0x73 then system c w npc s
  else ill

/-- After an executed instruction: the debug event a comparator left (its cause was marked 7), then the step's halt. -/
def afterInstr (c : Nat) (tval : W32) (s : State) : State :=
  let d := s.dcoreAt c
  let s := if d.cause = 7 then debugEvent c 2 tval (s.setDcore c { d with cause := 0 }) else s
  let k := s.coreAt c
  if k.stepping then haltCore c 4 s else s

/-- EBREAK with EBREAK_DBG = 1 is a debug event (R521). -/
def isEbreakDbg (c : Nat) (w : W32) (s : State) : Bool := w == 0x00100073 && bit (s.dcoreAt c).ctl 1

/-- Execute the instruction word `w` of length `len` at the pc: execute comparators first (R535). -/
def runWord (c : Nat) (w len : W32) (s : State) : State :=
  let k := s.coreAt c
  let r := if k.skipCmp then (s, false) else cmprAct c 0 k.pc w s
  if r.2 then debugEvent c 2 k.pc r.1
  else if isEbreakDbg c w r.1 && !(r.1.dcoreAt c).inMon then debugEvent c 3 0 r.1
  else match execRv c w len r.1 with
  | .ok pc s => afterInstr c pc (s.setCore c { (s.coreAt c).retire pc with skipCmp := false })
  | .trap cause tval s => afterInstr c 0 (trapTo c cause tval (s.setCore c { s.coreAt c with skipCmp := false }))
  | .wait s => s

/-- The interrupt a core takes before its next instruction: software, then timer. The external one is its own step, but it goes
before a software or timer interrupt that is pending with it. -/
def softIrq (s : State) (c : Nat) : Option W32 :=
  let k := s.coreAt c
  let p := mipOf s c &&& k.mie
  if k.stepping || (k.mmode && !bit k.mstatus 3) then none
  else if bit p 11 && (bit p 3 || bit p 7) then some 0x8000000B
  else if bit p 3 then some 0x80000003
  else if bit p 7 then some 0x80000007
  else none

/-- CORE_INSTRUCTION (R372): one instruction of core `c`, or the entry of its software or timer interrupt. -/
def coreInstr (c : Nat) (s : State) : State :=
  let k := s.coreAt c
  if !coreRuns s c || k.uncached.isSome then s
  else if k.wfi && (mipOf s c &&& k.mie) = 0 then s
  else
    let k := { k with wfi := false }
    let s := s.setCore c k
    match softIrq s c with
    | some cause => trapTo c cause 0 s
    | none =>
      match fetch16 c k.pc s with
      | .miss s => s
      | .fault s => afterInstr c 0 (trapTo c 1 k.pc s)
      | .got h s =>
        if fld h 0 2 = 3 then
          match fetch16 c (k.pc + 2) s with
          | .miss s => s
          | .fault s => afterInstr c 0 (trapTo c 1 (k.pc + 2) s)
          | .got h2 s => runWord c (h2 ++ h) 4 s
        else match expand h with
        | some w => runWord c w 2 s
        | none => afterInstr c 0 (trapTo c 2 (h.setWidth 32) s)

/-- CORE_INSTRUCTION (R372). -/
def execCoreInstruction (c : BitVec 3) (s : State) : Out := done (coreInstr c.toNat s)

/-- EXTERNAL_INTERRUPT_ENTRY (R397): core `c` takes the machine external interrupt. -/
def execExternalInterruptEntry (c : BitVec 3) (s : State) : Out :=
  let n := c.toNat
  let k := s.coreAt n
  done (if coreRuns s n && k.uncached.isNone && !k.stepping && extLine s n && bit k.mie 11 && (!k.mmode || bit k.mstatus 3)
    then trapTo n 0x8000000B 0 s else s)

/-- MTIMECMP_MATCH (R374): the tick counter has reached SEP_MTIMECMP. -/
def execMtimecmpMatch (c : BitVec 3) (s : State) : Out :=
  done (if (mtimecmpOf s c.toNat).ule s.now then s.setCore c.toNat { s.coreAt c.toNat with mtip := true } else s)

/-- UNCACHED_ACCESS_RESPONSE (R384, R404): the load or store completes, or raises an access fault. -/
def execUncachedAccessResponse (c : BitVec 3) (s : State) : Out :=
  let n := c.toNat
  let k := s.coreAt n
  match k.uncached with
  | none => done s
  | some u =>
    match u.resp with
    | none => done s
    | some (err, d) =>
      let s := s.setCore n { k with uncached := none, skipCmp := false }
      if err then done (debugWaiting n (afterInstr n 0 (trapTo n (if u.wr then 7 else 5) u.va s)))
      else
        let k := s.coreAt n
        let k := if u.wr then k else k.setReg u.rd.toNat (loadExt u.funct3.toNat d)
        let s := afterAccess n (if u.wr then 2 else 1) u.va (if u.wr then u.v else d) (s.setCore n (k.retire u.npc))
        done (debugWaiting n (afterInstr n u.npc s))

end Sys2Proof.Machine
end

