-- ==== Sys2Proof/Machine/SepiaIrq.lean ====
section
/-!
DEFINITION. The Sepia interrupt controller, domain reset, boot-flash commands and the SEP registers (R377, R394 to R396,
R402, R406, Tables 11.10 to 11.12).
-/
namespace Sys2Proof.Machine

/-- R395: a source becomes pending. -/
def srcPend (n : Nat) (s : State) : State := { s with sep := { s.sep with pend := kset false s.sep.pend n true } }

/-- IRQ_SOURCE_ACTIVE (R395): the line of a source is active and it is neither pending nor claimed. -/
def execIrqSourceActive (src : BitVec 7) (s : State) : Out :=
  let n := src.toNat
  done (if srcActive s n ∧ !kget false s.sep.pend n ∧ !kget false s.sep.claimed n then srcPend n s else s)

/-- R395, R396: a completion interrupt of owner `o` routed to Sepia. -/
def cplRouted (o : Nat) (s : State) : Bool := bit (kget 0 s.sep.cplRoute (o / 32)) (o % 32) && !s.sep.down

/-- R395: a read of SEP_CLAIM of core `c`. -/
def sepClaim (c : Nat) (s : State) : W32 × State :=
  match bestSource s c with
  | none => (0, s)
  | some n => (BitVec.ofNat 32 n ||| 0x80000000, { s with sep := { s.sep with
      pend := kset false s.sep.pend n false, claimed := kset false s.sep.claimed n true } })

/-- SEP_CLAIM (R395). -/
def execSepClaim (ag : Agent) (c : BitVec 3) (s : State) : Out :=
  let r := sepClaim c.toNat s
  done (ans ag .ok (r.1.setWidth 512) r.2)

/-- R395: a write of SEP_COMPLETE ends the claim of a source. -/
def sepComplete (v : W32) (s : State) : State :=
  { s with sep := { s.sep with claimed := kset false s.sep.claimed (fld v 0 7).toNat false } }

/-- SEP_COMPLETE (R395). -/
def execSepComplete (_c : BitVec 3) (v : W32) (s : State) : Out := done (sepComplete v s)

/-- R402: the write of GO: caches and filter are invalidated and the reset begins; waiting accesses of ports 8 and 9 are handled
as in step 3 of Table 11.7. -/
def sepDomrst (s : State) : State :=
  checked .sep [(!s.domRun 17, 0x0D02)] (fun s => portsFail (portsWaiting s) { s with sep := { s.sep with
    resetting := true, core := [], filt := [], port := [], cur := none } }) s

/-- SEP_DOMRST (R402). -/
def execSepDomrst (s : State) : Out := done (sepDomrst s)

/-- R402: the end of a Sepia domain reset: control SRAM zero, marks cleared, core 0 starts. -/
def sepResetEnd (s : State) : State :=
  let s := { s with
    sep := { s.sep with
      resetting := false, down := false, cause := 0, agent := 0, poisoned := false, run := 1, claimed := [], msip := 0,
      sram := [], sramBad := [], core := [], filt := [], port := [], cur := none }
    dbg := { s.dbg with core := s.dbg.core.map (fun e => (e.1, { e.2 with halted := false, inMon := false })) } }
  coreLeavesReset 0 s

/-- SEP_DOMRST_DONE (R402). -/
def execSepDomrstDone (s : State) : Out := done (if s.sep.resetting then sepResetEnd s else s)

/-- R406: a write of SEP_RUN; setting a bit runs the check. -/
def sepRun (v : Byte) (s : State) : State :=
  let old := s.sep.run
  let kept := { s with sep := { s.sep with run := old &&& v } }
  if v &&& ~~~old = 0 then kept
  else match firstReason [(s.sep.down || s.sep.resetting, 0x0D01), (!s.domRun 17, 0x0D02)] with
  | some r => setReason .sep r kept
  | none =>
    if (List.range 8).any (fun c => bit v c && !bit old c && 64 < (kget 0 s.sep.owner c).toNat) then
      setReason .sep (BitVec.ofNat 16 (draw kept).1) (draw kept).2
    else
    let s := { s with sep := { s.sep with run := v } }
    (List.range 8).foldl (fun s c => if bit v c && !bit old c then coreLeavesReset c s else s) s

/-- SEP_RUN (R406). -/
def execSepRun (v : Byte) (s : State) : Out := done (sepRun v s)

/-- The lines of a control SRAM page, read as NRds on port 8. -/
def sramPage (p : Nat) : Nat → State → Option (BitVec 2048) × State
  | 0, s => (some 0, s)
  | n + 1, s =>
    match sramPage p n s with
    | (none, s) => (none, s)
    | (some d, s) =>
      match nrdNow agDbg (sramLine0 + 4 * p + n) s with
      | (none, s) => (none, s)
      | (some x, s) => (some (d ||| (x.setWidth 2048 <<< (512 * n))), s)

/-- BFL_ERR: the command failed. -/
def bflFail (s : State) : State := { s with sep := { s.sep with bfl := { s.sep.bfl with err := true } } }

/-- R377, R405, R485: program the page BFL_PAGE from the control SRAM page BFL_SRC. -/
def bflProgram (s : State) : State :=
  let p := s.sep.bflPage.toNat
  checked .sep [(s.sep.down || s.sep.resetting, 0x0D01), (s.sep.bfl.busy, 0x0D03)]
    (fun s => if s.sep.bfl.refuses p then bflFail s
      else match sramPage s.sep.bflSrc.toNat 4 s with
      | (none, s) => bflFail s
      | (some d, s) => { s with sep := { s.sep with bfl := { s.sep.bfl with op := some (.program p d) } } }) s

/-- BFL_PROGRAM. -/
def execBflProgram (s : State) : Out := done (bflProgram s)

/-- R406, R487: erase the sector that holds the page. -/
def bflErase (s : State) : State :=
  checked .sep [(s.sep.down || s.sep.resetting, 0x0D01), (s.sep.bfl.busy, 0x0D03)]
    (fun s => { s with sep := { s.sep with bfl := { s.sep.bfl with op := some (.erase (s.sep.bflPage.toNat / 16)) } } }) s

/-- BFL_ERASE. -/
def execBflErase (s : State) : Out := done (bflErase s)

-- Registers
/-- The value a SEP register holds. -/
def sepRead (off : Nat) (s : State) : W32 :=
  let x := s.sep
  if off = 0x000 then x.run.setWidth 32
  else if off = 0x004 then b2w x.down ||| (b2w x.resetting <<< 1) ||| (x.cause.setWidth 32 <<< 2) ||| (x.agent.setWidth 32 <<< 16)
  else if off = 0x00C then x.reason.setWidth 32
  else if 0x010 ≤ off ∧ off ≤ 0x018 then errWord x.errlog ((off - 0x010) / 4)
  else if 0x020 ≤ off ∧ off < 0x040 then (kget 0 x.owner ((off - 0x020) / 4)).setWidth 32
  else if 0x040 ≤ off ∧ off < 0x060 then (kget 0 x.win ((off - 0x040) / 4)).setWidth 32
  else if off = 0x060 then x.bflPage.setWidth 32
  else if off = 0x064 then x.bflSrc.setWidth 32 <<< 8
  else if off = 0x068 then b2w x.bfl.busy ||| (b2w x.bfl.err <<< 1)
  else if 0x080 ≤ off ∧ off < 0x0C0 then half (off % 8 = 4) (mtimecmpOf s ((off - 0x080) / 8))
  else if off = 0x0C0 then x.msip.setWidth 32
  else if 0x100 ≤ off ∧ off < 0x300 then kget 0 x.src ((off - 0x100) / 4)
  else if 0x300 ≤ off ∧ off < 0x320 then (threshOf s ((off - 0x300) / 4)).setWidth 32
  else if 0x320 ≤ off ∧ off < 0x360 ∧ off % 8 = 0 then (sepClaim ((off - 0x320) / 8) s).1
  else if 0x380 ≤ off ∧ off < 0x390 then
    (List.range 32).foldl (fun w b => if kget false x.pend (32 * ((off - 0x380) / 4) + b) then setBit w b true else w) 0
  else if 0x3A0 ≤ off ∧ off < 0x3AC then kget 0 x.cplRoute ((off - 0x3A0) / 4)
  else 0

/-- What a read of a SEP register changes: SEP_CLAIM claims. -/
def sepClear (off : Nat) (s : State) : State :=
  if 0x320 ≤ off ∧ off < 0x360 ∧ off % 8 = 0 then (sepClaim ((off - 0x320) / 8) s).2 else s

/-- A write of a SEP register; a pair's whole value arrives with its high word. -/
def sepWrite (off : Nat) (v : W32) (pair : W64) (s : State) : State :=
  let x := s.sep
  if off = 0x000 then sepRun (fld v 0 8) s
  else if off = 0x008 then (if bit v 0 then sepDomrst s else s)
  else if 0x020 ≤ off ∧ off < 0x040 then { s with sep := { x with owner := kset 0 x.owner ((off - 0x020) / 4) (fld v 0 7) } }
  else if 0x040 ≤ off ∧ off < 0x060 then { s with sep := { x with win := kset 0 x.win ((off - 0x040) / 4) (fld v 0 18) } }
  else if off = 0x060 then
    let s := { s with sep := { x with bflPage := fld v 0 14 } }
    if fld v 16 2 = 1 then bflProgram s else if fld v 16 2 = 2 then bflErase s else s
  else if off = 0x064 then { s with sep := { x with bflSrc := fld v 8 14 } }
  else if off = 0x068 then (if bit v 1 then { s with sep := { x with bfl := { x.bfl with err := false } } } else s)
  else if 0x080 ≤ off ∧ off < 0x0C0 ∧ off % 8 = 4 then
    let c := (off - 0x080) / 8
    let s := { s with sep := { x with mtimecmp := kset 0xFFFFFFFFFFFFFFFF x.mtimecmp c pair } }
    s.setCore c { s.coreAt c with mtip := pair.ule s.now }
  else if off = 0x0C0 then { s with sep := { x with msip := fld v 0 8 } }
  else if 0x100 ≤ off ∧ off < 0x300 then { s with sep := { x with src := kset 0 x.src ((off - 0x100) / 4) (v &&& 0xFF07) } }
  else if 0x300 ≤ off ∧ off < 0x320 then { s with sep := { x with thresh := kset 0 x.thresh ((off - 0x300) / 4) (fld v 0 3) } }
  else if 0x320 ≤ off ∧ off < 0x360 ∧ off % 8 = 4 then sepComplete v s
  else if 0x3A0 ≤ off ∧ off < 0x3AC then
    { s with sep := { x with cplRoute := kset 0 x.cplRoute ((off - 0x3A0) / 4) (if off = 0x3A8 then v &&& 1 else v) } }
  else s

end Sys2Proof.Machine
end

