-- ==== Sys2Proof/Machine/Power.lean ====
section
/-!
DEFINITION. Power domains and chip states, resets, the release sequence, the surroundings table, shared-resource ownership,
telemetry and supplies, and the GLB and PWR registers (chapters 00, 16 and 18).
-/
namespace Sys2Proof.Machine

-- Pins and hold latches (R26, R559)
/-- The hold latch of pin `p` captures the drive that the pin has; a serial port's level is a free value. -/
def captureOne (s : State) (p : Nat) : State :=
  if pinHeld s p then s
  else
    let r := match pinDrive s p with
      | some x => (x, s)
      | none => let d := draw s; (BitVec.ofNat 2 (d.1 % 3), d.2)
    { r.2 with glb := { r.2.glb with hold := kset 2 r.2.glb.hold p r.1 } }

/-- The hold latches of some pins capture. -/
def capture (ps : List Nat) (s : State) : State := ps.foldl captureOne s
/-- The pins of bank `b`. -/
def bankPins (b : Nat) : List Nat := (List.range 48).map (· + 48 * b)

-- Parts of a reset
/-- The DBG block after a reset: the session, the line, HOR and the patch units are outside it (R516, R527, R544). -/
def dbgReset (d : Dbg) (patch : Bool) : Dbg :=
  { hor := d.hor, session := d.session, lineHigh := d.lineHigh, oscOn := d.oscOn,
    patch := if patch then d.patch else [], patchRam := if patch then d.patchRam else [],
    patchBad := if patch then d.patchBad else [] }

/-- The PLANT block after a reset: the force registers and the trip are in the always-on domain (R492, R505). -/
def plantReset (p : Plant) : Plant :=
  { force := p.force, filtEn := p.filtEn, latch := p.latch, disarm := p.disarm, tripPin := p.tripPin,
    tripLatched := p.tripLatched, tripUnseen := p.tripUnseen }

/-- Table 16.6, the row of the scheduler, engines, Quills, sync objects, plant bindings and cipher keys, with the other
registers of the host domain. -/
def serviceReset (patch : Bool) (s : State) : State :=
  { s with
    tk := {}, ls := {}, sched := { nextKey := s.sched.nextKey }, sync := [], syncWr := [], ink := {}, coll := {}, kl := {}
    plant := plantReset s.plant, dbg := dbgReset s.dbg patch, pq := [], part := [], xing := [], latch := [], inbox := []
    swapBuf := [], placed := [], rdLatch := [], wrLatch := [], svc := false }

/-- The Vellum core after a reset: its flashes, the information sector and the bank supplies stay (R456). -/
def velCoreReset (s : State) : State :=
  let (cfl, s) := flashReset s.vel.cfl s
  let (ufl, s) := flashReset s.vel.ufl s
  { s with vel := {
      cfl := cfl, ufl := ufl, prim := s.vel.prim, golden := s.vel.golden, lock := s.vel.lock, infoGen := s.vel.infoGen,
      bankBad := s.vel.bankBad, recovery := s.vel.recovery, bootsrc := s.vel.bootsrc, bootDue := true } }

/-- The Sepia domain after a chip reset: the boot flash stays. -/
def sepReset (s : State) : State :=
  let (bfl, s) := flashReset s.sep.bfl s
  { s with sep := { bfl := bfl, run := 1 } }

/-- R560, R561: a chip reset: 1 external, 2 PERST#, 3 hot, 4 warm (LAST_RESET). -/
def chipReset (kind : BitVec 3) (s : State) : State :=
  let s := capture (List.range 192) s
  let off := fun (d : Nat) => (s.domAt d).st == .gated || (s.domAt d).st == .waking
  let lost := off 23
  let madLost := off 40
  let s := sepReset (velCoreReset (serviceReset (kind ≠ 1) s))
  { s with
    now := if kind = 1 then 0 else s.now
    vel := { s.vel with bootDue := false, recovery := false }
    mad := if madLost then {} else s.mad
    hbm := if lost then {} else { s.hbm with selfRef := s.hbm.trained || s.hbm.selfRef, trained := false }
    host := if kind = 4 then { s.host with bar4Base := 0, irqEn := 0, irqStat := 0, errcnt := 0 }
      else { out := s.host.out, bar4Log := s.host.bar4Log }
    pwr := { wall := s.pwr.wall, cause := s.pwr.cause }
    glb := { s.glb with
      surrEn := false, reason := 0, own := 0, recovery := false, lastReset := kind, longHold := false,
      resetHeld := kind = 1 || kind = 2, errlog := {}, shadow := [], active := [], atReset := true,
      perst := s.glb.perst || kind = 2 } }

/-- Power-on reset (R560): the flashes meet R486 and R487, the pins keep their levels. -/
def powerOnReset (s : State) : State :=
  let (cfl, s) := flashPower s.vel.cfl s
  let (ufl, s) := flashPower s.vel.ufl s
  let (bfl, s) := flashPower s.sep.bfl s
  { State.reset with
    pending := s.pending, fresh := s.fresh, rsp := s.rsp
    glb := { fusedOff := s.glb.fusedOff, strapCfg := s.glb.strapCfg, strapSrc := s.glb.strapSrc, rstcfg := s.glb.strapCfg, xtal := s.glb.xtal
             resetHeld := !s.dbg.lineHigh && !s.glb.strapCfg }
    sep := { run := 1, bfl := { bfl with scanned := false } }
    vel := { cfl := { cfl with scanned := false }, ufl := { ufl with scanned := false }, prim := s.vel.prim, golden := s.vel.golden, lock := s.vel.lock,
             infoGen := s.vel.infoGen, bankBad := s.vel.bankBad }
    plant := { tripPin := s.plant.tripPin, tripLatched := s.plant.tripPin, tripUnseen := s.plant.tripPin }
    dbg := { lineHigh := s.dbg.lineHigh }
    host := { out := s.host.out, bar4Log := s.host.bar4Log } }

/-- POWER_ON_RESET (R560, R565). -/
def execPowerOnReset (s : State) : Out := done (powerOnReset s)

/-- EXTERNAL_RESET (R562, R564): DBGRST_N, with RSTCFG = 0. -/
def execExternalReset (s : State) : Out := done (if s.glb.rstcfg then s else chipReset 1 s)

/-- EXTERNAL_RESET_RELEASE (R563, R565): DBGRST_N releases reset; a long hold gives a recovery boot. -/
def execExternalResetRelease (s : State) : Out :=
  done (if s.glb.resetHeld ∧ s.glb.lastReset.toNat ≤ 1 then
    { s with
      glb := { s.glb with resetHeld := false, recovery := s.glb.longHold, bootsrc := s.glb.strapSrc }
      vel := { s.vel with recovery := s.glb.longHold, bootsrc := s.glb.strapSrc } }
  else s)

/-- LONG_HOLD (R563, R564, R623): the hold passes 10.0 s of periods of the running crystal. -/
def execLongHold (s : State) : Out :=
  done (if s.glb.xtal ∧ s.glb.resetHeld ∧ (if s.glb.rstcfg then s.glb.perst else s.glb.lastReset.toNat ≤ 1) then
    { s with glb := { s.glb with longHold := true } } else s)

/-- HOST_RESET (R560): PERST# assertion, or a PCIe hot reset. -/
def execHostReset (hot : Bool) (s : State) : Out := done (chipReset (if hot then 3 else 2) s)

/-- WARM (R566): GLB_RST is in the host domain. -/
def execWarm (s : State) : Out := done (if s.domRun 40 then chipReset 4 s else s)

/-- R566: GLB_RST.VEL_FABRIC. -/
def velFabric (s : State) : State := checked .glb [(s.vel.release, 0x0109)] velCoreReset s
/-- VEL_FABRIC (R566). -/
def execVelFabric (s : State) : Out := done (velFabric s)

/-- R568, R569: the release sequence of Table 16.8. -/
def releasePoint (s : State) : State :=
  if s.glb.atReset && !(s.glb.resetHeld && s.glb.lastReset.toNat ≤ 1) then
    let rec_ := s.glb.recovery || (s.glb.rstcfg && s.glb.longHold)
    let s := { s with
      glb := { s.glb with
        atReset := false, perst := false, resetHeld := false, bootsrc := s.glb.strapSrc, recovery := rec_ }
      vel := { s.vel with bootDue := true, bootsrc := s.glb.strapSrc, recovery := rec_ } }
    coreLeavesReset 0 (if s.glb.lastReset = 0 || !s.mad.started then madStart s else s)
  else s

/-- RELEASE_POINT (R568). -/
def execReleasePoint (s : State) : Out := done (releasePoint s)

-- Domains (R549 to R555)
/-- The Quills of column domain `d`: mesh column d - 1 (R7). -/
def columnQuills (d : Nat) : List Nat := (List.range 16).map (fun r => 16 * r + (d - 1))

/-- Table 16.3, in its order. -/
def gateChecks (s : State) (d : Nat) : List (Bool × W16) :=
  let st := (s.domAt d).st
  [(d = 0 || d = 40 || st == .drain || st == .waking, 0x0C01),
   (1 ≤ d && d ≤ 16 && ((columnQuills d).any (fun q => (s.pqAt q).res.isSome) ||
      s.part.any (fun e => e.2.st == .placing)), 0x0C03),
   (d = 17 && s.sep.run ≠ 0, 0x0C04),
   ((d = 18 && s.vel.release) || (19 ≤ d && d ≤ 22 && s.vel.release && bankUsed s (d - 19)), 0x0C05),
   (d = 23 && s.ink.enable, 0x0C06),
   (24 ≤ d && d ≤ 39 && bit s.kl.enable (d - 24), 0x0C07)]

/-- R552: a write of 1 to PWR_DOMd.REQ. -/
def gateRequest (d : Nat) (s : State) : State :=
  match firstReason (gateChecks s d) with
  | some r => setReason .pwr r (s.setDom d { s.domAt d with req := false })
  | none =>
    let x := s.domAt d
    s.setDom d { x with req := true, st := if x.st = .run then .drain else x.st }

/-- DOMAIN_GATE_REQUEST (R552). -/
def execDomainGateRequest (d : BitVec 6) (s : State) : Out :=
  done (if d.toNat ≤ 40 ∧ s.pwr.state = 0 ∧ s.pwr.going = 0 then gateRequest d.toNat s else s)

/-- R552: a write of 0 to PWR_DOMd.REQ. -/
def runRequest (d : Nat) (s : State) : State :=
  let x := s.domAt d
  s.setDom d { x with req := false, st := if x.st = .gated ∧ !x.byState then .waking else x.st }

/-- DOMAIN_RUN_REQUEST (R552, R555). -/
def execDomainRunRequest (d : BitVec 6) (s : State) : Out :=
  done (if d.toNat ≤ 40 ∧ s.pwr.state = 0 ∧ s.pwr.going = 0 then runRequest d.toNat s else s)

/-- R556: the kinds of domains in their order of gating. -/
def kinds (keepalive : Bool) : List (List Nat) :=
  [(List.range 16).map (· + 1), (List.range 16).map (· + 24), [23], [17], [40]] ++ (if keepalive then [[19, 20, 21, 22], [18]] else [])

/-- R557: the next kind of domains that the state gated begins to wake. -/
def wakeNext (s : State) : State :=
  match (kinds true).reverse.find? (fun k => k.any (fun d => (s.domAt d).byState)) with
  | none => s
  | some k => k.foldl (fun s d =>
      let x := s.domAt d
      if x.byState && x.st == .gated then s.setDom d { x with st := .waking } else s) s

/-- R557, R82: the chip returns to FULL; the counter resumes. -/
def wakeChip (ev : BitVec 5) (wall : W64) (s : State) : State :=
  let w := (wall - s.pwr.savedWall).toNat
  let s := { s with
    now := s.pwr.savedTick + BitVec.ofNat 64 (w * 390625 / 16)
    pwr := { s.pwr with state := 0, cause := ev, waitWake := 0, wall := wall } }
  wakeNext s

/-- R82: the 32.768 kHz wall counter counts on by itself: a free number of periods has passed (log entry 151). -/
def wallOn (s : State) : State :=
  let d := draw s
  { d.2 with pwr := { d.2.pwr with wall := d.2.pwr.wall + BitVec.ofNat 64 d.1 } }

/-- R556: the first kind not yet wholly gated drains; with none left the chip state is reached. -/
def gateNext (s : State) : State :=
  match (kinds (s.pwr.going = 2)).find? (fun k => k.any (fun d => (s.domAt d).st != .gated)) with
  | some k => k.foldl (fun s d =>
      let x := s.domAt d
      if x.st == .run || x.st == .waking then s.setDom d { x with st := .drain, byState := true } else s) s
  | none =>
    let ev := s.pwr.waitWake
    let s := wallOn s
    let s := { s with
      pwr := { s.pwr with state := s.pwr.going, going := 0, savedTick := s.now, savedWall := s.pwr.wall, waitWake := 0 } }
    let ev := if s.pwr.state = 1 then ev else ev &&& 0xF
    if ev ≠ 0 then
      let s := wallOn s
      wakeChip ev s.pwr.wall s
    else s

/-- DOMAIN_DRAINED (R554): isolation clamps close; a bank's pins go to their hold latches (R559). -/
def execDomainDrained (d : BitVec 6) (s : State) : Out :=
  let n := d.toNat
  let x := s.domAt n
  done (if x.st = .drain ∧ x.inflight = 0 then
    let s := if 19 ≤ n ∧ n ≤ 22 then capture (bankPins (n - 19)) s else s
    let s := s.setDom n { x with st := if x.byState || x.req then .gated else .waking }
    let s := if n = 40 then { s with host := { s.host with speed := 0, width := 0 } } else s
    if s.pwr.going ≠ 0 then gateNext s else s
  else s)

/-- The host domain on reaching RUN from GATED (Table 16.4). -/
def hostWakes (s : State) : State :=
  let s := serviceReset true s
  let s := { s with
    host := { out := s.host.out, bar4Log := s.host.bar4Log }
    glb := { s.glb with reason := 0, errlog := {}, shadow := [] } }
  present (List.range 64) (madStart s)

/-- Table 16.4: the state in which domain `d` reaches RUN. -/
def domReaches (d : Nat) (s : State) : State :=
  if 1 ≤ d ∧ d ≤ 16 then (columnQuills d).foldl (fun s q => s.setPq q {}) s
  else if d = 17 then sepResetEnd s
  else if d = 18 then velCoreReset s
  else if d = 23 then { s with hbm := {} }
  else if 24 ≤ d ∧ d ≤ 39 then s.setLink (d - 24) {}
  else if d = 40 then hostWakes s
  else s

/-- DOMAIN_WAKE_DONE (R555, R557). -/
def execDomainWakeDone (d : BitVec 6) (s : State) : Out :=
  let n := d.toNat
  let x := s.domAt n
  done (if x.st = .waking then
    let s := domReaches n (s.setDom n { x with st := .run, byState := false })
    let s := if n = 40 then { s with tk := { s.tk with resumed := true } } else s
    if x.byState ∧ !((kinds true).any (fun k => k.contains n && k.any (fun d => (s.domAt d).byState))) then wakeNext s else s
  else s)

-- Chip states (R556, R557)
/-- R556: a request for PLANT-ONLY (1) or KEEPALIVE (2). -/
def stateRequest (v : BitVec 2) (s : State) : State :=
  checked .pwr
    [(v ≠ 1 && v ≠ 2, 0x0C0B), (anyCtx s, 0x0C08), (s.ink.enable || s.kl.enable ≠ 0 || s.tk.syncEn, 0x0C09),
     (s.plant.armed ≠ 0, 0x0C0A), (s.sep.run ≠ 0, 0x0C04)]
    (fun s => gateNext { s with pwr := { s.pwr with going := v, waitWake := 0 } }) s

/-- PLANT_ONLY_REQUEST (R556). -/
def execPlantOnlyRequest (s : State) : Out := done (if s.pwr.state = 0 ∧ s.pwr.going = 0 then stateRequest 1 s else s)
/-- KEEPALIVE_REQUEST (R556). -/
def execKeepaliveRequest (s : State) : Out := done (if s.pwr.state = 0 ∧ s.pwr.going = 0 then stateRequest 2 s else s)

/-- WAKE_EVENT (R557): the events `e` occur when the wall counter reads `wall`. -/
def execWakeEvent (e : BitVec 5) (wall : W64) (s : State) : Out :=
  let ev := e &&& s.pwr.wakeEn
  done (if s.pwr.therm then s
    else if s.pwr.going ≠ 0 then { s with pwr := { s.pwr with waitWake := s.pwr.waitWake ||| ev, wall := wall } }
    else if s.pwr.state = 0 then s
    else
      let ev := if s.pwr.state = 1 then ev else ev &&& 0xF
      if ev = 0 then s else wakeChip ev wall s)

/-- SUPPLY_FAULT (R570): power-on reset of the domains the supply feeds; VDD_AON feeds the whole chip. -/
def supplyOne (s : State) (d : BitVec 6) : State :=
  let n := d.toNat
  if n = 17 then let (f, s) := flashPower s.sep.bfl s; domReaches 17 { s with sep := { s.sep with bfl := f } }
  else if n = 18 then
    let (c, s) := flashPower s.vel.cfl s
    let (u, s) := flashPower s.vel.ufl s
    domReaches 18 { s with vel := { s.vel with cfl := c, ufl := u } }
  else if 24 ≤ n ∧ n ≤ 39 then
    domReaches n { s with kl := { s.kl with enable := setBit s.kl.enable (n - 24) false } }
  else domReaches n s

/-- SUPPLY_FAULT (R570). -/
def execSupplyFault (doms : List (BitVec 6)) (s : State) : Out :=
  done (if doms.contains 0 then powerOnReset s else doms.foldl supplyOne s)

-- The surroundings table (R571 to R574)
/-- Table 16.9: byte `i` of the window is assigned by the table. -/
def surrAssigned (i : Nat) : Bool :=
  i < 2 || (0x10 ≤ i && i < 0x40 && i % 8 < 4) || (0x40 ≤ i && i < 0x44) || (0x50 ≤ i && i < 0x64) || (0x400 ≤ i && i < 0x900)

/-- R491: byte `i` of the plant section holds nothing undefined. -/
def plantByteOk (i : Nat) (b : Byte) : Bool :=
  if i < 192 then b &&& 0xF8 == 0
  else if i = 0xC0 then b &&& 0xF8 == 0
  else if i < 0x100 then b == 0
  else if i % 16 < 12 then true
  else if i % 16 = 12 then b &&& 0xF8 == 0 && fld b 1 2 != 3
  else b == 0

/-- R573: the checks of a snapshot `t` of the window, in order. -/
def surrChecks (t : KMap Byte) : List (Bool × W16) :=
  let b := fun i => kget 0 t i
  let dims := [b 0x40, b 0x41, b 0x42]
  [(b 0 ≠ 1 || b 1 ≠ 0 || t.any (fun e => !surrAssigned e.1), 0x0101),
   ((List.range 6).any (fun k => b (0x10 + 8 * k) &&& 0xFE ≠ 0 || 3 < (b (0x12 + 8 * k)).toNat || 3 < (b (0x13 + 8 * k)).toNat), 0x0102),
   (dims.any (fun d => d.toNat < 1 || 16 < d.toNat) ||
     (List.range 16).any (fun l => b (0x50 + l) &&& 0xF0 ≠ 0 || fld (b (0x50 + l)) 1 2 = 3), 0x0103),
   (let w := (b 0x60).toNat + 256 * (b 0x61).toNat; w < 20 || 230 < w, 0x0104),
   (125 < (b 0x62).toNat || 125 < (b 0x63).toNat || (b 0x63).toNat ≤ (b 0x62).toNat, 0x0105),
   (t.any (fun e => 0x400 ≤ e.1 && e.1 < 0x900 && !plantByteOk (e.1 - 0x400) e.2), 0x0A06)]

/-- R571, R492: the snapshot becomes the active table. -/
def surrTake (s : State) : State :=
  present (List.range 64) (copyForce { s with glb := { s.glb with active := s.glb.shadow } })

/-- R573: setting SURR_ENABLE. -/
def surrSet (s : State) : State :=
  if s.glb.surrEn then s
  else checked .glb (surrChecks s.glb.shadow) (fun s => surrTake { s with glb := { s.glb with surrEn := true } }) s

/-- SURR_ENABLE_SET (R573). -/
def execSurrEnableSet (s : State) : Out := done (surrSet s)

/-- R574: clearing SURR_ENABLE. -/
def surrClear (s : State) : State :=
  if s.glb.surrEn then
    checked .glb [(anyCtx s || s.ink.enable || s.kl.enable ≠ 0 || s.tk.syncEn || s.vel.release || s.plant.armed ≠ 0, 0x0108)]
      (fun s => { s with glb := { s.glb with surrEn := false } }) s
  else s

/-- SURR_ENABLE_CLEAR (R574). -/
def execSurrEnableClear (s : State) : Out := done (surrClear s)

/-- Two tables differ on bytes `lo` to `hi - 1`. -/
def surrDiffers (a b : KMap Byte) (lo hi : Nat) : Bool :=
  kread 0 a lo (hi - lo) != kread 0 b lo (hi - lo)

/-- R573: APPLY. -/
def surrApply (s : State) : State :=
  let g := s.glb
  if !g.surrEn then s
  else match firstReason (surrChecks g.shadow ++
      [(s.ink.enable && surrDiffers g.shadow g.active 0x10 0x40, 0x0106),
       ((s.kl.enable ≠ 0 || s.tk.syncEn) && surrDiffers g.shadow g.active 0x40 0x60, 0x0107)]) with
  | some r => logErr .glb 0x0181 agHost 0 (setReason .glb r s)
  | none => surrTake s

/-- APPLY (R573). -/
def execApply (s : State) : Out := done (surrApply s)

-- Ownership (R576)
/-- The owner fields of GLB_OWN in use by their current owners. -/
def ownBusy (s : State) : BitVec 11 :=
  (List.range 11).foldl (fun w i =>
    let busy := if i < 6 then sportEn s i else if i = 8 then s.vel.ufl.busy else if i = 9 then s.vel.irp == .opened
      else if i = 10 then s.dbg.vtTx.isSome || s.dbg.vtRx.isSome else false
    if busy then setBit w i true else w) 0

/-- R576: a write of GLB_OWN. -/
def glbOwnWrite (v : W32) (s : State) : State :=
  let new : BitVec 11 := fld v 0 11 &&& 0x73F
  checked .glb [((new ^^^ s.glb.own) &&& ownBusy s ≠ 0, 0x0111)] (fun s => { s with glb := { s.glb with own := new } }) s

/-- GLB_OWN_WRITE (R576). -/
def execGlbOwnWrite (v : W32) (s : State) : Out := done (glbOwnWrite v s)

-- Telemetry, background work and supplies
/-- BOARD_LIMIT, TJ_WARN and TJ_SHUT of the active table. -/
def boardLimit (s : State) : Nat := (s.surrByte 0x60).toNat + 256 * (s.surrByte 0x61).toNat
def tjWarn (s : State) : Int := (s.surrByte 0x62).toNat
def tjShut (s : State) : Int := (s.surrByte 0x63).toNat

/-- R581: thermal shutdown. -/
def thermalShutdown (s : State) : State :=
  let s := wallOn (capture (List.range 192) s)
  let s := (List.range 40).foldl (fun s i => s.setDom (i + 1) { s.domAt (i + 1) with st := .gated, byState := true }) s
  let s := { s with
    xing := [], latch := [], inbox := [], swapBuf := []
    host := { s.host with speed := 0, width := 0 }
    pwr := { s.pwr with state := 2, going := 0, therm := true, savedTick := s.now, savedWall := s.pwr.wall } }
  logErr .pwr 0x0C83 agDbg 0 s

/-- R579: the power average `p`, in 0.1 W. -/
def powerSample (p : W16) (s : State) : State :=
  let s := { s with pwr := { s.pwr with power := p } }
  if 10 * boardLimit s < p.toNat then
    logErr .pwr 0x0C81 agDbg 0 { s with pwr := { s.pwr with overLimit := true, thrPower := true, calm := 0 } }
  else if s.pwr.thrPower then
    if p.toNat * 100 ≤ 95 * (10 * boardLimit s) then
      { s with pwr := { s.pwr with calm := s.pwr.calm + 1, thrPower := s.pwr.calm + 1 < 10 } }
    else { s with pwr := { s.pwr with calm := 0 } }
  else s

/-- R580: the temperatures of the sensors. -/
def tempSample (ts : List Byte) (s : State) : State :=
  let s := { s with pwr := { s.pwr with temp := (List.range 8).foldl (fun m i => kset 0 m i (ts.getD i 0)) s.pwr.temp } }
  if ts.any (fun t => decide (tjWarn s < t.toInt)) then
    logErr .pwr 0x0C82 agDbg 0 { s with pwr := { s.pwr with tjWarn := true, thrTemp := true } }
  else if s.pwr.thrTemp && ts.all (fun t => decide (t.toInt ≤ tjWarn s - 5)) then { s with pwr := { s.pwr with thrTemp := false } }
  else s

/-- TELEMETRY_SAMPLE (R579 to R581): limits hold while a table is active. -/
def execTelemetrySample (power : W16) (temps : List Byte) (s : State) : Out :=
  done (if s.pwr.state ≠ 0 ∨ temps.length ≠ 8 then s
    else if !s.glb.surrEn then
      { s with pwr := { s.pwr with power := power,
                                   temp := (List.range 8).foldl (fun m i => kset 0 m i (temps.getD i 0)) s.pwr.temp } }
    else
      let s := tempSample temps (powerSample power s)
      if temps.any (fun t => decide (tjShut s ≤ t.toInt)) then thermalShutdown s else s)

/-- BACKGROUND_STARVATION (R578): the sequencer pauses for one tick, and the waiting work takes it. -/
def execBackgroundStarvation (q : Byte) (s : State) : Out :=
  let p := s.pqAt q.toNat
  done (if p.bgPend ∧ 1024 ≤ p.bgWait then s.setPq q.toNat { p with bgWait := 0, paused := true } else s)

/-- VCCIO_FAULT (R621). -/
def execVccioFault (b : BitVec 2) (s : State) : Out :=
  done (logErr .vel 0x098B agVel (b.setWidth 48) { s with vel := { s.vel with bankBad := kset false s.vel.bankBad b.toNat true } })

/-- VCCIO_RESTORED (R621). -/
def execVccioRestored (b : BitVec 2) (s : State) : Out :=
  done { s with vel := { s.vel with bankBad := kset false s.vel.bankBad b.toNat false } }

/-- HBM_TRAINING_DONE (R569). -/
def execHbmTrainingDone (s : State) : Out :=
  done (if s.ink.enable ∧ s.domRun 23 then { s with hbm := { s.hbm with trained := true, selfRef := false } } else s)

/-- XTAL32_START (R623). -/
def execXtal32Start (s : State) : Out := done { s with glb := { s.glb with xtal := true } }

-- Registers (Tables 00.4 to 00.6, 01.5, 01.6, 16.12, 16.13)
/-- R18: TILES_EN, the number of enabled physical Quills. -/
def tilesEn (s : State) : Nat := ((List.range 256).filter (fun q => !bit s.glb.fusedOff q)).length

/-- Word at byte `o` of a table window. -/
def surrWin (t : KMap Byte) (o : Nat) : W32 := leWord 32 (kread 0 t o 4)

/-- The value a GLB register holds. -/
def glbRead (off : Nat) (s : State) : W32 :=
  let g := s.glb
  if off = 0x000 then idcodeVal
  else if off = 0x004 then (b2w (g.fusedOff != 0) <<< 12) ||| BitVec.ofNat 32 (tilesEn s)
  else if off = 0x008 then 0x08104640
  else if off = 0x00C then 0x0100C040
  else if 0x010 ≤ off ∧ off < 0x030 then ~~~(fld g.fusedOff (8 * (off - 0x010)) 32)
  else if off = 0x030 then b2w g.surrEn
  else if off = 0x034 then g.reason.setWidth 32
  else if off = 0x038 then g.own.setWidth 32
  else if off = 0x040 then
    b2w g.recovery ||| (b2w g.rstcfg <<< 1) ||| (g.bootsrc.setWidth 32 <<< 2) ||| (g.lastReset.setWidth 32 <<< 4) |||
    (b2w g.longHold <<< 8) ||| (b2w g.resetHeld <<< 9)
  else if 0x050 ≤ off ∧ off ≤ 0x058 then errWord g.errlog ((off - 0x050) / 4)
  else if 0x1000 ≤ off ∧ off < 0x2000 then surrWin g.shadow (off - 0x1000)
  else if 0x2000 ≤ off ∧ off < 0x3000 then surrWin g.active (off - 0x2000)
  else 0

/-- A write of a GLB register. -/
def glbWrite (off : Nat) (v : W32) (s : State) : State :=
  if off = 0x030 then
    let on := s.glb.surrEn
    let s := if bit v 0 then surrSet s else surrClear s
    if bit v 1 && on then surrApply s else s
  else if off = 0x038 then glbOwnWrite v s
  else if off = 0x03C then
    if fld v 8 8 = 0x5E then
      let s := if bit v 1 then velFabric s else s
      if bit v 0 then chipReset 4 s else s
    else s
  else if 0x1000 ≤ off ∧ off < 0x2000 then
    { s with glb := { s.glb with shadow := kbytes 0 s.glb.shadow (off - 0x1000) (wordBytes 4 v) } }
  else s

/-- The number of a domain state. -/
def DomSt.num : DomSt → W32 | .run => 0 | .drain => 1 | .gated => 2 | .waking => 3

/-- The value a PWR register holds. -/
def pwrRead (off : Nat) (s : State) : W32 :=
  let p := s.pwr
  if off = 0x000 then p.state.setWidth 32 ||| (b2w p.therm <<< 8)
  else if off = 0x004 then p.wakeEn.setWidth 32
  else if off = 0x008 then p.cause.setWidth 32
  else if off = 0x00C then p.reason.setWidth 32
  else if 0x010 ≤ off ∧ off ≤ 0x018 then errWord p.errlog ((off - 0x010) / 4)
  else if off = 0x020 ∨ off = 0x024 then half (off = 0x024) p.alarm
  else if off = 0x028 ∨ off = 0x02C then half (off = 0x02C) p.wall
  else if 0x040 ≤ off ∧ off ≤ 0x0E0 then
    let d := s.domAt ((off - 0x040) / 4)
    b2w d.req ||| (d.st.num <<< 8) ||| (d.inflight.setWidth 32 <<< 16)
  else if 0x100 ≤ off ∧ off < 0x120 then (kget 0 p.temp ((off - 0x100) / 4)).setWidth 32
  else if off = 0x120 then p.power.setWidth 32
  else if off = 0x124 then b2w p.overLimit ||| (b2w p.tjWarn <<< 1)
  else 0

/-- A write of a PWR register; a pair's whole value arrives with its high word. -/
def pwrWrite (off : Nat) (v : W32) (pair : W64) (s : State) : State :=
  if off = 0x000 then (if s.pwr.state = 0 ∧ s.pwr.going = 0 then stateRequest (fld v 4 2) s else s)
  else if off = 0x004 then { s with pwr := { s.pwr with wakeEn := fld v 0 5 } }
  else if off = 0x024 then { s with pwr := { s.pwr with alarm := pair } }
  else if 0x040 ≤ off ∧ off ≤ 0x0E0 then
    if s.pwr.state = 0 ∧ s.pwr.going = 0 then
      (if bit v 0 then gateRequest ((off - 0x040) / 4) s else runRequest ((off - 0x040) / 4) s)
    else s
  else if off = 0x124 then
    { s with pwr := { s.pwr with overLimit := s.pwr.overLimit && !bit v 0, tjWarn := s.pwr.tjWarn && !bit v 1 } }
  else s

end Sys2Proof.Machine
end

