-- ==== Sys2Proof/Machine/Hbm.lean ====
section
/-!
DEFINITION. HBM: the page-owner check, per-owner keys, lines with check bits, the walker and its cache, the HBM page cache,
refresh and patrol, and the INK registers (chapter 07, R587 and R590).
-/
namespace Sys2Proof.Machine

/-- R245: HBM ends here. -/
def hbmTop : Nat := 0x1800000000
def granuleOf (a : Nat) : Nat := a / 0x200000
/-- R265: the owner of a granule. -/
def State.granuleOwner (s : State) (g : Nat) : Owner := kget 0x7F s.ink.pageOwner g

/-- Inkwell accesses are served: enabled, trained, and the PHY in RUN (R569). -/
def hbmUp (s : State) : Bool := s.ink.enable && s.hbm.trained && s.domRun 23

/-- R265, R268: the error of an access to the line of address `a` for owner `o`. -/
def hbmGate (o : Owner) (a : Nat) (s : State) : Option W16 :=
  if hbmTop ≤ a ∨ o = 0x7F ∨ s.granuleOwner (granuleOf a) ≠ o then some 0x0580
  else if (s.ownAt o.toNat).key.isNone then some 0x0585
  else none

/-- The key generation an owner holds; 0 stands for none. -/
def State.keyOf (s : State) (o : Owner) : Nat := ((s.ownAt o.toNat).key).getD 0

/-- An access that failed: the code of the FAULT and the logged address. -/
structure MemErr where
  code : W16
  addr : BitVec 48
deriving DecidableEq, Repr

/-- The pair of keys of a generation. -/
def Hbm.keyPair (h : Hbm) (k : Nat) : KeyPair := kget ([], []) h.keys k

/-- R268, R269: line `n` as it is stored, and as a reader under key generation `k` deciphers it; a reader without a key
(generation 0) sees it as stored. -/
def Hbm.stored (n : Nat) (h : Hbm) : List Byte := xtsEnc (h.keyPair (kget 0 h.key n)) n (kread 0 h.mem (64 * n) 64)
def Hbm.lineAs (k n : Nat) (h : Hbm) : List Byte := if k = 0 then h.stored n else xtsDec (h.keyPair k) n (h.stored n)

/-- R268: byte `b` of address `a` as a reader under key generation `k` sees it: the plaintext under its own key; a line never
written reads as it stands (log entries 3 and 65). -/
def cipherSee (k a : Nat) (h : Hbm) (b : Byte) : Byte :=
  let g := kget 0 h.key (a / 64)
  if g = k ∨ g = 0 then b else (h.lineAs k (a / 64)).getD (a % 64) 0

/-- `n` bytes at `a` as deciphered under key generation `k`. -/
def hbmBytes (k a n : Nat) (h : Hbm) : List Byte := ((kread 0 h.mem a n).zipIdx a).map (fun e => cipherSee k e.2 h e.1)

/-- The check-bit entries of the lines that hold `n` bytes at `a` (R246, R270). -/
def hbmChecks (a n : Nat) (h : Hbm) : List (Nat × Ecc) :=
  h.ecc.filter (fun e => a / 64 ≤ e.1 / 8 && e.1 / 8 ≤ (a + n - 1) / 64)

/-- R270: count corrections and uncorrectable words. -/
def eccCount (es : List (Nat × Ecc)) (s : State) : State :=
  es.foldl (fun s e => if e.2 = .corr then { s with ink := { s.ink with corr := satInc s.ink.corr } }
    else { s with ink := { s.ink with uncorr := satInc s.ink.uncorr } }) s

/-- The addresses at which an access enters each line it touches. -/
def linesOf (a n : Nat) : List Nat := (List.range ((a + n - 1) / 64 - a / 64 + 1)).map (fun i => max a (64 * (a / 64 + i)))

/-- R245, R273: the controllers of the stacks that hold the lines serve foreground work on this tick. -/
def useStacks (ls : List Nat) (s : State) : State :=
  { s with ink := { s.ink with busy := ls.foldl (fun b a => kset false b (a / 256 % 6) true) s.ink.busy } }

/-- A failed access, which the G1 logs. -/
def memFail {α : Type} (code : W16) (ag : Agent) (a : Nat) (s : State) : Except MemErr α × State :=
  (.error { code := code, addr := BitVec.ofNat 48 a }, logErr .ink code ag (BitVec.ofNat 48 a) s)

/-- A read of `n` bytes at `a` for owner `o` by agent `ag`. -/
def hbmRead (o : Owner) (ag : Agent) (a n : Nat) (s : State) : Except MemErr (List Byte) × State :=
  match (linesOf a n).findSome? (fun l => (hbmGate o l s).map (fun c => (c, l))) with
  | some (c, l) => memFail c ag l s
  | none =>
    let es := hbmChecks a n s.hbm
    let s := useStacks (linesOf a n) (eccCount es s)
    match es.find? (fun e => e.2 == .bad) with
    | some e => memFail 0x0581 ag (8 * e.1) s
    | none => (.ok (hbmBytes (s.keyOf o) a n s.hbm), s)

/-- Write bytes inside one line under key generation `k` (R246): a write of part of the line merges. -/
def hbmLineWrite (k a : Nat) (d : List Byte) (h : Hbm) : Hbm :=
  let l := a / 64
  let whole := a % 64 = 0 ∧ d.length = 64
  let old := if whole then [] else hbmBytes k (64 * l) 64 h
  { h with
    mem := kbytes 0 (if whole then h.mem else kbytes 0 h.mem (64 * l) old) a d
    key := kset 0 h.key l k
    ecc := kfilter (fun w _ => w / 8 != l) h.ecc }

/-- R274: a higher-numbered Inkwell than `i` has written byte `a` on this tick: its data remains. -/
def overtaken (i a : Nat) (s : State) : Bool := decide (i + 1 < kget 0 s.ink.lineBy a)

/-- R274: what remains of a write of `d` at `a` by Inkwell `i`, and the note that it has written. -/
def surviving (i key a : Nat) (d : List Byte) (s : State) : List Byte :=
  if (List.range d.length).any (fun j => overtaken i (a + j) s) then
    List.zipWith (fun (x : Byte × Nat) o => if overtaken i x.2 s then o else x.1) (d.zipIdx a) (hbmBytes key a d.length s.hbm)
  else d
def noteWrite (i a n : Nat) (s : State) : State :=
  let by_ := (List.range n).map (fun j => max (kget 0 s.ink.lineBy (a + j)) (i + 1))
  { s with ink := { s.ink with lineBy := kbytes 0 s.ink.lineBy a by_ } }

/-- R246: a write inside one line by Inkwell `i`; an uncorrectable word stops a partial one. -/
def hbmWriteLine (i : Nat) (o : Owner) (ag : Agent) (a : Nat) (d : List Byte) (s : State) : Option MemErr × State :=
  match hbmGate o a s with
  | some c => (some { code := c, addr := BitVec.ofNat 48 a }, logErr .ink c ag (BitVec.ofNat 48 a) s)
  | none =>
    let es := if a % 64 = 0 ∧ d.length = 64 then [] else hbmChecks (64 * (a / 64)) 64 s.hbm
    let s := useStacks [a] (eccCount es s)
    match es.find? (fun e => e.2 == .bad) with
    | some e => (some { code := 0x0581, addr := BitVec.ofNat 48 (8 * e.1) }, logErr .ink 0x0581 ag (BitVec.ofNat 48 (8 * e.1)) s)
    | none =>
      let d' := surviving i (s.keyOf o) a d s
      (none, noteWrite i a d.length { s with hbm := hbmLineWrite (s.keyOf o) a d' s.hbm })

/-- A write of bytes at `a`, line by line, up to the first error. -/
def hbmWriteFrom (i : Nat) (o : Owner) (ag : Agent) : Nat → Nat → List Byte → State → Option MemErr × State
  | 0, _, _, s => (none, s)
  | n + 1, a, d, s =>
    if d.isEmpty then (none, s) else
    let k := 64 - a % 64
    match hbmWriteLine i o ag a (d.take k) s with
    | (some c, s) => (some c, s)
    | (none, s) => hbmWriteFrom i o ag n (a + k) (d.drop k) s

def hbmWrite (i : Nat) (o : Owner) (ag : Agent) (a : Nat) (d : List Byte) (s : State) : Option MemErr × State :=
  hbmWriteFrom i o ag (d.length / 64 + 2) a d s

/-- R247: the Inkwell that serves a host or Sepia access to address `a` (and, log entry 142, the scheduler's, the fabric's
and the debug block's). -/
def inkAt (a : Nat) : Nat := granuleOf a % 4

-- The walker (R250 to R253)
/-- R251: a level-1 or level-2 entry with V = 1 is malformed. -/
def l1Bad (e : W64) : Bool := e &&& 0xFFFF000000000FFE != 0
def l2Bad (e : W64) : Bool :=
  e &&& 0xFFF8 != 0 || (!bit e 1 && (hbmTop ≤ (e.toNat / 0x10000) * 0x10000 || bit e 2))

/-- The address of a level-2 entry's page. -/
def l2Addr (e : W64) : Nat := e.toNat / 0x10000 * 0x10000

/-- One entry of a table, read for the context that owns it: none where the read fails or V is 0; an entry with V = 1 that
is malformed is logged (R251, R252). -/
def walkEntry (o : Owner) (ag : Agent) (a : Nat) (bad : W64 → Bool) (s : State) : Option W64 × State :=
  match hbmRead o ag a 8 s with
  | (.error _, s) => (none, s)
  | (.ok bs, s) =>
    let e : W64 := leWord 64 bs
    if !bit e 0 then (none, s)
    else if bad e then (none, logErr .ink 0x0582 ag (BitVec.ofNat 48 a) s)
    else (some e, s)

def State.wellAt (s : State) (k : Nat) : Inkwell := kget {} s.ink.well k
def State.setWell (s : State) (k : Nat) (w : Inkwell) : State := { s with ink := { s.ink with well := kset {} s.ink.well k w } }

-- Tags (R248)
/-- The tags that Inkwell `k` has free. -/
def tagsFree (k : Nat) (s : State) : Nat := 4096 - (s.wellAt k).tagsUsed.toNat

/-- Issue `n` transactions: as many as there are free tags take one, and the others wait. -/
def Xfer.start (n k : Nat) (s : State) : Xfer × State :=
  let w := s.wellAt k
  let g := min n (tagsFree k s)
  ({ held := g, want := n - g },
   s.setWell k { w with tagsUsed := w.tagsUsed + BitVec.ofNat 13 g, tagWait := w.tagWait + (n - g) })

/-- The transactions of a transfer are over: its tags return, and none waits any more. -/
def Xfer.stop (x : Xfer) (k : Nat) (s : State) : State :=
  let w := s.wellAt k
  s.setWell k { w with tagsUsed := w.tagsUsed - BitVec.ofNat 13 x.held, tagWait := w.tagWait - x.want }

/-- One line has moved: its tag returns. -/
def Xfer.next (x : Xfer) : Xfer := { x with line := x.line + 1, held := x.held - 1 }
def lineMoved (k : Nat) (met : Bool) (s : State) : State :=
  let w := s.wellAt k
  s.setWell k { w with
    tagsUsed := w.tagsUsed - 1, metered := w.metered + b2n met, moved := w.moved + b2n (!met) }

/-- The transfer takes one more tag. -/
def Xfer.grant (x : Xfer) : Xfer := { x with held := x.held + 1, want := x.want - 1 }

/-- The first element that satisfies `p` is changed by `f`; none where none does. -/
def modFirst {α : Type} (p : α → Bool) (f : α → α) : List α → Option (List α)
  | [] => none
  | x :: xs => if p x then some (f x :: xs) else (modFirst p f xs).map (x :: ·)

/-- R248: a free tag of Inkwell `k` goes to a transaction that waits: the fetches before the copies, each in the order in
which they began (log entry 143). -/
def tagGrant (k : Nat) (s : State) : State :=
  let w := s.wellAt k
  if 0 < w.tagWait ∧ 0 < tagsFree k s then
    let s := s.setWell k { w with tagWait := w.tagWait - 1, tagsUsed := w.tagsUsed + 1 }
    match modFirst (fun (f : Fetch) => f.k == k && 0 < f.xf.want) (fun f => { f with xf := f.xf.grant }) s.ink.fetches with
    | some fs => { s with ink := { s.ink with fetches := fs } }
    | none =>
      match modFirst (fun (d : Disp) => d.ink == k && (match d.cp with | some x => decide (0 < x.want) | none => false))
          (fun d => { d with cp := d.cp.map Xfer.grant }) s.sched.disp with
      | some ds => { s with sched := { s.sched with disp := ds } }
      | none => s
  else s

/-- INKWELL_TAG_GRANT (R248). -/
def execInkwellTagGrant (k : BitVec 2) (s : State) : Out := done (tagGrant k.toNat s)

/-- R253: a cached entry moves to the front; a new one evicts the least recently used of 2,048. -/
def cachePut (k : Nat) (x : L2Ent) (s : State) : State :=
  let w := s.wellAt k
  s.setWell k { w with l2 := (x :: w.l2.filter (fun y => !(y.owner == x.owner && y.page == x.page))).take 2048 }

/-- R250: the walk of page `p` of owner `o` by Inkwell `k`: its level-2 entry, or unmapped. -/
def pageWalk (k : Nat) (o : Owner) (p : BitVec 24) (s : State) : Option W64 × State :=
  match (s.wellAt k).l2.find? (fun x => x.owner == o && x.page == p) with
  | some x => (some x.e, cachePut k x s)
  | none =>
    let base := (s.ownAt o.toNat).ptbase.toNat
    match walkEntry o (agInk k) (base + 8 * (p.toNat / 4096)) l1Bad s with
    | (none, s) => (none, s)
    | (some e1, s) =>
      match walkEntry o (agInk k) ((fld e1 12 36).toNat * 4096 + 8 * (p.toNat % 4096)) l2Bad s with
      | (none, s) => (none, s)
      | (some e2, s) => (some e2, cachePut k { owner := o, page := p, e := e2 } s)

/-- R254: remove an owner's cached entries of some pages from every Inkwell. -/
def cacheDrop (f : L2Ent → Bool) (s : State) : State :=
  { s with ink := { s.ink with well := s.ink.well.map (fun e => (e.1, { e.2 with l2 := e.2.l2.filter (fun x => !f x) })) } }

-- The HBM page cache (R255, R256)
def State.hcAt (s : State) (o : Nat) : HCache := kget {} s.ink.hc o
def State.setHc (s : State) (o : Nat) (h : HCache) : State := { s with ink := { s.ink with hc := kset {} s.ink.hc o h } }

/-- R255: the frame and the tag address of page `p`. -/
def HCache.frameAt (h : HCache) (p : Nat) : Nat := h.base.toNat + p % h.frames.toNat * 0x10000
def HCache.tagAt (h : HCache) (p : Nat) : Nat := h.tags.toNat + 4 * (p % h.frames.toNat)

/-- R255: the owner's page cache holds page `p`. -/
def hcHit (k : Nat) (o : Owner) (p : BitVec 24) (s : State) : Except MemErr Bool × State :=
  match hbmRead o (agInk k) ((s.hcAt o.toNat).tagAt p.toNat) 4 s with
  | (.ok bs, s) => let w : W32 := leWord 32 bs; (.ok (bit w 31 && fld w 0 24 == p), s)
  | (.error e, s) => (.error e, s)

/-- R254, R264, R266: clear the tag of page `p` if it holds that page. -/
def hcClear (k : Nat) (o : Owner) (p : BitVec 24) (s : State) : Option MemErr × State :=
  if (s.hcAt o.toNat).enable then
    match hcHit k o p s with
    | (.ok true, s) => hbmWrite k o (agInk k) ((s.hcAt o.toNat).tagAt p.toNat) [0, 0, 0, 0] s
    | (.ok false, s) => (none, s)
    | (.error e, s) => (some e, s)
  else (none, s)

/-- R256: every granule of `n` bytes at `a` belongs to `o`. -/
def granulesOwned (o : Owner) (a n : Nat) (s : State) : Bool :=
  a + n ≤ hbmTop && (List.range (granuleOf (a + n - 1) - granuleOf a + 1)).all (fun i => s.granuleOwner (granuleOf a + i) == o)

/-- R256: a write of HC_ENABLE. -/
def hcEnable (o : Owner) (v : Bool) (s : State) : State :=
  let h := s.hcAt o.toNat
  if v && !h.enable then
    let n := h.frames.toNat
    checked .ink
      [(!(s.ownAt o.toNat).enable || n = 0 || 0x1000000 < n || h.base.toNat % 0x200000 ≠ 0 || h.tags.toNat % 64 ≠ 0 ||
        !granulesOwned o h.base.toNat (n * 0x10000) s || !granulesOwned o h.tags.toNat (4 * n) s, 0x0505)]
      (fun s => s.setHc o.toNat { h with enable := true, init := true }) s
  else if !v then s.setHc o.toNat { h with enable := false, init := false }
  else s

/-- HC_ENABLE (R256). -/
def execHcEnable (o : Owner) (v : Bool) (s : State) : Out := done (if o.toNat ≤ 64 then hcEnable o v s else s)

/-- HC_INIT_DONE (R256): every tag word is invalid. -/
def execHcInitDone (o : Owner) (s : State) : Out :=
  let h := s.hcAt o.toNat
  let a := h.tags.toNat
  let n := 4 * h.frames.toNat
  done (if h.init ∧ hbmUp s then
    { s.setHc o.toNat { h with init := false } with hbm := { s.hbm with
      mem := kfilter (fun k _ => !(a ≤ k && k < a + n)) s.hbm.mem
      key := kbytes 0 s.hbm.key (a / 64) (List.replicate ((n + 63) / 64) (s.keyOf o))
      ecc := kfilter (fun w _ => !(a ≤ 8 * w && 8 * w < a + n)) s.hbm.ecc } }
  else s)

-- INK_ENABLE and the page-owner table
/-- R244: the geometry states six stacks of 16 GiB. -/
def geometryOk (s : State) : Bool :=
  (List.range 6).all (fun k => bit (s.surrByte (0x10 + 8 * k)) 0 && s.surrByte (0x11 + 8 * k) == 16)

/-- R244: the check of INK_ENABLE. -/
def inkChecks (s : State) : List (Bool × W16) :=
  [(!s.glb.surrEn, 0x0501), (!geometryOk s, 0x0506), (s.ink.slots.toNat < 16, 0x0502),
   (4 < s.ink.depth.toNat || 64 < s.ink.bar4Owner.toNat, 0x0507)]

/-- R244: a write of INK_ENABLE. -/
def inkEnable (v : Bool) (s : State) : State :=
  if v then (if s.ink.enable then s else checked .ink (inkChecks s) (fun s => { s with ink := { s.ink with enable := true } }) s)
  else { s with ink := { s.ink with enable := false } }

/-- INK_ENABLE (R244). -/
def execInkEnable (v : Bool) (s : State) : Out := done (inkEnable v s)

/-- R267: the page-owner entry of granule `g` after this tick's changes. -/
def State.granuleNext (s : State) (g : Nat) : Owner := (kfind s.ink.ownPend g).getD (s.granuleOwner g)

/-- R267: this tick's changes of the page-owner table are over: later ticks see them. -/
def ownSettle (s : State) : State :=
  { s with ink := { s.ink with pageOwner := s.ink.ownPend.foldl (fun m e => kset 0x7F m e.1 e.2) s.ink.pageOwner, ownPend := [] } }

/-- R267: a write to the page-owner entry of granule `g`; later ticks see the change. -/
def pageOwnerWrite (g : Nat) (v : W32) (s : State) : State :=
  let new : Owner := fld v 0 7
  let old := s.granuleNext g
  if (64 < new.toNat ∧ new ≠ 0x7F) ∨ !(new = 0x7F || old = 0x7F || !(s.ownAt old.toNat).enable) then setReason .ink 0x0504 s
  else { s with ink := { s.ink with ownPend := kput s.ink.ownPend g new } }

/-- PAGE_OWNER_WRITE (R267). -/
def execPageOwnerWrite (g : W16) (v : W32) (s : State) : Out := done (if g.toNat < 49152 then pageOwnerWrite g.toNat v s else s)

-- Host accesses through BAR4 (R587, R590)
/-- The DPA of a BAR4 offset. -/
def bar4Dpa (off : Nat) (s : State) : Nat :=
  let gib := 2 ^ (s.host.bar4Log - 30)
  s.host.bar4Base.toNat / gib * gib * 0x40000000 + off

/-- BAR4_ACCESS (R247, R248, R586, R590, R591): a read or write of `len` bytes inside one line. -/
def execBar4Access (off : BitVec 37) (wr : Bool) (len : Nat) (d : BitVec 512) (s : State) : Out :=
  let a := bar4Dpa off.toNat s
  done (if !s.domRun 40 ∨ len = 0 ∨ 64 < a % 64 + len then s
    else if s.host.d3hot then ans agHost .err 0 s
    else if hbmTop ≤ a then errRsp agHost (logErr .glb 0x0183 agHost (BitVec.ofNat 48 a) s)
    else if !s.ink.enable then errRsp agHost (logErr .glb 0x0185 agHost (BitVec.ofNat 48 a) s)
    else if !hbmUp s then s
    else if tagsFree (inkAt a) s = 0 then s
    else if 64 < s.ink.bar4Owner.toNat then errRsp agHost (logErr .ink 0x0580 agHost (BitVec.ofNat 48 a) s)
    else if wr then
      match hbmWrite (inkAt a) s.ink.bar4Owner agHost a (wordBytes len d) s with
      | (none, s) => ans agHost .ok 0 s
      | (some _, s) => errRsp agHost s
    else
      match hbmRead s.ink.bar4Owner agHost a len s with
      | (.ok bs, s) => ans agHost .ok (leWord 512 bs) s
      | (.error _, s) => errRsp agHost s)

-- Background work (R272, R273)
/-- HBM_REFRESH (R272). -/
def execHbmRefresh (stk : BitVec 3) (s : State) : Out :=
  done (if stk.toNat < 6 ∧ s.hbm.trained ∧ s.domRun 23 then
    { s with hbm := { s.hbm with refresh := kset 0 s.hbm.refresh stk.toNat (kget 0 s.hbm.refresh stk.toNat + 1) } } else s)

/-- The DPA of byte `off` of stack `k`, the inverse of R245. -/
def stackDpa (k off : Nat) : Nat := (off / 256 * 6 + k) * 256 + off % 256

/-- R273: a patrol read of stack `k` is due. -/
def patrolDue (k : Nat) (s : State) : Bool :=
  k < 6 && s.ink.patrolEn && s.hbm.trained && s.domRun 23 &&
  (match kfind s.hbm.patrolAt k with | none => true | some t => (t + 4096).ule s.now)

/-- R273, R577: no foreground access has used the controller on this tick, or the patrol has waited 1,024 slots. -/
def patrolSlot (k : Nat) (s : State) : Bool := !kget false s.ink.busy k || decide (1024 ≤ kget 0 s.ink.patWait k)

/-- R273: the next line in ascending stack offset; corrected words are written back. -/
def patrolRead (k : Nat) (s : State) : State :=
  let n := kget 0 s.hbm.patrol k
  let a := stackDpa k (64 * n)
  let es := hbmChecks a 64 s.hbm
  let s := eccCount es s
  let s := match es.find? (fun e => e.2 == .bad) with
    | some e => logErr .ink 0x0581 agSched (BitVec.ofNat 48 (8 * e.1)) s
    | none => s
  { s with
    hbm := { s.hbm with
      ecc := kfilter (fun w e => w / 8 != a / 64 || e != .corr) s.hbm.ecc
      patrol := kset 0 s.hbm.patrol k ((n + 1) % 0x10000000), patrolAt := kput s.hbm.patrolAt k s.now }
    ink := { s.ink with patWait := kset 0 s.ink.patWait k 0 } }

/-- PATROL_READ (R273, R577). -/
def execPatrolRead (stk : BitVec 3) (s : State) : Out :=
  done (if patrolDue stk.toNat s && patrolSlot stk.toNat s then patrolRead stk.toNat s else s)

/-- R273, R577: on a tick that ends, a due patrol read is made, or has waited one more slot. -/
def patrolTick (s : State) : State :=
  (List.range 6).foldl (fun s k =>
    if !patrolDue k s then s
    else if patrolSlot k s then patrolRead k s
    else { s with ink := { s.ink with patWait := kset 0 s.ink.patWait k (kget 0 s.ink.patWait k + 1) } }) s

-- Registers (Tables 07.5 to 07.8)
/-- The value an INK register holds. -/
def inkRead (off : Nat) (s : State) : W32 :=
  let i := s.ink
  if off = 0x000 then b2w i.enable
  else if off = 0x004 then i.slots.setWidth 32
  else if off = 0x008 then i.depth.setWidth 32
  else if off = 0x00C then i.reason.setWidth 32
  else if off = 0x010 then i.bar4Owner.setWidth 32
  else if off = 0x014 then b2w i.patrolEn
  else if 0x020 ≤ off ∧ off ≤ 0x028 then errWord i.errlog ((off - 0x020) / 4)
  else if off = 0x030 then i.corr ++ i.uncorr
  else if 0x040 ≤ off ∧ off < 0x080 then
    let w := s.wellAt ((off - 0x040) / 0x10)
    match off % 0x10 with
    | 0 => w.tagsUsed.setWidth 32
    | 4 => w.pageUsed.setWidth 32 ||| (w.copyUsed.setWidth 32 <<< 8)
    | 8 => w.bytesOut
    | _ => 0
  else if 0x400 ≤ off ∧ off < 0xC20 then
    let h := s.hcAt ((off - 0x400) / 0x20)
    match (off - 0x400) % 0x20 with
    | 0x00 => fld h.base 0 32
    | 0x04 => (fld h.base 32 16).setWidth 32
    | 0x08 => fld h.tags 0 32
    | 0x0C => (fld h.tags 32 16).setWidth 32
    | 0x10 => h.frames.setWidth 32
    | 0x14 => b2w h.enable ||| (b2w h.init <<< 1)
    | _ => 0
  else if 0x10000 ≤ off ∧ off < 0x40000 then (s.granuleNext ((off - 0x10000) / 4)).setWidth 32
  else 0

/-- What a read of an INK register clears. -/
def inkClear (off : Nat) (s : State) : State :=
  if off = 0x030 then { s with ink := { s.ink with corr := 0, uncorr := 0 } } else s

/-- A write of an INK register; a pair's whole value arrives with its high word; RWL fields lock. -/
def inkWrite (off : Nat) (v : W32) (pair : W64) (s : State) : State :=
  if off = 0x000 then inkEnable (bit v 0) s
  else if off = 0x004 then (if s.ink.enable then s else { s with ink := { s.ink with slots := fld v 0 5 } })
  else if off = 0x008 then (if s.ink.enable then s else { s with ink := { s.ink with depth := fld v 0 3 } })
  else if off = 0x010 then { s with ink := { s.ink with bar4Owner := fld v 0 7 } }
  else if off = 0x014 then { s with ink := { s.ink with patrolEn := bit v 0 } }
  else if 0x400 ≤ off ∧ off < 0xC20 then
    let o := (off - 0x400) / 0x20
    let h := s.hcAt o
    let r := (off - 0x400) % 0x20
    if r = 0x14 then hcEnable (BitVec.ofNat 7 o) (bit v 0) s
    else if h.enable then s
    else if r = 0x04 then s.setHc o { h with base := fld pair 0 48 &&& 0xFFFFFFE00000 }
    else if r = 0x0C then s.setHc o { h with tags := fld pair 0 48 &&& 0xFFFFFFFFFFC0 }
    else if r = 0x10 then s.setHc o { h with frames := fld v 0 25 }
    else s
  else if 0x10000 ≤ off ∧ off < 0x40000 then pageOwnerWrite ((off - 0x10000) / 4) v s
  else s

end Sys2Proof.Machine
end

