-- ==== Sys2Proof/Machine/QStore.lean ====
section
/-!
DEFINITION. The stores of a Quill: bytes, unwritten lines, owner tags and check bits (R86 to R93, R625), and what a write of
the state store does besides: digests (R73) and watch units (R536 to R538).
-/
namespace Sys2Proof.Machine

/-- Table 03.2: the window offset of each store, and the size of a window. -/
def stBase : Nat := 0xC0000
def prBase : Nat := 0xD0000
def scBase : Nat := 0xD8000

/-- The address of offset `off` of the store window of Quill `q` (R87). -/
def winAddr (q off : Nat) : BitVec 48 := BitVec.ofNat 48 (0x010000000000 + q * 0x100000 + off)

/-- What a read of a store returns: its bytes, the offset of the first uncorrectable word, and how many words were
corrected. -/
structure StRd where
  bytes : List Byte := []
  bad   : Option Nat := none
  corr  : Nat := 0

/-- The line of offset `a` has been written since its grant. -/
def Stores.isWritten (t : Stores) (a : Nat) : Bool := kget false t.written (a / 64)

/-- The error-check entries that a read of `n` bytes at `off` meets: entries of unwritten lines are not checked (R92). -/
def Stores.checks (t : Stores) (off n : Nat) : List (Nat × Ecc) :=
  t.ecc.filter (fun e => off / 8 ≤ e.1 && e.1 ≤ (off + n - 1) / 8 && t.isWritten (8 * e.1))

/-- R88, R92: read `n` bytes at window offset `off`. -/
def Stores.read (t : Stores) (off n : Nat) : StRd :=
  let es := t.checks off n
  { bytes := ((kread 0 t.mem off n).zipIdx off).map (fun e => if t.isWritten e.2 then e.1 else 0)
    bad := (es.find? (fun e => e.2 == .bad)).map (fun e => 8 * e.1)
    corr := (es.filter (fun e => e.2 == .corr)).length }

/-- R92: the first write to a line writes zeros to every byte of it. -/
def Stores.openLine (t : Stores) (a : Nat) : Stores :=
  if t.isWritten a then t
  else { t with
    mem := kfilter (fun k _ => k / 64 != a / 64) t.mem
    ecc := kfilter (fun w _ => w / 8 != a / 64) t.ecc
    written := kset false t.written (a / 64) true }

/-- R625: write the bytes of `d` that `mask` names into the 64-bit word at `a`. -/
def Stores.writeWord (t : Stores) (a : Nat) (mask : Byte) (d : W64) : Stores :=
  let t := t.openLine a
  let mem := (List.range 8).foldl (fun m i => if bit mask i then kset 0 m (a + i) (fld d (8 * i) 8) else m) t.mem
  let e := kget .good t.ecc (a / 8)
  { t with mem := mem, ecc := kset .good t.ecc (a / 8) (if mask ≠ 0xFF ∧ e = .bad then .bad else .good) }

/-- The 64-bit words that a write of bytes at `off` covers: address, byte mask, data. -/
def wordsFrom (off : Nat) (d : List Byte) : List (Nat × Byte × W64) :=
  if d.isEmpty then [] else
  let w0 := off / 8
  (List.range ((off + d.length - 1) / 8 - w0 + 1)).map (fun k =>
    let a := 8 * (w0 + k)
    let lane := fun i => if off ≤ a + i then d[a + i - off]? else none
    (a, (List.range 8).foldl (fun m i => if (lane i).isSome then setBit m i true else m) 0,
      leWord 64 ((List.range 8).map (fun i => (lane i).getD 0))))

/-- Write bytes at window offset `off`. -/
def Stores.write (t : Stores) (off : Nat) (d : List Byte) : Stores :=
  (wordsFrom off d).foldl (fun t w => t.writeWord w.1 w.2.1 w.2.2) t

/-- Write whole lines from line-aligned offset `off`: fresh check bits for every word. -/
def Stores.fill (t : Stores) (off : Nat) (d : List Byte) : Stores :=
  let n := d.length
  { t with
    mem := kbytes 0 t.mem off d
    ecc := kfilter (fun w _ => !(off ≤ 8 * w && 8 * w < off + n)) t.ecc
    written := (List.range (n / 64)).foldl (fun m i => kput m (off / 64 + i) true) t.written }

/-- R91: grant every line to an owner: unwritten, and reading zero. -/
def Stores.grant (_ : Stores) (o : Owner) : Stores := { tag := o }

/-- R91: return every line: its tag becomes 0x7F. -/
def Stores.giveBack (t : Stores) : Stores := { t with tag := 0x7F }

-- Digests (R73)
/-- The multiplier of R73. -/
def digMul : W64 := 0x5E971D3BA4C60F2D
/-- R73: one update of a digest. -/
def digStep (c x : W64) : W64 := (c.rotateLeft 23 ^^^ x) * digMul

/-- R73: the digests of a logical Quill after a write of the 64-bit word at state-store byte `a`. -/
def Lq.digestWord (l : Lq) (a : Nat) (mask : Byte) (d : W64) : Lq :=
  let x := (d ^^^ (BitVec.ofNat 64 a <<< 48)) ^^^ (mask.setWidth 64 <<< 40)
  { l with digest := digStep l.digest x, region := kset 0 l.region (a / 1024) (digStep (kget 0 l.region (a / 1024)) x) }

/-- R73: a state-store write in program order. -/
def Lq.digestAll (l : Lq) (off : Nat) (d : List Byte) : Lq :=
  (wordsFrom off d).foldl (fun l w => l.digestWord w.1 w.2.1 w.2.2) l

-- Watch units (R536 to R538)
/-- The value of variable `i` of the region at `base` when `byte` gives the state store: a bit (R94) or a nibble (R96). -/
def varOf (nib : Bool) (base i : Nat) (byte : Nat → Byte) : BitVec 4 :=
  if nib then fld (byte (base + i / 2)) (4 * (i % 2)) 4 else (fld (byte (base + i / 8)) (i % 8) 1).setWidth 4

/-- R536: the lowest variable of unit `w` that a write of `d` at state-store byte `off` matches. -/
def watchVar (w : QWatch) (off : Nat) (d : List Byte) (old new : Nat → Byte) : Option Nat :=
  let nib := bit w.ctl 1
  let per := if nib then 2 else 8
  let base := w.base.toNat / 32 * 32
  let first := (off - base) * per
  let cand := (List.range ((off + d.length - base) * per - first)).map (· + first)
  cand.find? (fun i =>
    w.vlo.toNat ≤ i && i ≤ w.vhi.toNat && off ≤ base + i / per &&
    (let x := varOf nib base i new
     (x &&& fld w.val 8 4 == fld w.val 0 4 &&& fld w.val 8 4) && (!bit w.ctl 2 || x != varOf nib base i old)))

/-- R537, R538: a match: it is logged and acts on its write tick; its fire is stamped 4 ticks later (log entry 179). -/
def watchFire (e : QwEvent) (s : State) : State :=
  let k := 2 * e.id.l.toNat + e.u
  let w := kget {} s.dbg.watch k
  let log := BitVec.ofNat 32 (e.id.l.toNat + 0x100 * e.u + 0x10000 * (e.pc.getD 0xFFF)) ||| (b2w e.pc.isNone <<< 31)
  let s := { s with dbg := { s.dbg with
    watch := kset {} s.dbg.watch k { w with count := satInc w.count }
    qwHit := true, qwLog := log, qwVar := BitVec.ofNat 19 e.v, qwTick := e.t
    qwAgent := if e.pc.isNone then e.ag else s.dbg.qwAgent } }
  let act := (fld w.ctl 3 2).toNat
  let ch : Byte := 1 <<< (fld w.ctl 8 3).toNat
  let fire := fun (s : State) => { s with dbg := { s.dbg with xtPend := s.dbg.xtPend ++ [(e.t + 4, ch, e.ag)] } }
  if act = 0 then
    fire (s.modPart e.id.part (fun p =>
      let p := { p with haltOn := p.haltOn ||| ch }
      if e.pc.isSome then p.setLq e.id.l.toNat { p.lqAt e.id.l.toNat with lastTick := some (e.t + 4) } else p))
  else if act = 2 then fire s
  else s

/-- The matches whose write tick this is act. -/
def watchSettle (s : State) : State :=
  let due := fun (e : QwEvent) => !s.now.ult e.t
  (s.dbg.qwPend.filter due).foldl (fun s e => watchFire e s)
    { s with dbg := { s.dbg with qwPend := s.dbg.qwPend.filter (fun e => !due e) } }

/-- R529: the fires of watch units that this tick stamps. -/
def watchFires (s : State) : State :=
  let due := fun (e : W64 × Byte × Agent) => !s.now.ult e.1
  (s.dbg.xtPend.filter due).foldl (fun s e => xtFire e.2.1 e.2.2 s)
    { s with dbg := { s.dbg with xtPend := s.dbg.xtPend.filter (fun e => !due e) } }

/-- R536 to R538: the watch units see a write of `d` at state-store byte `off` of logical Quill `id`, with what the store
held before and holds after; the lower unit's log stands where both match. -/
def watchWrite (id : LqId) (pc : Option Nat) (ag : Agent) (tk : W64) (off : Nat) (d : List Byte) (old new : Nat → Byte)
    (s : State) : State :=
  let t := s.dbg.qwTgt
  if bit t 31 && fld t 0 7 == id.part.owner && fld t 8 6 == id.part.pid then
    let hits := [1, 0].filterMap (fun u =>
      let w := kget {} s.dbg.watch (2 * id.l.toNat + u)
      if bit w.ctl 0 then
        (watchVar w off d old new).map (fun v => { t := tk, id := id, u := u, v := v, pc := pc, ag := ag : QwEvent })
      else none)
    { s with dbg := { s.dbg with qwPend := s.dbg.qwPend ++ hits } }
  else s

/-- The byte of the state store at offset `a`. -/
def Stores.stByte (t : Stores) (a : Nat) : Byte := ((t.read (stBase + a) 1).bytes).headD 0

-- Writes on their way (R127)
/-- A write that takes every bit of its bytes. -/
def wholeWr (x : Option Nat) (off : Nat) (d : List Byte) : PendWr := { x := x, off := off, d := d, m := List.replicate d.length 0xFF }

/-- The write comes to its tick. -/
def PendWr.apply (w : PendWr) (t : Stores) : Stores :=
  let old := (t.read w.off w.d.length).bytes
  t.write w.off (List.zipWith (fun o (e : Byte × Byte) => (o &&& ~~~e.2) ||| (e.1 &&& e.2)) old (w.d.zip w.m))

/-- The stores of a Quill once every write on its way has come to its tick. -/
def Pq.after (p : Pq) : Stores := p.wr.foldl (fun t w => w.apply t) p.st

/-- The writes that fall on execution tick `xt` or before, and those of this tick, are in the stores. -/
def Pq.settleWr (xt : Nat) (p : Pq) : Pq :=
  let now := fun (w : PendWr) => match w.x with | none => true | some x => decide (x ≤ xt)
  { p with st := (p.wr.filter now).foldl (fun t w => w.apply t) p.st, wr := p.wr.filter (fun w => !now w) }

/-- A write by another agent, of a store of physical Quill `q` at window offset `off`, on this tick (R127, R538). -/
def extWrite (q off : Nat) (d : List Byte) (ag : Agent) (s : State) : State :=
  let p := s.pqAt q
  let t := (wholeWr none off d).apply p.after
  let s := s.setPq q { p with wr := p.wr ++ [wholeWr none off d] }
  match p.res with
  | none => s
  | some id =>
    if stBase ≤ off ∧ off < prBase then
      watchWrite id none ag s.now (off - stBase) d p.after.stByte t.stByte s
    else s

end Sys2Proof.Machine
end

