-- ==== Sys2Proof/Machine/Operands.lean ====
section
/-!
DEFINITION. The Quill instruction word: fields, the encoding checks of R143, operand forms, addresses, and the unit,
occupancy, latency and operands of each form for R148 (chapters 04 and 05).
-/
namespace Sys2Proof.Machine

/-- Table 04.5: the fields of an instruction word. -/
structure Ins where
  op  : Nat
  pg  : Nat
  pn  : Bool
  rd  : Nat
  ra  : Nat
  rb  : Nat
  fn  : Nat
  imm : W32
deriving DecidableEq, Repr

def insOf (w : W64) : Ins :=
  { op := (fld w 58 6).toNat, pg := (fld w 55 3).toNat, pn := bit w 54, rd := (fld w 49 5).toNat, ra := (fld w 44 5).toNat,
    rb := (fld w 39 5).toNat, fn := (fld w 32 7).toNat, imm := fld w 0 32 }

/-- FN[6:4] and FN[3:0]. -/
def Ins.form (i : Ins) : Nat := i.fn / 16
def Ins.sub (i : Ins) : Nat := i.fn % 16
/-- IMM[lo + n - 1 : lo] as a number. -/
def Ins.im (i : Ins) (lo n : Nat) : Nat := (fld i.imm lo n).toNat
/-- No IMM bit outside `m` is 1. -/
def Ins.only (i : Ins) (m : W32) : Bool := i.imm &&& ~~~m == 0
/-- R180, R186: the state count S of a categorical form. -/
def Ins.states (i : Ins) : Nat := i.sub + 1
/-- The form works on a categorical group. -/
def Ins.cat (i : Ins) : Bool := i.sub != 0

/-- The width in bits of a POST or CLAMP field (FN[1:0]). -/
def plWidth (fn : Nat) : Nat := match fn % 4 with | 0 => 32 | 1 => 16 | 2 => 4 | _ => 1

/-- R192: POS is a multiple of WIDTH and the field lies in the word. -/
def posOk (i : Ins) : Bool := i.im 21 5 % plWidth i.fn == 0 && i.im 21 5 + plWidth i.fn ≤ 32

/-- R143: the encoding checks of the word at index `pc`. -/
def encOk (i : Ins) (pc : Nat) : Bool :=
  let f := i.form
  let n := i.sub
  match i.op with
  | 0x01 => (i.fn < 0xE || (0x10 ≤ i.fn && i.fn ≤ 0x12)) && i.imm == 0
  | 0x02 => (i.fn < 0xE || (0x10 ≤ i.fn && i.fn ≤ 0x12)) && i.rb == 0
  | 0x03 => i.rd < 8 && i.fn < 16 && i.fn % 8 ≤ 5 && (if i.fn < 8 then i.imm == 0 else i.rb == 0)
  | 0x04 => i.rd < 8 && i.ra < 8 && i.rb < 8 && i.fn < 4 && i.imm == 0
  | 0x08 =>
    match i.fn with
    | 0 => i.rd < 8 && i.rb == 0
    | 1 => i.rd < 8 && i.ra == 0 && i.rb == 0 && i.only 0xFF
    | 2 => i.rd < 8 && i.ra < 8
    | 3 => i.ra < 8 && i.rb == 0 && i.imm == 0
    | _ => false
  | 0x0C =>
    match i.fn with
    | 0 => i.rd == 0 && i.ra == 0 && i.rb == 0 && i.imm == 0
    | 1 => i.rd == 0 && i.ra == 0 && i.rb == 0 && i.only 0xFFF
    | 2 => i.rd == 0 && i.rb == 0 && i.imm == 0
    | 3 => i.rd == 0 && i.ra == 0 && i.rb == 0 && i.imm == 0
    | 4 => i.ra == 0 && i.rb < 4 && i.imm == 0
    | 5 => i.ra == 0 && i.rb < 8 && i.imm == 0
    | _ => false
  | 0x0D => i.rd == 0 && i.rb == 0 && pc < i.im 0 12 &&
      (match i.fn with | 0 => i.ra == 0 && i.only 0xFFFF0FFF | 1 => i.only 0xFFF | _ => false)
  | 0x10 => i.ra < 8 && i.rb == 0 && i.fn ≤ 4
  | 0x11 => i.rd == 0 && i.ra < 8 && i.fn ≤ 2
  | 0x18 => i.rd == 0 &&
      (match f with
       | 0 => i.ra < 8 && i.rb == 0 && i.only 0x100
       | 1 => n == 0 && i.ra == 0 && i.rb < 8 && i.only 7 && i.im 0 2 ≤ 2
       | 2 => i.ra < 8 && i.rb == 0 && i.only 7 && i.im 0 2 ≤ 1
       | 3 => i.ra < 8 && i.rb < 8 && i.only 0xFFE1B && i.im 0 2 ≤ 1
       | 4 => i.ra < 8 && i.rb < 8 && i.only 0xFFEE0
       | _ => false)
  | 0x19 => i.rd == 0 && i.rb == 0 &&
      (match f with
       | 0 => i.ra < 8 && n ≤ 5 && i.only 4
       | 1 => i.ra == 0 && n == 0 && i.imm == 0
       | 2 => i.ra < 8 && n == 0 && i.imm == 0
       | _ => false)
  | 0x1C => i.rd == 0 && i.ra < 8 && i.rb == 0 && i.imm == 0 && f ≤ 3 && (if f = 2 then n != 0 else n == 0)
  | 0x1D => i.rd == 0 && i.rb == 0 && i.fn == 0 && i.only 0xFFFF
  | 0x1E => i.rd == 0 && n == 0 &&
      (match f with
       | 0 => i.ra == 0 && i.rb == 0 && i.imm == 0
       | 1 => i.ra == 0 && i.rb == 0 && i.only 0xFFF
       | 2 | 3 => i.ra < 8 && i.rb == 0 && i.only 0x1F && i.im 0 5 ≤ 23
       | 4 => i.ra < 8 && i.rb == 0 && i.imm == 0
       | 5 => i.imm == 0
       | _ => false)
  | 0x20 | 0x21 => i.rd == 0 && i.ra < 8 && i.rb == 0 && i.fn == 0 && i.only 0x1F
  | 0x24 => i.rd == 0 && i.fn < 8 &&
      (if i.fn < 4 then i.ra < 8 && i.rb == 0 && i.only 0xFFE0FFFF && posOk i else i.fn == 4 && i.ra == 0 && i.only 0xFC000000)
  | 0x25 => i.rb == 0 && i.fn < 8 &&
      (if i.fn < 4 then i.ra < 8 && i.only 0xFFE0FFFF && posOk i
       else i.fn == 4 && i.ra == 0 && i.only 0xFC000000 && i.rd != 0)
  | 0x28 | 0x29 => i.rd == 0 && i.rb == 0 && i.im 4 4 == 0 && (match i.fn with | 0 => i.ra == 0 | 1 => i.im 8 24 == 0 | _ => false)
  | 0x2C => i.rd == 0 && i.ra < 8 && i.rb == 0 && i.fn == 0 && i.imm == 0
  | 0x30 => i.rd == 0 && i.rb == 0 && i.fn == 0 && i.only 0xFFFF
  | 0x3F => i.rd == 0 && i.ra == 0 && i.rb == 0 && i.fn == 0 && i.only 0xFFFF
  | _ => false

-- Registers of a logical Quill (Table 04.1)
def Lq.sReg (l : Lq) (r : Nat) : W32 := if r = 0 then 0 else kget 0 l.s r
def Lq.setS (l : Lq) (r : Nat) (v : W32) : Lq := if r = 0 then l else { l with s := kset 0 l.s r v }
def Lq.aReg (l : Lq) (r : Nat) : BitVec 48 := kget 0 l.a r
def Lq.setA (l : Lq) (r : Nat) (v : BitVec 48) : Lq := { l with a := kset 0 l.a r v }
def Lq.pReg (l : Lq) (r : Nat) : Bool := r = 0 || kget false l.p r
def Lq.setP (l : Lq) (r : Nat) (v : Bool) : Lq := if r = 0 then l else { l with p := kset false l.p r v }
def aSpace (a : BitVec 48) : Nat := (fld a 44 4).toNat
def aOff (a : BitVec 48) : Nat := (fld a 0 40).toNat
def mkA (space : Nat) (off : BitVec 40) : BitVec 48 := BitVec.ofNat 4 space ++ (0 : BitVec 4) ++ off

/-- R144: the guard of an instruction. -/
def Lq.guard (l : Lq) (i : Ins) : Bool := l.pReg i.pg != i.pn

-- Memory operands (R134, R135)
/-- A memory operand: its space, its offset, the spaces it may lie in, its alignment and its width. -/
structure MemOp where
  space  : Nat
  off    : Nat
  spaces : List Nat
  align  : Nat
  width  : Nat

/-- Table 04.3. -/
def spaceSize (sp : Nat) : Nat := if sp = 0 then 0x10000 else if sp = 1 then 0x8000 else 2 ^ 40

/-- R135: the operand is in range, aligned and in an allowed space. -/
def MemOp.ok (m : MemOp) : Bool := m.spaces.contains m.space && m.off % m.align == 0 && m.off + m.width ≤ spaceSize m.space

/-- The window offset of an operand in the state or scratch store. -/
def storeOff (space off : Nat) : Nat := if space = 0 then stBase + off else scBase + off

/-- Offset arithmetic modulo 2^40 (R136). -/
def offAdd (a : BitVec 48) (d : W32) : Nat := (fld a 0 40 + d.signExtend 40).toNat

/-- The plane's bytes and load ticks (Table 05.6). -/
def planeBytes (wfmt : Nat) : Nat := 0x8000 * 2 ^ wfmt
def planeTicks (wfmt : Nat) : Nat := 128 * 2 ^ wfmt

/-- D of a SPARSE stroke and the bytes of a row (R99). -/
def Ins.degree (i : Ins) : Nat := 8 * 2 ^ i.im 3 2
def rowBytes (i : Ins) : Nat := if i.im 0 2 = 0 then 2 * i.degree else 5 * i.degree / 2

/-- LD and ST widths in bytes (R179). -/
def ldWidth (fn : Nat) : Nat := match fn with | 0 => 4 | 1 => 2 | 2 => 2 | _ => 1
def stWidth (fn : Nat) : Nat := match fn with | 0 => 4 | 1 => 2 | _ => 1

/-- The input bytes and ticks of an MMA pass (R185, Table 03.6). -/
def mmaBytes (fmt : Nat) : Nat := match fmt with | 0 => 32 | 1 => 32 | 2 => 128 | 3 => 256 | _ => 512
def mmaTicks (fmt : Nat) : Nat := match fmt with | 0 => 1 | 1 => 2 | 2 => 4 | 3 => 8 | _ => 32
/-- The weight format a pass implies (R185). -/
def mmaFmt (fmt : Nat) : BitVec 2 := match fmt with | 0 => 0 | 1 => 1 | 2 => 0 | 3 => 1 | _ => 2

/-- The memory operands of an instruction, each under the alignment and space rules of its form (R179 to R194). -/
def memOps (i : Ins) (l : Lq) : List MemOp :=
  let a := l.aReg i.ra
  let b := l.aReg i.rb
  let opA := fun (sps : List Nat) (al w : Nat) => { space := aSpace a, off := aOff a, spaces := sps, align := al, width := w : MemOp }
  let opB := fun (sps : List Nat) (al w : Nat) => { space := aSpace b, off := aOff b, spaces := sps, align := al, width := w : MemOp }
  match i.op with
  | 0x10 => let w := ldWidth i.fn; [{ space := aSpace a, off := offAdd a i.imm, spaces := [0, 1, 2], align := w, width := w }]
  | 0x11 => let w := stWidth i.fn; [{ space := aSpace a, off := offAdd a i.imm, spaces := [0, 1], align := w, width := w }]
  | 0x18 =>
    match i.form with
    | 0 => if i.im 8 1 = 1 then [] else [opA [0] 64 (512 * i.states)]
    | 1 => [opB [2] (if i.im 0 2 = 0 then 1024 else 0x10000) (planeBytes (i.im 0 2))]
    | 2 => [opA [0] 32 (if i.cat then 128 else 32)]
    | 3 => [opA [0] 32 0, opB [2] 1024 (256 * rowBytes i)]
    | _ => [opA [0] 32 0, opB [1] 16 4096]
  | 0x19 =>
    match i.form with
    | 0 => [opA [0, 1] 32 (mmaBytes i.sub)]
    | 2 => [opA [0, 1] 64 1024]
    | _ => []
  | 0x1C => if i.form = 3 then [opA [0, 1] 32 32] else [opA [0] 32 (if i.form = 2 then 128 else 32)]
  | 0x1E =>
    match i.form with
    | 2 | 3 => [opA [1] 32 512]
    | 4 => [opA [1] 32 2048]
    | _ => []
  | 0x20 | 0x21 => [opA [0, 1] 32 32]
  | 0x24 | 0x25 =>
    if i.fn < 4 then
      [{ space := aSpace a, off := (fld a 0 40 + (fld i.imm 0 16).setWidth 40).toNat, spaces := [0], align := 4, width := 4 }]
    else []
  | 0x2C => [opA [2] 1 1]
  | _ => []

/-- R180, R184: the further address conditions of a STROKE, and the operand an 0x0E86 names. -/
def strokeAddr (i : Ins) (l : Lq) : Option MemOp :=
  let ops := memOps i l
  if i.op ≠ 0x18 then none
  else if i.form = 1 ∧ i.im 0 2 = 0 then ops.find? (fun m => 0x10000 < m.off % 0x10000 + m.width)
  else if i.form = 3 then
    let win := if i.cat then 2048 else 512
    let at_ := i.im 9 11 * (if i.cat then 128 else 32)
    match ops with
    | [a, b] =>
      if 0x10000 < b.off % 0x10000 + b.width then some b
      else if 0x10000 < a.off + at_ + win then some a
      else none
    | _ => none
  else none

/-- The pages of model space that an instruction touches, each with the first LMA in it. -/
def pagesOf (i : Ins) (l : Lq) : List (Nat × Nat) :=
  if i.op = 0x2C then [] else
  (memOps i l).flatMap (fun m =>
    if m.space = 2 then
      if i.op = 0x18 ∧ i.form = 1 ∧ i.im 0 2 = 2 then [(m.off / 0x10000, m.off), (m.off / 0x10000 + 1, (m.off / 0x10000 + 1) * 0x10000)]
      else [(m.off / 0x10000, m.off)]
    else [])

-- Scoreboard (R148)
/-- The numbers of units. -/
def QUnit.num : QUnit → Nat | .seq => 0 | .lat => 1 | .nib => 2 | .xch => 3 | .plt => 4 | .syn => 5 | .pgu => 6

/-- Scoreboard keys: s registers 0 to 31, then the other operands. -/
def kA (r : Nat) : Nat := 32 + r
def kP (r : Nat) : Nat := 40 + r
def kLc (r : Nat) : Nat := 48 + r
def kPlane (p : Nat) : Nat := 52 + p
def kAcc : Nat := 54
def kVr : Nat := 55
def kMask : Nat := 56
def kTabA : Nat := 57
def kTabC : Nat := 58
def kBsched : Nat := 59
def kPtr : Nat := 60
def kSweep : Nat := 61

/-- Unit, occupancy, latency and operands of an issue. -/
structure Tm where
  unit   : QUnit
  occ    : Nat := 1
  lat    : Nat := 1
  reads  : List Nat := []
  writes : List Nat := []
  /-- Stores read and written: 0 state, 1 scratch. -/
  sr     : List Nat := []
  sw     : List Nat := []
  /-- R175: the next instruction issues at t + `gap` or later. -/
  gap    : Nat := 1
  /-- R181: the issue waits for the plane loader; a PLOAD holds it for `load` ticks. -/
  loader : Bool := false
  load   : Nat := 0

/-- s0 and p0 are constants. -/
def rs (r : Nat) : List Nat := if r = 0 then [] else [r]
def rp (r : Nat) : List Nat := if r = 0 then [] else [kP r]

/-- The stores that an address register names. -/
def stOf (a : BitVec 48) : List Nat := if aSpace a = 0 then [0] else if aSpace a = 1 then [1] else []

/-- Occupancy, latency and operands of each form (chapter 05), without the guard. -/
def tmBody (i : Ins) (l : Lq) : Tm :=
  let sa := stOf (l.aReg i.ra)
  let sb := stOf (l.aReg i.rb)
  match i.op with
  | 0x01 => { unit := .seq, lat := if i.fn < 0x10 then 1 else 3, reads := rs i.ra ++ rs i.rb, writes := rs i.rd }
  | 0x02 => { unit := .seq, lat := if i.fn < 0x10 then 1 else 3, reads := rs i.ra, writes := rs i.rd }
  | 0x03 => { unit := .seq, reads := rs i.ra ++ (if i.fn < 8 then rs i.rb else []), writes := rp i.rd }
  | 0x04 => { unit := .seq, reads := rp i.ra ++ rp i.rb, writes := rp i.rd }
  | 0x08 =>
    match i.fn with
    | 0 => { unit := .seq, reads := rs i.ra, writes := [kA i.rd] }
    | 1 => { unit := .seq, reads := [kA i.rd], writes := [kA i.rd] }
    | 2 => { unit := .seq, reads := kA i.ra :: rs i.rb, writes := [kA i.rd] }
    | _ => { unit := .seq, reads := [kA i.ra], writes := rs i.rd }
  | 0x0C =>
    match i.fn with
    | 1 => { unit := .seq, occ := 2, gap := 2 }
    | 2 => { unit := .seq, occ := 2, gap := 2, reads := rs i.ra }
    | 4 => { unit := .seq, reads := [kLc i.rb], writes := rs i.rd }
    | 5 => { unit := .seq, reads := (match i.rb with | 2 => [kSweep] | 3 => [kSweep] | 4 => [kPtr, kBsched] | _ => []), writes := rs i.rd }
    | _ => { unit := .seq }
  | 0x0D => { unit := .seq, reads := if i.fn = 1 then rs i.ra else [], writes := if l.loops.length < 4 then [kLc l.loops.length] else [] }
  | 0x10 => { unit := .seq, lat := 3, reads := [kA i.ra], writes := rs i.rd, sr := sa }
  | 0x11 => { unit := .seq, lat := 2, reads := kA i.ra :: rs i.rb, sw := sa }
  | 0x18 =>
    match i.form with
    | 0 =>
      if i.im 8 1 = 1 then { unit := .lat, occ := 1, lat := 3, writes := [kAcc] }
      else { unit := .lat, occ := 8 * i.states, lat := 8 * i.states + 2, reads := [kA i.ra], writes := [kAcc], sr := sa }
    | 1 => { unit := .lat, occ := 1, lat := planeTicks (i.im 0 2), reads := [kA i.rb], writes := [kPlane (i.im 2 1)],
             loader := true, load := planeTicks (i.im 0 2) }
    | 2 => let o := i.states * (1 + i.im 0 2)
           { unit := .lat, occ := o, lat := o + 2, reads := [kA i.ra, kPlane (i.im 2 1)], writes := [kAcc], sr := sa }
    | 3 => let o := i.states * rowBytes i
           { unit := .lat, occ := o, lat := o + 2, reads := [kA i.ra, kA i.rb], writes := [kAcc], sr := sa, loader := true }
    | _ => let o := 64 * (i.im 5 3 + 1) * i.states
           { unit := .lat, occ := o, lat := o + 2, reads := [kA i.ra, kA i.rb], writes := [kAcc], sr := sa ++ sb }
  | 0x19 =>
    match i.form with
    | 0 => { unit := .lat, occ := mmaTicks i.sub, lat := mmaTicks i.sub + 2, reads := [kA i.ra, kPlane (i.im 2 1)], writes := [kAcc], sr := sa }
    | 1 => { unit := .lat, reads := [kAcc], writes := [kAcc] }
    | _ => { unit := .lat, occ := 32, lat := 33, reads := [kA i.ra, kAcc], sw := sa }
  | 0x1C =>
    if i.form = 3 then { unit := .nib, lat := 2, reads := [kA i.ra, kMask], writes := [kMask], sr := sa }
    else
      { unit := .nib, occ := if i.form = 2 then i.states + 4 else 4, lat := if i.form = 2 then i.states + 6 else 6
        reads := [kA i.ra, kAcc, kVr, kMask, if i.form = 2 then kTabC else kTabA, kPtr, kBsched], sr := sa, sw := sa }
  | 0x1D => { unit := .nib, occ := 256, lat := 258, reads := kSweep :: kVr :: rs i.ra, writes := [kVr] }
  | 0x1E =>
    match i.form with
    | 0 => { unit := .nib, lat := 2, reads := [kPtr, kSweep], writes := [kPtr, kSweep] }
    | 1 => { unit := .nib, lat := 2, reads := [kPtr], writes := [kPtr] }
    | 2 => { unit := .nib, occ := 16, lat := 17, reads := [kA i.ra, kTabA], writes := [kTabA], sr := sa }
    | 3 => { unit := .nib, occ := 16, lat := 17, reads := [kA i.ra, kTabC], writes := [kTabC], sr := sa }
    | 4 => { unit := .nib, occ := 64, lat := 65, reads := [kA i.ra, kBsched], writes := [kBsched], sr := sa }
    | _ => { unit := .nib, lat := 2, reads := kSweep :: (rs i.ra ++ rs i.rb), writes := [kSweep] }
  | 0x20 => { unit := .xch, reads := [kA i.ra], sr := sa }
  | 0x21 => { unit := .xch, lat := 2, reads := [kA i.ra], sw := sa }
  | 0x24 => if i.fn < 4 then { unit := .plt, reads := [kA i.ra], sr := sa } else { unit := .plt, reads := rs i.rb }
  | 0x25 => { unit := .plt, lat := 13, reads := if i.fn < 4 then [kA i.ra] else [], writes := rs i.rd, sw := if i.fn < 4 then sa else [] }
  | 0x28 | 0x29 => { unit := .syn, reads := if i.fn = 1 then rs i.ra else [] }
  | 0x2C => { unit := .pgu, reads := [kA i.ra] }
  | 0x30 => { unit := .seq, reads := rs i.ra }
  | _ => { unit := .seq }

/-- The timing of an instruction, its guard predicate among its reads (R148). -/
def tmOf (i : Ins) (l : Lq) : Tm := let t := tmBody i l; { t with reads := rp i.pg ++ t.reads }

def maxs (l : List Nat) : Nat := l.foldl max 0

/-- R148, R181: the execution tick on which an instruction may issue. -/
def Board.issueAt (b : Board) (t : Tm) : Nat :=
  maxs [b.next, kget 0 b.unit t.unit.num,
        maxs ((t.reads ++ t.writes.filter (fun k => k != kAcc)).map (kget 0 b.ready)),
        maxs (t.sr.map (kget 0 b.wdone)), maxs (t.sw.map (fun k => max (kget 0 b.wdone k) (kget 0 b.rdone k))),
        if t.loader then b.loader else 0]

/-- R148: the scoreboard after an issue on execution tick `x`; `done` gives the latency of stores written. -/
def Board.issue (b : Board) (t : Tm) (x : Nat) : Board :=
  { next := x + t.gap
    unit := kset 0 b.unit t.unit.num (x + t.occ)
    ready := t.writes.foldl (fun m k => kset 0 m k (x + t.lat)) b.ready
    wdone := t.sw.foldl (fun m k => kset 0 m k (max (kget 0 m k) (x + t.lat))) b.wdone
    rdone := t.sr.foldl (fun m k => kset 0 m k (max (kget 0 m k) (x + t.occ))) b.rdone
    loader := if t.load = 0 then b.loader else x + t.load }

end Sys2Proof.Machine
end

