-- ==== Sys2Proof/Machine/QuillIssue.lean ====
section
/-!
DEFINITION. The sequencer of a Quill: when it may issue, the fetch, the checks in the order of R165, exceptions, guarded-off
instructions, hardware loops and page-residency waits (chapters 04 and 05).
-/
namespace Sys2Proof.Machine

/-- What an instruction's meaning is given: where it runs, and the state of its logical Quill at issue. -/
structure QCtx where
  q    : Nat
  id   : LqId
  part : Part
  lq   : Lq
  pq   : Pq
  i    : Ins

/-- Where control goes after an instruction. -/
inductive Ctl where
  | seq
  /-- A taken BR or BRR. -/
  | br (t : Nat)
  /-- A LOOP with its count and end index. -/
  | loop (count : W16) (e : Nat)

/-- How an instruction's effect ends. -/
inductive QRes where
  | ok (s : State) (c : Ctl)
  /-- An exception met while the instruction runs: its code and the address to log. -/
  | exn (s : State) (code : W16) (addr : BitVec 48)

/-- R40: crossings of the partition are metered. -/
def Part.metered (p : Part) : Bool := p.timing == .exact || p.timing == .rept

/-- The partition follows the EXACT rules for pages; a demoted one follows those of REPEAT (R59). -/
def Part.exact (p : Part) : Bool := p.timing == .exact && !p.demoted

/-- R54: a tick inside a service window. -/
def inWindow (t : W64) : Bool := 8160 ≤ t.toNat % 8192

/-- Partition `id` is metered. -/
def State.partMetered (s : State) (id : PartId) : Bool := match s.partAt id with | none => false | some p => p.metered

/-- The physical Quill `q` is a metered partition's: of the logical Quill resident on it, or of the one that a swap brings
(R37, R56). -/
def residentMetered (s : State) (q : Nat) : Bool :=
  match (s.pqAt q).res, (s.pqAt q).swap with
  | some id, _ => s.partMetered id.part
  | none, some w => s.partMetered w.next.part
  | none, none => false

/-- R37, R580: the step rate of the column of `q` is halved. -/
def halved (s : State) (q : Nat) : Bool :=
  (s.pwr.thrPower || s.pwr.thrTemp) && !(columnQuills (q % 16 + 1)).any (residentMetered s)

/-- R147: this tick is an execution tick of Quill `q` for partition `p`. -/
def takesStep (s : State) (q : Nat) (p : Part) : Bool :=
  s.domRun (q % 16 + 1) && !(p.metered && inWindow s.now) && !(halved s q && bit s.now 0)

/-- The tick that lies `n` execution ticks after now (R147). -/
def afterExec (s : State) (q : Nat) (p : Part) (n : Nat) : W64 :=
  if p.metered then
    let pos := min (s.now.toNat % 8192) 8159
    s.now + BitVec.ofNat 64 (n + 32 * ((pos + n) / 8160))
  else if halved s q then s.now + BitVec.ofNat 64 (2 * n)
  else s.now + BitVec.ofNat 64 n

/-- The scheduler's stop for a logical Quill. -/
def isStop (id : LqId) (x : XItem) : Bool := match x.pay with | .stop d => d == id | _ => false

/-- R42: what is released to physical Quill `q`, logical Quill `id`, before it issues: flits, the scheduler's stop, replies,
residency notices and cross-triggers. -/
def quillInput (q : Nat) (id : LqId) (now : W64) (x : XItem) : Bool :=
  match x.pay with
  | .flit d _ _ _ _ _ _ => d == id
  | .stop d => d == id
  | .reply d => d == id
  | .pageRep d _ _ => d == id
  | .clampRep d t _ => d == id && (t + 12).ule now
  | .xt _ _ _ => true
  | .seed _ => x.dst == q
  | _ => false

/-- The sequencer of a Quill may take its next instruction: resident, running, not stopped, halted, swapping or waiting, on
an execution tick, and everything that this tick releases to it has been taken (R42, R147, R150, R161, R162, R537). -/
def quillAt (q : Nat) (s : State) : Option QCtx :=
  let pq := s.pqAt q
  match pq.res with
  | none => none
  | some id =>
    match s.partAt id.part with
    | none => none
    | some p =>
      let l := p.lqAt id.l.toNat
      if (p.st == .running || p.st == .stopping) && !l.ended && !l.stopped && !p.halted && pq.swap.isNone && !pq.paused &&
         !dueNow (quillInput q id s.now) s && l.wait.isNone && (match l.pgWait with | none => true | some w => w.unmapped || w.noFrame) && takesStep s q p &&
         (match l.lastTick with | none => true | some t => s.now.ule t) then
        some { q := q, id := id, part := p, lq := l, pq := pq, i := insOf 0 }
      else none

/-- The address of the instruction at index `pc` in the store window of `q` (Table 04.9). -/
def insAddr (q pc : Nat) : BitVec 48 := winAddr q (prBase + 8 * pc)

/-- Table 04.9: the address of an operand. -/
def MemOp.addr (m : MemOp) (q pc : Nat) : BitVec 48 :=
  if m.space = 0 then winAddr q (stBase + m.off)
  else if m.space = 1 then winAddr q (scBase + m.off)
  else if m.space = 2 then (0xFF#8 ++ BitVec.ofNat 40 m.off)
  else insAddr q pc

/-- R161, R168: a Quill exception: the Quill stops, logs and reports it under Q2S. -/
def quillRaise (q : Nat) (id : LqId) (metered : Bool) (code : W16) (addr : BitVec 48) (pc : Nat) (s : State) : State :=
  let s := logErr (.quill (BitVec.ofNat 8 q)) code (BitVec.ofNat 9 q) addr s
  let s := s.modPq q (fun p => { p with running := false })
  let s := s.modLq id (fun l => { l with stopped := true, pgWait := none, wait := none })
  sendX { cls := .q2s, src := q, dst := 0, stamp := s.now, metered := metered, pay := .exn id code (BitVec.ofNat 13 pc) } s

/-- An exception of the instruction at the PC. -/
def QCtx.raise (c : QCtx) (code : W16) (addr : BitVec 48) (s : State) : State :=
  quillRaise c.q c.id c.part.metered code addr c.lq.pc s

/-- The address of the instruction itself. -/
def QCtx.here (c : QCtx) : BitVec 48 := insAddr c.q c.lq.pc

-- Reads of the Quill's own stores (R88, R89)
/-- Count the corrections and the uncorrectable read of one access. -/
def eccNote (q : Nat) (r : StRd) (s : State) : State :=
  if r.corr = 0 ∧ r.bad.isNone then s else
  s.modPq q (fun p => { p with
    corrCnt := (List.range r.corr).foldl (fun n _ => satInc n) p.corrCnt
    uncorrCnt := if r.bad.isSome then satInc p.uncorrCnt else p.uncorrCnt })

/-- A read of `n` bytes at window offset `off`: the bytes, or the address of an uncorrectable word. -/
def quillRead (q off n : Nat) (s : State) : Except (BitVec 48) (List Byte) × State :=
  let r := (s.pqAt q).st.read off n
  let s := eccNote q r s
  match r.bad with
  | some b => (.error (winAddr q b), s)
  | none => (.ok r.bytes, s)

/-- Run `f` on the bytes read, or raise 0x0E80. -/
def withRead (q off n : Nat) (s : State) (f : List Byte → State → QRes) : QRes :=
  match quillRead q off n s with
  | (.error a, s) => .exn s 0x0E80 a
  | (.ok bs, s) => f bs s

/-- The bytes of an operand in the state or scratch store. -/
def withOperand (c : QCtx) (a : BitVec 48) (n : Nat) (s : State) (f : List Byte → State → QRes) : QRes :=
  withRead c.q (storeOff (aSpace a) (aOff a)) n s f

-- Writes by instructions
/-- R73, R127, R148, R186, R536: an instruction writes the bits `m` of the bytes `d` at window offset `off`; it falls on the
last execution tick of its latency `lat` and is complete after it. -/
def quillWriteBits (c : QCtx) (off : Nat) (d m : List Byte) (lat : Nat) (s : State) : State :=
  let old := (s.pqAt c.q).after
  let w : PendWr := { x := some (c.lq.xt + lat - 1), off := off, d := d, m := m }
  let new := w.apply old
  let t := afterExec s c.q c.part lat
  let isSt := stBase ≤ off && off < prBase
  let d' := (new.read off d.length).bytes
  let s := s.modPq c.q (fun p => { p with wr := p.wr ++ [w] })
  let s := s.modLq c.id (fun l =>
    let l := { l with doneX := max l.doneX (c.lq.xt + lat) }
    if isSt then l.digestAll (off - stBase) d' else l)
  if isSt then watchWrite c.id (some c.lq.pc) (BitVec.ofNat 9 c.q) (t - 1) (off - stBase) d' old.stByte new.stByte s else s

/-- An instruction writes whole bytes. -/
def quillWrite (c : QCtx) (off : Nat) (d : List Byte) (lat : Nat) (s : State) : State :=
  quillWriteBits c off d (List.replicate d.length 0xFF) lat s

/-- Change the logical Quill of an issuing instruction. -/
def QCtx.mod (c : QCtx) (f : Lq → Lq) (s : State) : State := s.modLq c.id f

-- Hardware loops (R177, R178)
/-- The loop-end step at index `pc`: the loops that stay active, the counters and the next index. -/
def loopEnd (pc : Nat) : List (Nat × Nat) → KMap W16 → Nat → List (Nat × Nat) × KMap W16 × Nat
  | [], lc, next => ([], lc, next)
  | (st, e) :: rest, lc, next =>
    if e = pc then
      let n := kget 0 lc rest.length - 1
      let lc := kset 0 lc rest.length n
      if n ≠ 0 then ((st, e) :: rest, lc, st) else loopEnd pc rest lc next
    else ((st, e) :: rest, lc, next)

/-- R178: a taken branch to `t` ends the levels whose body does not hold `t`, and every level inside them. -/
def loopsKept (t : Nat) (ls : List (Nat × Nat)) : List (Nat × Nat) :=
  (ls.foldr (fun l kept => if l.1 ≤ t && t ≤ l.2 && !kept.2 then (l :: kept.1, false) else (kept.1, true)) ([], false)).1

/-- The logical Quill after an instruction with control outcome `ctl` at its PC. -/
def Lq.advance (l : Lq) (ctl : Ctl) : Lq :=
  match ctl with
  | .br t => { l with pc := t, loops := loopsKept t l.loops }
  | .seq =>
    let (ls, lc, next) := loopEnd l.pc l.loops l.lc (l.pc + 1)
    { l with pc := next, loops := ls, lc := lc }
  | .loop count e =>
    if count = 0 then
      let (ls, lc, next) := loopEnd l.pc l.loops l.lc (e + 1)
      { l with pc := next, loops := ls, lc := lc }
    else
      { l with pc := l.pc + 1, loops := (l.pc + 1, e) :: l.loops, lc := kset 0 l.lc l.loops.length count }

-- Checks (R165)
/-- R145, R146, R175, R177: the control checks of an instruction that takes effect. -/
def ctlCheck (c : QCtx) : Option W16 :=
  let i := c.i
  if i.op = 0x0C ∧ i.fn = 1 ∧ c.lq.len ≤ i.im 0 12 then some 0x0E8E
  else if i.op = 0x0C ∧ i.fn = 2 ∧ c.lq.len ≤ (fld (c.lq.sReg i.ra) 0 12).toNat then some 0x0E8E
  else if i.op = 0x0D ∧ c.lq.len ≤ i.im 0 12 then some 0x0E8E
  else if i.op = 0x0D ∧ c.lq.loops.length = 4 then some 0x0E8F
  else none

/-- R181: the plane that a DENSE or an MMA pass names does not hold the format it needs. -/
def planeBad (c : QCtx) : Bool :=
  let i := c.i
  let pl := if i.im 2 1 = 1 then c.lq.plane1 else c.lq.plane0
  if i.op = 0x18 ∧ i.form = 2 then pl.fmt != some (BitVec.ofNat 2 (i.im 0 2))
  else if i.op = 0x19 ∧ i.form = 0 then pl.fmt != some (mmaFmt i.sub)
  else false

/-- R157: the object bound to a handle of the partition, unless it has been freed. -/
def handleObj (s : State) (p : Part) (h : Nat) : Option (BitVec 17) :=
  match kget none p.handles h with
  | none => none
  | some n => if (s.syncAt n.toNat).owner = p.id.owner then some n else none

/-- R152: the outbound channel `ch` of logical Quill `l`, and the inbound one. -/
def Part.outChan (p : Part) (l : Byte) (ch : Nat) : Option Chan := p.chans.find? (fun x => x.src == l && x.outCh.toNat == ch)
def Part.inChan (p : Part) (l : Byte) (ch : Nat) : Option Chan := p.chans.find? (fun x => x.dst == l && x.inCh.toNat == ch)

/-- R152 to R155: channel checks of XSEND and XRECV. -/
def chanCheck (c : QCtx) (s : State) : Option (W16 × BitVec 48) :=
  let ch := c.i.im 0 5
  if c.i.op = 0x20 then
    if (c.part.outChan c.id.l ch).isNone then some (0x0E8B, c.here)
    else match kget none c.lq.chLast ch with
      | some t => if s.now.ult (t + 32) then some (0x0E88, c.here) else none
      | none => none
  else if c.i.op = 0x21 then
    if (c.part.inChan c.id.l ch).isNone then some (0x0E8B, c.here)
    else if (kget [] c.lq.chIn ch).isEmpty then
      some (0x0E89, winAddr c.q (storeOff (aSpace (c.lq.aReg c.i.ra)) (aOff (c.lq.aReg c.i.ra))))
    else none
  else none

/-- R192: the mailbox of a POST or CLAMP is not bound to the partition. -/
def mailboxBad (c : QCtx) (s : State) : Bool :=
  let m := c.i.im 26 6
  (c.i.op == 0x24 && kfind s.plant.decBind m != some c.id.part) || (c.i.op == 0x25 && kfind s.plant.evBind m != some c.id.part)

/-- What the page check of an instruction finds. -/
inductive PgR where
  | ok
  | wait (page : Nat)
  | exn (code : W16) (lma : Nat)

/-- R138: the frame that holds page `p`. -/
def Lq.frameOf (l : Lq) (p : Nat) : Option Nat :=
  (l.frames.find? (fun e => e.2.page == some (BitVec.ofNat 24 p))).map (·.1)

/-- All 12 frames hold pinned pages. -/
def Lq.allPinned (l : Lq) : Bool := (List.range 12).all (fun f => (kget {} l.frames f).page.isSome && (kget {} l.frames f).pinned)

/-- The Inkwell that serves physical Quill `q`. -/
def inkOf (q : Nat) : Nat := q % 16 / 4

/-- Of the pages that are missing, the first that the walk does not find (log entry 72). -/
def firstUnmapped (c : QCtx) : List (Nat × Nat) → State → Option (Nat × Nat) × State
  | [], s => (none, s)
  | (p, lma) :: ps, s =>
    match pageWalk (inkOf c.q) c.id.part.owner (BitVec.ofNat 24 p) s with
    | (none, s) => (some (p, lma), s)
    | (some _, s) => firstUnmapped c ps s

/-- R140, R165: the page check. In EXACT timing, or with no frame to be had, the walks of the missing pages tell 0x0E91 from
0x0E87. -/
def pageCheck (c : QCtx) (s : State) : PgR × State :=
  let miss := (pagesOf c.i c.lq).filter (fun p => (c.lq.frameOf p.1).isNone)
  match miss with
  | [] => (.ok, s)
  | (p, lma) :: _ =>
    match c.lq.pgWait with
    | some w => (if w.noFrame then .exn 0x0E87 lma else .exn 0x0E91 lma, s)
    | none =>
      if c.part.exact || c.lq.allPinned then
        match firstUnmapped c miss s with
        | (some (_, lma), s) => (.exn 0x0E91 lma, s)
        | (none, s) => (.exn 0x0E87 lma, s)
      else (.wait p, s)

/-- R139, R141: a request for a page crosses to the Inkwell under Q2I. -/
def pageAsk (c : QCtx) (p : Nat) (hint : Bool) (s : State) : State :=
  sendX { cls := .q2i, src := c.q, dst := inkOf c.q, stamp := s.now, metered := c.part.metered,
          pay := .pageReq c.id (BitVec.ofNat 24 p) hint } s

/-- R258: the pages of the sweep list that follow page `p`, as far as the prefetch depth reaches, that are not resident. -/
def Lq.prefetch (l : Lq) (depth p : Nat) : List (BitVec 24) :=
  let rest := (l.swList.dropWhile (fun x => x != BitVec.ofNat 24 p)).drop 1
  (rest.take depth).filter (fun x => (l.frameOf x.toNat).isNone)

/-- R197, R257, R258: a page is requested now, and read before execution tick `till`: its frame's use, the sweep's list, and the prefetches that follow it. -/
def pageUsed (id : LqId) (exact : Bool) (p : Nat) (till : Nat) (s : State) : State :=
  match s.lqOf id with
  | none => s
  | some l =>
    let pg := BitVec.ofNat 24 p
    let l' := match l.frameOf p with
      | some f => { l with frames := kset {} l.frames f { kget {} l.frames f with
          last := s.now, busy := max (kget {} l.frames f).busy till } }
      | none => l
    let l' := if l'.swCur.length < 64 ∧ !l'.swCur.contains pg then { l' with swCur := l'.swCur ++ [pg] } else l'
    let s := s.modLq id (fun _ => l')
    if exact then s else
    let ask := (l.prefetch s.ink.depth.toNat p).filter (fun x => !(s.ink.reqs ++ s.ink.fetches).any (fun f => f.lq == id && f.page == x && !f.drop))
    let k := match l.place with | some q => inkOf q.toNat | none => 0
    { s with ink := { s.ink with reqs := s.ink.reqs ++ ask.map (fun x =>
      { lq := id, page := x, hint := true, since := s.now, last := s.now, k := k }) } }

/-- The pages an instruction uses. -/
def touchPages (c : QCtx) (s : State) : State :=
  (pagesOf c.i c.lq).foldl (fun s p => pageUsed c.id c.part.exact p.1
    (c.lq.xt + max (tmOf c.i c.lq).occ (tmOf c.i c.lq).load) s) s

-- One issue
/-- The scoreboard and the PC after an issue. -/
def issued (c : QCtx) (ctl : Ctl) (s : State) : State :=
  let tm := tmOf c.i c.lq
  c.mod (fun l => { (l.advance ctl) with
    board := l.board.issue tm c.lq.xt, latX := max l.latX (c.lq.xt + (if c.i.op = 0x28 then 0 else tm.lat)) }) s

/-- An instruction whose guard is 1, past the encoding checks: the checks in the order of R165, then its effect. -/
def runIns (c : QCtx) (eff : QCtx → State → QRes) (s : State) : State :=
  if planeBad c then c.raise 0x0E85 c.here s
  else match ctlCheck c with
  | some code => c.raise code c.here s
  | none =>
    if (c.i.op = 0x28 ∨ c.i.op = 0x29) ∧ (handleObj s c.part (c.i.im 0 4)).isNone then c.raise 0x0E8C c.here s
    else match (memOps c.i c.lq).find? (fun m => !m.ok) with
    | some m => c.raise 0x0E86 (m.addr c.q c.lq.pc) s
    | none =>
      match strokeAddr c.i c.lq with
      | some m => c.raise 0x0E86 (m.addr c.q c.lq.pc) s
      | none =>
        match pageCheck c s with
        | (.exn code lma, s) => c.raise code (0xFF#8 ++ BitVec.ofNat 40 lma) s
        | (.wait p, s) =>
          pageAsk c p false (c.mod (fun l => { l with pgWait := some { page := BitVec.ofNat 24 p, since := s.now } }) s)
        | (.ok, s) =>
          match chanCheck c s with
          | some (code, a) => c.raise code a s
          | none =>
            if mailboxBad c s then c.raise 0x0E8D c.here s
            else match eff c (touchPages c s) with
            | .exn s code a => c.raise code a s
            | .ok s ctl => issued c ctl s

/-- The sequencer of Quill `q` takes the instruction at its PC, which must be of the commanded row; otherwise, and before
its issue tick (R148), the state is unchanged. -/
def quillStep (q : Nat) (row : Ins → Bool) (eff : QCtx → State → QRes) (s : State) : State :=
  match quillAt q s with
  | none => s
  | some c =>
    if c.lq.len ≤ c.lq.pc ∨ c.lq.xt < c.lq.board.next then s
    else match quillRead q (prBase + 8 * c.lq.pc) 8 s with
    | (.error a, s') => c.raise 0x0E80 a s'
    | (.ok bs, s') =>
      let c := { c with i := insOf (leWord 64 bs) }
      if c.lq.xt < c.lq.board.issueAt (tmOf c.i c.lq) then s
      else if !encOk c.i c.lq.pc then c.raise 0x0E85 c.here s'
      else if !row c.i then s
      else if !c.lq.guard c.i then issued c .seq s'
      else runIns c eff s'

/-- PC_RANGE_FALL_THROUGH (R146). -/
def execPcRangeFallThrough (q : Byte) (s : State) : Out :=
  done (match quillAt q.toNat s with
    | none => s
    | some c =>
      if c.lq.len ≤ c.lq.pc ∧ c.lq.board.next ≤ c.lq.xt then
        quillRaise q.toNat c.id c.part.metered 0x0E8E (insAddr q.toNat c.lq.len) c.lq.len s
      else s)

end Sys2Proof.Machine
end

