-- ==== Sys2Proof/Machine/QuillScalar.lean ====
section
/-!
DEFINITION. Scalar, predicate, address, control and store-access instructions, TRACE and BRK (R172 to R179, R195, R196).
-/
namespace Sys2Proof.Machine

/-- An effect on the logical Quill alone. -/
def lqEff (f : QCtx → Lq → Lq) : QCtx → State → QRes := fun c s => .ok (c.mod (f c) s) .seq

/-- Table 05.3. -/
def aluFn (fn : Nat) (a b : W32) : W32 :=
  let sh := (fld b 0 5).toNat
  match fn with
  | 0x00 => a + b
  | 0x01 => a - b
  | 0x02 => a &&& b
  | 0x03 => a ||| b
  | 0x04 => a ^^^ b
  | 0x05 => a <<< sh
  | 0x06 => a >>> sh
  | 0x07 => a.sshiftRight sh
  | 0x08 => b2w (a.slt b)
  | 0x09 => b2w (a.ult b)
  | 0x0A => if a.slt b then a else b
  | 0x0B => if a.slt b then b else a
  | 0x0C => if a.ult b then a else b
  | 0x0D => if a.ult b then b else a
  | 0x10 => a * b
  | 0x11 => fld (a.signExtend 64 * b.signExtend 64) 32 32
  | _ => fld (a.setWidth 64 * b.setWidth 64) 32 32

/-- R173: condition `cc` on a and b. -/
def cmpFn (cc : Nat) (a b : W32) : Bool :=
  match cc with
  | 0 => a == b
  | 1 => a != b
  | 2 => a.slt b
  | 3 => !a.slt b
  | 4 => a.ult b
  | _ => !a.ult b

/-- R173: PRED. -/
def predFn (fn : Nat) (a b : Bool) : Bool :=
  match fn with
  | 0 => a && b
  | 1 => a || b
  | 2 => a != b
  | _ => a && !b

/-- ALU (R172). -/
def execAlu (q : Byte) (s : State) : Out :=
  done (quillStep q.toNat (fun i => i.op == 0x01)
    (lqEff (fun c l => l.setS c.i.rd (aluFn c.i.fn (l.sReg c.i.ra) (l.sReg c.i.rb)))) s)

/-- ALUI (R172). -/
def execAlui (q : Byte) (s : State) : Out :=
  done (quillStep q.toNat (fun i => i.op == 0x02)
    (lqEff (fun c l => l.setS c.i.rd (aluFn c.i.fn (l.sReg c.i.ra) c.i.imm))) s)

/-- CMP (R173). -/
def execCmp (q : Byte) (s : State) : Out :=
  done (quillStep q.toNat (fun i => i.op == 0x03)
    (lqEff (fun c l => l.setP c.i.rd
      (cmpFn (c.i.fn % 8) (l.sReg c.i.ra) (if c.i.fn < 8 then l.sReg c.i.rb else c.i.imm)))) s)

/-- PRED (R173). -/
def execPred (q : Byte) (s : State) : Out :=
  done (quillStep q.toNat (fun i => i.op == 0x04)
    (lqEff (fun c l => l.setP c.i.rd (predFn c.i.fn (l.pReg c.i.ra) (l.pReg c.i.rb)))) s)

/-- The row is form `fn` of ADDR. -/
def isAddr (fn : Nat) (i : Ins) : Bool := i.op == 0x08 && i.fn == fn

/-- ADDR.ASET (R174). -/
def execAddrAset (q : Byte) (s : State) : Out :=
  done (quillStep q.toNat (isAddr 0)
    (lqEff (fun c l => l.setA c.i.rd
      (mkA (c.i.im 28 4) ((l.sReg c.i.ra).setWidth 40 + (fld c.i.imm 0 28).setWidth 40)))) s)

/-- ADDR.AHI (R174). -/
def execAddrAhi (q : Byte) (s : State) : Out :=
  done (quillStep q.toNat (isAddr 1)
    (lqEff (fun c l => l.setA c.i.rd (setFld (l.aReg c.i.rd) 32 (fld c.i.imm 0 8)))) s)

/-- ADDR.AADD (R174, R136). -/
def execAddrAadd (q : Byte) (s : State) : Out :=
  done (quillStep q.toNat (isAddr 2)
    (lqEff (fun c l => let a := l.aReg c.i.ra
      l.setA c.i.rd (mkA (aSpace a) (fld a 0 40 + (l.sReg c.i.rb).signExtend 40 + c.i.imm.signExtend 40)))) s)

/-- ADDR.AGET (R174). -/
def execAddrAget (q : Byte) (s : State) : Out :=
  done (quillStep q.toNat (isAddr 3) (lqEff (fun c l => l.setS c.i.rd (fld (l.aReg c.i.ra) 0 32))) s)

/-- The row is form `fn` of CTRL. -/
def isCtrl (fn : Nat) (i : Ins) : Bool := i.op == 0x0C && i.fn == fn

/-- CTRL.NOP (R175). -/
def execCtrlNop (q : Byte) (s : State) : Out := done (quillStep q.toNat (isCtrl 0) (fun _ s => .ok s .seq) s)

/-- CTRL.BR (R175, R178). -/
def execCtrlBr (q : Byte) (s : State) : Out :=
  done (quillStep q.toNat (isCtrl 1) (fun c s => .ok s (.br (c.i.im 0 12))) s)

/-- CTRL.BRR (R175, R178). -/
def execCtrlBrr (q : Byte) (s : State) : Out :=
  done (quillStep q.toNat (isCtrl 2) (fun c s => .ok s (.br (fld (c.lq.sReg c.i.ra) 0 12).toNat)) s)

/-- CTRL.END (R176): the END issue tick is the earliest stamp of the end report. -/
def execCtrlEnd (q : Byte) (s : State) : Out :=
  done (quillStep q.toNat (isCtrl 3)
    (fun c s => .ok (c.mod (fun l => { l with ended := true }) s) .seq) s)

/-- CTRL.LCRD (R175). -/
def execCtrlLcrd (q : Byte) (s : State) : Out :=
  done (quillStep q.toNat (isCtrl 4) (lqEff (fun c l => l.setS c.i.rd ((kget 0 l.lc c.i.rb).setWidth 32))) s)

/-- Table 03.10: the layout of QCTL_BETA and sr4. -/
def Lq.betaWord (l : Lq) : W32 :=
  kget 0 l.tabB l.ptr.toNat ++ (0 : BitVec 4) ++ b2w (n := 1) l.wrap ++ b2w (n := 1) l.adv ++ l.ptr

/-- The encoding of a timing class (R49). -/
def Timing.code : Timing → BitVec 2 | .exact => 0 | .rept => 1 | .loose => 2 | .undef => 3
def timingOf (x : BitVec 2) : Timing := if x = 0 then .exact else if x = 1 then .rept else if x = 2 then .loose else .undef

/-- Table 04.2: special register `r`. -/
def srRead (c : QCtx) (r : Nat) (s : State) : W32 :=
  match r with
  | 0 => c.id.l.setWidth 32
  | 1 => BitVec.ofNat 32 c.part.nlq
  | 2 => half false c.lq.sweep
  | 3 => half true c.lq.sweep
  | 4 => c.lq.betaWord
  | 5 => fld (s.now - c.part.launchAt) 0 32
  | 6 => c.part.timing.code.setWidth 32 ||| (b2w (!c.part.fixed) <<< 2) ||| (b2w c.part.nn <<< 3) |||
         (b2w c.part.encPm <<< 4) ||| (b2w c.part.demoted <<< 5)
  | _ => c.lq.rxIdx.setWidth 32

-- Tables (R90)
/-- Table 03.14: the QCTL address of entry `n` of table `t` (A, C, β schedule) of physical Quill `q`. -/
def tabAddr (q t n : Nat) : BitVec 48 :=
  BitVec.ofNat 48 (0x030002000000 + q * 0x10000 + (match t with | 0 => 0x1000 | 1 => 0x1400 | _ => 0x2000) + 4 * n)

/-- R90: the first of the entries `ns` of table `t` whose parity is bad. -/
def tabBad (p : Pq) (t : Nat) (ns : List Nat) : Option Nat :=
  let m := match t with | 0 => p.parA | 1 => p.parC | _ => p.parB
  ns.find? (fun n => kget false m n)

/-- Read table entries: a parity error is an uncorrectable store error. -/
def withTab (c : QCtx) (t : Nat) (ns : List Nat) (s : State) (f : State → QRes) : QRes :=
  match tabBad c.pq t ns with
  | some n => .exn (s.modPq c.q (fun p => { p with uncorrCnt := satInc p.uncorrCnt })) 0x0E80 (tabAddr c.q t n)
  | none => f s

/-- CTRL.SRRD (R175, Table 04.2). -/
def execCtrlSrrd (q : Byte) (s : State) : Out :=
  done (quillStep q.toNat (isCtrl 5)
    (fun c s => withTab c 2 (if c.i.rb = 4 then [c.lq.ptr.toNat] else []) s
      (fun s => .ok (c.mod (fun l => l.setS c.i.rd (srRead c c.i.rb s)) s) .seq)) s)

/-- LOOP (R177). -/
def execLoop (q : Byte) (s : State) : Out :=
  done (quillStep q.toNat (fun i => i.op == 0x0D)
    (fun c s => .ok s (.loop (if c.i.fn = 0 then fld c.i.imm 16 16 else fld (c.lq.sReg c.i.ra) 0 16) (c.i.im 0 12))) s)

/-- The window offset of an operand: in model space, the frame that holds its page (R138). -/
def MemOp.loc (m : MemOp) (l : Lq) : Nat :=
  if m.space = 2 then 0x10000 * (l.frameOf (m.off / 0x10000)).getD 0 + m.off % 0x10000 else storeOff m.space m.off

/-- R179: a loaded value extended to 32 bits. -/
def ldExt (fn : Nat) (bs : List Byte) : W32 :=
  match fn with
  | 0 => leWord 32 bs
  | 1 => (leWord 16 bs).signExtend 32
  | 2 => (leWord 16 bs).setWidth 32
  | 3 => (leWord 8 bs).signExtend 32
  | _ => (leWord 8 bs).setWidth 32

/-- LD (R179). -/
def execLd (q : Byte) (s : State) : Out :=
  done (quillStep q.toNat (fun i => i.op == 0x10)
    (fun c s =>
      match memOps c.i c.lq with
      | m :: _ => withRead c.q (m.loc c.lq) m.width s
          (fun bs s => .ok (c.mod (fun l => l.setS c.i.rd (ldExt c.i.fn bs)) s) .seq)
      | [] => .ok s .seq) s)

/-- ST (R179). -/
def execSt (q : Byte) (s : State) : Out :=
  done (quillStep q.toNat (fun i => i.op == 0x11)
    (fun c s =>
      match memOps c.i c.lq with
      | m :: _ => .ok (quillWrite c (m.loc c.lq) (wordBytes m.width (c.lq.sReg c.i.rb)) 2 s) .seq
      | [] => .ok s .seq) s)

/-- R541: a TRACE that takes effect enters the FIFO of its physical Quill, or is dropped and counted. -/
def traceIns (c : QCtx) (s : State) : State :=
  if !bit s.dbg.trCtl 0 then s
  else if 16 ≤ (s.pqAt c.q).fifo.length then { s with dbg := { s.dbg with trDropped := satInc s.dbg.trDropped } }
  else s.modPq c.q (fun p => { p with fifo := p.fifo ++
    [{ v := c.lq.sReg c.i.ra, imm := fld c.i.imm 0 16, pc := BitVec.ofNat 12 c.lq.pc, l := c.id.l, owner := c.id.part.owner
       t := fld s.now 0 48 }] })

/-- TRACE (R195, R541). -/
def execTrace (q : Byte) (s : State) : Out :=
  done (quillStep q.toNat (fun i => i.op == 0x30) (fun c s => .ok (traceIns c s) .seq) s)

/-- R539: a debug BRK. -/
def debugBrk (c : QCtx) (s : State) : State :=
  let ch : Byte := 1 <<< s.dbg.qbrkCh.toNat
  let ag := BitVec.ofNat 9 c.q
  let s := { s with dbg := { s.dbg with
    qbrkHit := true, qbrkLq := c.id.l, qbrkCode := fld c.i.imm 0 16, qbrkPc := BitVec.ofNat 12 c.lq.pc } }
  let s := logErr .dbg 0x0B85 ag c.here s
  let s := s.modPart c.id.part (fun p => { p with haltOn := p.haltOn ||| ch })
  xtFire ch ag (c.mod (fun l => { l with lastTick := some s.now }) s)

/-- BRK (R196, R539). -/
def execBrk (q : Byte) (s : State) : Out :=
  done (quillStep q.toNat (fun i => i.op == 0x3F)
    (fun c s => if s.dbg.qbrkEn then .ok (debugBrk c s) .seq else .exn s 0x0E90 c.here) s)

end Sys2Proof.Machine
end

