-- ==== Sys2Proof/Machine/QuillLat.lean ====
section
/-!
DEFINITION. The coupling lattice: STROKE and MMA (R97 to R107, R117 to R119, R180 to R185, R626, R627).
-/
namespace Sys2Proof.Machine

/-- R106: one saturating addition, and whether it saturated. -/
def satAdd (a : W32) (x : Int) : W32 × Bool :=
  let y := a.toInt + x
  if y < -0x80000000 then (0x80000000, true) else if 0x7FFFFFFF < y then (0x7FFFFFFF, true) else (BitVec.ofInt 32 y, false)

/-- Add the contributions of a list in order. -/
def satAdds (a : W32) (xs : List Int) : W32 × Bool :=
  xs.foldl (fun p x => let r := satAdd p.1 x; (r.1, p.2 || r.2)) (a, false)

/-- R106, R118, R168: saturation sets the sticky bit, and logs 0x0E83 once per launch. -/
def satNote (c : QCtx) (mat : Bool) (s : State) : State :=
  let s := s.modPq c.q (fun p => if mat then { p with maccSat := true } else { p with fieldSat := true })
  let seen := if mat then c.lq.satM else c.lq.satF
  if seen then s
  else
    logErr (.quill (BitVec.ofNat 8 c.q)) 0x0E83 (BitVec.ofNat 9 c.q) c.here
      (c.mod (fun l => if mat then { l with satM := true } else { l with satF := true }) s)

/-- Add contributions to the field accumulators: those of nib i at index i. -/
def addF (c : QCtx) (mat : Bool) (terms : List (List Int)) (s : State) : State :=
  let rs := terms.zipIdx.map (fun t => (t.2, satAdds (kget 0 c.lq.acc t.2) t.1))
  let s := c.mod (fun l => { l with acc := ksetAll 0 l.acc (rs.map (fun r => (r.1, r.2.1))) }) s
  if rs.any (fun r => r.2.2) then satNote c mat s else s

/-- Add contributions to the state accumulators: entry i gives nib i's terms, each a value for each state below S. -/
def addA (c : QCtx) (terms : List (List (List Int))) (s : State) : State :=
  let rs := (terms.zipIdx.map (fun t =>
    (List.range c.i.states).map (fun st =>
      (16 * t.2 + st, satAdds (kget 0 c.lq.sacc (16 * t.2 + st)) (t.1.map (fun r => r.getD st 0)))))).flatten
  let s := c.mod (fun l => { l with sacc := ksetAll 0 l.sacc (rs.map (fun r => (r.1, r.2.1))) }) s
  if rs.any (fun r => r.2.2) then satNote c false s else s

/-- The signed little-endian halfwords of a list of bytes. -/
def halves : List Byte → List W16
  | a :: b :: l => (b ++ a) :: halves l
  | _ => []

/-- The signed 4-bit values of a list of bytes, the low nibble first (R98). -/
def nibbles (l : List Byte) : List Int := l.flatMap (fun b => [(fld b 0 4).toInt, (fld b 4 4).toInt])

/-- Variable i of 256 binary variables (R94), and of 256 categorical ones (R96). -/
def binVars (l : List Byte) : List Nat := l.flatMap (fun b => (List.range 8).map (fun i => b2n (bit b i)))
def catVars (l : List Byte) : List Nat := l.flatMap (fun b => [(fld b 0 4).toNat, (fld b 4 4).toNat])

/-- R95, R103: the contribution of weight `w` and stored bit `x`. -/
def binContrib (pm : Bool) (w : Int) (x : Nat) : Int := if pm then 2 * w * (2 * x - 1) else w * x

def sumInt (l : List Int) : Int := l.foldl (· + ·) 0

/-- The row of form `f` of STROKE. -/
def isStroke (f : Nat) (i : Ins) : Bool := i.op == 0x18 && i.form == f

/-- STROKE.INIT (R100, R103, R104, R180). -/
def initEff (c : QCtx) (s : State) : QRes :=
  let i := c.i
  let put := fun (b : Nat → Int) (s : State) =>
    if i.cat then
      c.mod (fun l => { l with sacc := ksetAll 0 l.sacc ((List.range 256).flatMap (fun n =>
        (List.range i.states).map (fun st => (16 * n + st, BitVec.ofInt 32 (b (i.states * n + st)))))) }) s
    else
      c.mod (fun l => { l with acc := ksetAll 0 l.acc ((List.range 256).map (fun n =>
        (n, BitVec.ofInt 32 ((if c.part.encPm then 2 else 1) * b n)))) }) s
  if i.im 8 1 = 1 then .ok (put (fun _ => 0) s) .seq
  else withOperand c (c.lq.aReg i.ra) (512 * i.states) s
    (fun bs s => let hs := halves bs; .ok (put (fun n => (hs.getD n 0).toInt) s) .seq)

/-- STROKE_INIT. -/
def execStrokeInit (q : Byte) (s : State) : Out := done (quillStep q.toNat (isStroke 0) initEff s)

/-- Read several ranges of window offsets, one after another. -/
def withReads (q : Nat) : List (Nat × Nat) → State → List Byte → (List Byte → State → QRes) → QRes
  | [], s, acc, f => f acc s
  | (off, n) :: rs, s, acc, f => withRead q off n s (fun bs s => withReads q rs s (acc ++ bs) f)

/-- The coupling-store ranges of `n` bytes at LMA `a`, page by page. -/
def couplingAt (l : Lq) (a n : Nat) : List (Nat × Nat) :=
  let p := a / 0x10000
  let k := min n (0x10000 - a % 0x10000)
  let r := fun (a k : Nat) => (0x10000 * (l.frameOf (a / 0x10000)).getD 0 + a % 0x10000, k)
  if k = n then [r a n] else [r a k, r ((p + 1) * 0x10000) (n - k)]

/-- The bytes of a block as a plane holds them. -/
def planeOf (fmt : BitVec 2) (bs : List Byte) : Plane :=
  { fmt := some fmt, data := (bs.zipIdx.map (fun e => (e.2, e.1))).filter (fun e => e.2 ≠ 0) }

/-- STROKE.PLOAD (R181, R182, Table 05.6). -/
def ploadEff (c : QCtx) (s : State) : QRes :=
  let w := c.i.im 0 2
  withReads c.q (couplingAt c.lq (aOff (c.lq.aReg c.i.rb)) (planeBytes w)) s [] (fun bs s =>
    let p := planeOf (BitVec.ofNat 2 w) bs
    .ok (c.mod (fun l => if c.i.im 2 1 = 1 then { l with plane1 := p } else { l with plane0 := p }) s) .seq)

/-- STROKE_PLOAD. -/
def execStrokePload (q : Byte) (s : State) : Out := done (quillStep q.toNat (isStroke 1) ploadEff s)

/-- Row i of a weight plane: 256 signed weights (R98, Table 05.6). -/
def Plane.row (p : Plane) (i : Nat) : List Int :=
  match p.fmt with
  | some 0 => nibbles (kread 0 p.data (128 * i) 128)
  | some 1 => (kread 0 p.data (256 * i) 256).map BitVec.toInt
  | _ => (halves (kread 0 p.data (512 * i) 512)).map BitVec.toInt

/-- The plane an instruction names. -/
def QCtx.plane (c : QCtx) : Plane := if c.i.im 2 1 = 1 then c.lq.plane1 else c.lq.plane0

/-- R104: the sum of the weights whose source holds `st`. -/
def pottsSum (ws : List Int) (xs : List Nat) (st : Nat) : Int :=
  sumInt ((ws.zip xs).map (fun p => if p.2 = st then p.1 else 0))

/-- STROKE.DENSE (R103, R104, R107, R180). -/
def denseEff (c : QCtx) (s : State) : QRes :=
  let a := c.lq.aReg c.i.ra
  if c.i.cat then
    withOperand c a 128 s (fun bs s =>
      let xs := catVars bs
      .ok (addA c ((List.range 256).map (fun n =>
        let ws := c.plane.row n
        [(List.range c.i.states).map (pottsSum ws xs)])) s) .seq)
  else
    withOperand c a 32 s (fun bs s =>
      let xs := binVars bs
      .ok (addF c false ((List.range 256).map (fun n =>
        [sumInt (((c.plane.row n).zip xs).map (fun p => binContrib c.part.encPm p.1 p.2))])) s) .seq)

/-- STROKE_DENSE. -/
def execStrokeDense (q : Byte) (s : State) : Out := done (quillStep q.toNat (isStroke 2) denseEff s)

/-- R99: the entries (index, weight) of one row of a sparse list. -/
def sparseRow (i : Ins) (row : List Byte) : List (Nat × Int) :=
  if i.im 0 2 = 0 then (halves row).map (fun h => ((fld h 0 12).toNat, (fld h 12 4).toInt))
  else
    let n := 3 * i.degree / 2
    let idx : Nat := leNat (row.take n)
    (List.range i.degree).map (fun e => (idx / 2 ^ (12 * e) % 4096, ((row.drop n).getD e 0).toInt))

/-- The state-store byte, and the bit or nibble in it, of variable `v` of the region at byte `base` (R94, R96). -/
def varByte (cat : Bool) (base v : Nat) : Nat := if cat then base + v / 2 else base + v / 8
def varIn (cat : Bool) (v : Nat) (b : Byte) : Nat :=
  if cat then (fld b (4 * (v % 2)) 4).toNat else b2n (bit b (v % 8))

/-- Count and check the words of the state store that an instruction's variables lie in: R88 and R89 for scattered reads. -/
def withScatter (c : QCtx) (bytes : List Nat) (s : State) (f : State → QRes) : QRes :=
  let t := (s.pqAt c.q).st
  let es := (t.checks stBase 0x10000).filter (fun e => bytes.any (fun b => (stBase + b) / 8 == e.1))
  let r : StRd := { bad := (es.find? (fun e => e.2 == .bad)).map (fun e => 8 * e.1), corr := (es.filter (fun e => e.2 == .corr)).length }
  let s := eccNote c.q r s
  match r.bad with
  | some b => .exn s 0x0E80 (winAddr c.q b)
  | none => f s

/-- STROKE.SPARSE (R99, R103, R104, R180). -/
def sparseEff (c : QCtx) (s : State) : QRes :=
  let i := c.i
  let base := aOff (c.lq.aReg i.ra)
  let rb := rowBytes i
  withReads c.q (couplingAt c.lq (aOff (c.lq.aReg i.rb)) (256 * rb)) s [] (fun bs s =>
    let rows := (List.range 256).map (fun n => (sparseRow i ((bs.drop (n * rb)).take rb)).filter (fun e => e.2 ≠ 0))
    let at_ := fun (idx : Nat) => i.im 9 11 * 256 + idx
    withScatter c (rows.flatMap (fun r => r.map (fun e => varByte i.cat base (at_ e.1)))) s (fun s =>
      let t := (s.pqAt c.q).st
      let val := fun (idx : Nat) => varIn i.cat (at_ idx) (t.stByte (varByte i.cat base (at_ idx)))
      if i.cat then
        .ok (addA c (rows.map (fun r =>
          let xs := r.map (fun e => val e.1)
          [(List.range i.states).map (pottsSum (r.map (·.2)) xs)])) s) .seq
      else
        .ok (addF c false (rows.map (fun r => [sumInt (r.map (fun e => binContrib c.part.encPm e.2 (val e.1)))])) s) .seq))

/-- STROKE_SPARSE. -/
def execStrokeSparse (q : Byte) (s : State) : Out := done (quillStep q.toNat (isStroke 3) sparseEff s)

/-- Table 03.3: a factor descriptor. -/
structure Desc where
  tbase : Nat
  arity : Nat
  kind  : Nat → Bool
  cnt   : Nat → Nat
  var   : Nat → Nat

def descOf (d : BitVec 128) : Desc :=
  { tbase := (fld d 0 16).toNat, arity := (fld d 16 2).toNat, kind := fun n => bit d (18 + n)
    cnt := fun n => (fld d (32 + 4 * n) 4).toNat + 1, var := fun n => (fld d (48 + 12 * n) 12).toNat }

/-- How the reads of one slot end: the terms for the accumulators, or the exception. -/
inductive SlotR where
  | ok (s : State) (t : List Int)
  | exn (s : State) (code : W16) (addr : BitVec 48)

/-- One read of a factor stroke. -/
def slotRead (q off n : Nat) (s : State) (f : List Byte → State → SlotR) : SlotR :=
  match quillRead q off n s with
  | (.error a, s) => .exn s 0x0E80 a
  | (.ok bs, s) => f bs s

/-- The values of the variables of a descriptor but the target `pos`, in order. -/
def slotVars (c : QCtx) (d : Desc) (pos base : Nat) : List Nat → List Nat → State → (List Nat → State → SlotR) → SlotR
  | [], acc, s, f => f acc s
  | k :: ks, acc, s, f =>
    if k = pos then slotVars c d pos base ks (acc ++ [0]) s f else
    let v := c.i.im 9 11 * 256 + d.var k
    let b := varByte (d.kind k) base v
    if 0x10000 ≤ b then .exn s 0x0E86 (winAddr c.q (stBase + b))
    else slotRead c.q (stBase + b) 1 s (fun bs s => slotVars c d pos base ks (acc ++ [varIn (d.kind k) v (bs.headD 0)]) s f)

/-- R101: the index of an entry: mixed radix, variable 0 least significant, bits [11:0]. -/
def mixIndex (d : Desc) (xs : List Nat) : Nat :=
  ((xs.zipIdx).foldr (fun x acc => x.1 + d.cnt x.2 * acc) 0) % 4096

/-- R97: a source variable of the factor holds a categorical value that its state count does not have. -/
def Desc.noState (d : Desc) (pos : Nat) (xs : List Nat) : Bool :=
  xs.zipIdx.any (fun x => x.2 != pos && d.kind x.2 && d.cnt x.2 ≤ x.1)

/-- The energies of a factor with the target at each of `vals`. -/
def slotPhi (c : QCtx) (d : Desc) (pos : Nat) (xs : List Nat) : List Nat → List Int → State → (List Int → State → SlotR) → SlotR
  | [], acc, s, f => f acc s
  | v :: vs, acc, s, f =>
    let e := d.tbase + 2 * mixIndex d (xs.set pos v)
    if e % 2 = 1 ∨ 0x8000 ≤ e then .exn s 0x0E86 (winAddr c.q (scBase + e))
    else slotRead c.q (scBase + e) 2 s (fun bs s => slotPhi c d pos xs vs (acc ++ [(leWord 16 bs).toInt]) s f)

/-- R101 to R104, R626: one slot of a factor stroke. A factor with a source that matches no state contributes nothing and
reads no table entry (R97, log entry 160). -/
def slotRun (c : QCtx) (slot : W16) (s : State) : SlotR :=
  if !bit slot 15 then .ok s [] else
  let pos := (fld slot 12 2).toNat
  let a := 16 * (fld slot 0 12).toNat
  if 0x8000 ≤ a then .exn s 0x0E86 (winAddr c.q (scBase + a))
  else slotRead c.q (scBase + a) 16 s (fun bs s =>
    let d := descOf (leWord 128 bs)
    if d.arity < pos ∨ d.kind pos ≠ c.i.cat then .ok s []
    else slotVars c d pos (aOff (c.lq.aReg c.i.ra)) (List.range (d.arity + 1)) [] s (fun xs s =>
      if d.noState pos xs then .ok s [] else slotPhi c d pos xs (List.range (if c.i.cat then c.i.states else 2)) [] s (fun ph s =>
        if c.i.cat then .ok s (ph.map (fun x => -x))
        else .ok s [ph.getD 0 0 - ph.getD 1 0])))

/-- The slots of one nib, in order. -/
def slotsRun (c : QCtx) : List W16 → List (List Int) → State → (List (List Int) → State → QRes) → QRes
  | [], acc, s, f => f acc s
  | w :: ws, acc, s, f =>
    match slotRun c w s with
    | .exn s code a => .exn s code a
    | .ok s t => slotsRun c ws (if t.isEmpty then acc else acc ++ [t]) s f

/-- The nibs of a factor stroke, in order. -/
def nibsRun (c : QCtx) : List Nat → List (List (List Int)) → State → (List (List (List Int)) → State → QRes) → QRes
  | [], acc, s, f => f acc s
  | n :: ns, acc, s, f =>
    withRead c.q (scBase + aOff (c.lq.aReg c.i.rb) + 16 * n) (2 * (c.i.im 5 3 + 1)) s (fun bs s =>
      slotsRun c (halves bs) [] s (fun ts s => nibsRun c ns (acc ++ [ts]) s f))

/-- STROKE.FACTOR (R101 to R104, R106, R626). -/
def factorEff (c : QCtx) (s : State) : QRes :=
  nibsRun c (List.range 256) [] s (fun ts s =>
    .ok (if c.i.cat then addA c ts s else addF c false (ts.map (fun l => l.map (fun t => t.headD 0))) s) .seq)

/-- STROKE_FACTOR. -/
def execStrokeFactor (q : Byte) (s : State) : Out := done (quillStep q.toNat (isStroke 4) factorEff s)

-- Matrix mode
/-- The row of form `f` of MMA. -/
def isMma (f : Nat) (i : Ins) : Bool := i.op == 0x19 && i.form == f

/-- R185: the 256 integer input elements of format `fmt`. -/
def mmaIn (fmt : Nat) (bs : List Byte) : List Int :=
  match fmt with
  | 0 | 1 => (binVars bs).map Int.ofNat
  | 2 => nibbles bs
  | 3 => bs.map BitVec.toInt
  | _ => (halves bs).map BitVec.toInt

/-- MMA.PASS (R117 to R119, R185, R627). -/
def passEff (c : QCtx) (s : State) : QRes :=
  let fmt := c.i.sub
  withOperand c (c.lq.aReg c.i.ra) (mmaBytes fmt) s (fun bs s =>
    if fmt = 5 then
      let xs := (halves bs).map bf16
      let acc := (List.range 256).map (fun n =>
        let ws := (halves (kread 0 c.plane.data (512 * n) 512)).map bf16
        (n, fpAdd (kget 0 c.lq.acc n) (fpTree 8 ((ws.zip xs).map (fun p => fpMul p.1 p.2)))))
      .ok (c.mod (fun l => { l with acc := ksetAll 0 l.acc acc }) s) .seq
    else
      let xs := mmaIn fmt bs
      .ok (addF c true ((List.range 256).map (fun n =>
        [sumInt (((c.plane.row n).zip xs).map (fun p => p.1 * p.2))])) s) .seq)

/-- MMA_PASS. -/
def execMmaPass (q : Byte) (s : State) : Out := done (quillStep q.toNat (isMma 0) passEff s)

/-- MMA_CLR (R185). -/
def execMmaClr (q : Byte) (s : State) : Out :=
  done (quillStep q.toNat (isMma 1) (lqEff (fun _ l => { l with acc := [] })) s)

/-- MMA_STORE (R185). -/
def execMmaStore (q : Byte) (s : State) : Out :=
  done (quillStep q.toNat (isMma 2) (fun c s =>
    let a := c.lq.aReg c.i.ra
    .ok (quillWrite c (storeOff (aSpace a) (aOff a)) (bytesOfWords c.lq.acc 256) 33 s) .seq) s)

end Sys2Proof.Machine
end

