-- ==== Sys2Proof/Machine/Woad.lean ====
section
/-!
DEFINITION. Woad, the repeatable variate function (R297, R298).
-/
namespace Sys2Proof.Machine

/-- The four words of Woad's state. -/
structure WoadSt where
  x0 : W32
  x1 : W32
  x2 : W32
  x3 : W32
deriving DecidableEq, Repr

/-- Round `r` of R297. -/
def woadRound (k0 k1 : W32) (r : Nat) (x : WoadSt) : WoadSt :=
  let x0 := x.x0 + x.x1 + (if r % 2 = 1 then k1 else k0) + BitVec.ofNat 32 r
  let x1 := x.x1.rotateLeft 12 ^^^ x0
  let x2 := x.x2 + x.x3
  let x3 := x.x3.rotateLeft 8 ^^^ x2
  { x0 := x0, x1 := x3, x2 := x2, x3 := x1 }

/-- R297. -/
def woad (key : W64) (stream : W32) (sweep : W64) (draw : W16) : BitVec 128 :=
  let k0 := fld key 0 32
  let k1 := fld key 32 32
  let ctr := (sweep <<< 16) ||| draw.setWidth 64
  let x := (List.range 6).foldl (fun x r => woadRound k0 k1 r x)
    { x0 := fld ctr 0 32, x1 := fld ctr 32 32, x2 := stream, x3 := 0x5E97A3C1 }
  (x.x3 ^^^ k1) ++ (x.x2 ^^^ k0) ++ (x.x1 ^^^ k1) ++ (x.x0 ^^^ k0)

/-- R298: a variate. -/
def variate (key : W64) (stream : W32) (sweep : W64) (draw : W16) : W16 := fld (woad key stream sweep draw) 0 16

end Sys2Proof.Machine
end

