-- ==== Sys2Proof/Machine/QuillNib.lean ====
section
/-!
DEFINITION. The nib row: ACCEPT, VAR and BETA (R97, R108 to R113, R121, R125, R186 to R188, R628).
-/
namespace Sys2Proof.Machine

/-- R108, R109: the table index of an energy difference. -/
def tabIndex (x : Int) (b : W16) (sh : Nat) : Nat := (max (-128) (min 127 (x * b.toNat / 2 ^ sh)) + 128).toNat

/-- The bytes of 256 bits, and of 256 nibbles. -/
def packBits (l : List Bool) : List Byte :=
  wordBytes 32 (BitVec.ofNat 256 (l.foldr (fun b n => b2n b + 2 * n) 0))
def packNibs (l : List Nat) : List Byte :=
  wordBytes 128 (BitVec.ofNat 1024 (l.foldr (fun v n => v % 16 + 16 * n) 0))

/-- The row of form `f` of ACCEPT. -/
def isAccept (f : Nat) (i : Ins) : Bool := i.op == 0x1C && i.form == f

/-- R125, R628: an ACCEPT of a native-noise launch on a Quill without a passed calibration falls back to Woad, for good. -/
def nnFall (c : QCtx) (s : State) : Bool × State :=
  if !c.part.nn then (false, s)
  else if !c.lq.fallback && c.pq.calPass then (true, s)
  else
    let s := s.modPq c.q (fun p => { p with fallback := true })
    let s := s.modPart c.id.part (fun p => { p with nnFell := true })
    (false, c.mod (fun l => { l with fallback := true }) s)

/-- R108: the energy difference of nib `n` with field F and current bit `cur`. -/
def deltaE (mh cur : Bool) (f : W32) : Int := (if mh && cur then f else -f).toInt

/-- R108, R121: one binary decision: accepted or not. `nn` is the comparator's free answer in native-noise mode. -/
def decideBin (nn : Option Bool) (t u : W16) : Bool :=
  match nn with
  | some sw => t == 0xFFFF || (0x100 ≤ t.toNat && sw)
  | none => t == 0xFFFF || u.ult t

/-- R108: the new value. -/
def newBin (mh cur acc : Bool) : Bool := if mh then (if acc then !cur else cur) else acc

/-- ACCEPT.HB and ACCEPT.MH (R108, R121, R186). -/
def acceptBin (mh : Bool) (c : QCtx) (s : State) : QRes :=
  let l := c.lq
  let a := l.aReg c.i.ra
  withOperand c a 32 s (fun bs s =>
    withTab c 2 [l.ptr.toNat] s (fun s =>
      let curs := binVars bs
      let b := kget 0 l.tabB l.ptr.toNat
      let ks := (curs.zipIdx).map (fun e => tabIndex (deltaE mh (e.1 == 1) (kget 0 l.acc e.2)) b l.tshA.toNat)
      let used := ((List.range 256).filter (kget true l.mask)).map (fun n => ks.getD n 0)
      withTab c 0 used s (fun s =>
        let (nn, s) := nnFall c s
        let (xs, s) := if nn then drawN 256 s else ([], s)
        let new := (curs.zipIdx).map (fun e =>
          let cur := e.1 == 1
          if kget true l.mask e.2 then
            newBin mh cur (decideBin (if nn then some (xs.getD e.2 0 % 2 == 1) else none)
              (kget 0 l.tabA (ks.getD e.2 0)) (kget 0 l.vr e.2))
          else cur)
        .ok (quillWrite c (storeOff 0 (aOff a)) (packBits new) 6 s) .seq)))

/-- ACCEPT_HB. -/
def execAcceptHb (q : Byte) (s : State) : Out := done (quillStep q.toNat (isAccept 0) (acceptBin false) s)

/-- ACCEPT_MH. -/
def execAcceptMh (q : Byte) (s : State) : Out := done (quillStep q.toNat (isAccept 1) (acceptBin true) s)

/-- The running sums of a list. -/
def runSums : Nat → List Nat → List Nat
  | _, [] => []
  | acc, x :: xs => (acc + x) :: runSums (acc + x) xs

/-- R97, R109: the state drawn from weights `ws` by variate `u`. -/
def drawCat (ws : List Nat) (u : W16) (cur : Nat) : Nat :=
  let cum := runSums 0 ws
  let c := cum.getLastD 0
  if c = 0 then (if cur < ws.length then cur else 0)
  else (cum.findIdx? (fun x => u.toNat * c / 65536 < x)).getD 0

/-- R109: the table indices of nib `n`. -/
def catIndices (l : Lq) (states n : Nat) (b : W16) : List Nat :=
  let as := (List.range states).map (fun st => (kget 0 l.sacc (16 * n + st)).toInt)
  let top := as.foldl max (as.headD 0)
  as.map (fun a => tabIndex (top - a) b l.tshC.toNat)

/-- ACCEPT.CAT (R109, R186). -/
def acceptCat (c : QCtx) (s : State) : QRes :=
  let l := c.lq
  let a := l.aReg c.i.ra
  withOperand c a 128 s (fun bs s =>
    withTab c 2 [l.ptr.toNat] s (fun s =>
      let b := kget 0 l.tabB l.ptr.toNat
      let ns := (List.range 256).filter (kget true l.mask)
      withTab c 1 (ns.flatMap (fun n => catIndices l c.i.states n b)) s (fun s =>
        let new := (catVars bs).zipIdx.map (fun e =>
          if kget true l.mask e.2 then
            drawCat ((catIndices l c.i.states e.2 b).map (fun k => (kget 0 l.tabC k).toNat)) (kget 0 l.vr e.2) e.1
          else e.1)
        .ok (quillWrite c (storeOff 0 (aOff a)) (packNibs new) (c.i.states + 6) s) .seq)))

/-- ACCEPT_CAT. -/
def execAcceptCat (q : Byte) (s : State) : Out := done (quillStep q.toNat (isAccept 2) acceptCat s)

/-- ACCEPT_MASK (R186). -/
def execAcceptMask (q : Byte) (s : State) : Out :=
  done (quillStep q.toNat (isAccept 3) (fun c s =>
    withOperand c (c.lq.aReg c.i.ra) 32 s (fun bs s =>
      .ok (c.mod (fun l => { l with mask := ksetAll true l.mask ((binVars bs).zipIdx.map (fun e => (e.2, e.1 == 1))) }) s) .seq)) s)

/-- VAR (R187). -/
def execVar (q : Byte) (s : State) : Out :=
  done (quillStep q.toNat (fun i => i.op == 0x1D) (lqEff (fun c l =>
    { l with vr := ksetAll 0 [] ((List.range 256).map (fun n =>
        (n, variate c.part.key (l.sReg c.i.ra + BitVec.ofNat 32 n) l.sweep (fld c.i.imm 0 16)))) })) s)

/-- The row of form `f` of BETA. -/
def isBeta (f : Nat) (i : Ins) : Bool := i.op == 0x1E && i.form == f

/-- R113: the pointer after a BETA.ADV. -/
def ptrNext (adv wrap : Bool) (p : BitVec 10) : BitVec 10 :=
  if !adv then p else if p.toNat < 1023 then p + 1 else if wrap then 0 else 1023

/-- R113, R258: a BETA.ADV ends a sweep. -/
def Lq.sweepEnd (l : Lq) : Lq :=
  { l with sweep := l.sweep + 1, ptr := ptrNext l.adv l.wrap l.ptr
           swList := if l.swFull then l.swCur else [], swCur := [], swFull := true }

/-- BETA_ADV (R113, R188). -/
def execBetaAdv (q : Byte) (s : State) : Out := done (quillStep q.toNat (isBeta 0) (lqEff (fun _ l => l.sweepEnd)) s)

/-- BETA_SET (R188). -/
def execBetaSet (q : Byte) (s : State) : Out :=
  done (quillStep q.toNat (isBeta 1)
    (lqEff (fun c l => { l with ptr := fld c.i.imm 0 10, adv := bit c.i.imm 10, wrap := bit c.i.imm 11 })) s)

/-- A table of halfwords, entry 0 first. -/
def tabOf (bs : List Byte) : KMap W16 := ksetAll 0 [] ((halves bs).zipIdx.map (fun e => (e.2, e.1)))

/-- BETA_LDA (R90, R111, R188). -/
def execBetaLda (q : Byte) (s : State) : Out :=
  done (quillStep q.toNat (isBeta 2) (fun c s =>
    withOperand c (c.lq.aReg c.i.ra) 512 s (fun bs s =>
      .ok (c.mod (fun l => { l with tabA := tabOf bs, tshA := fld c.i.imm 0 5 })
        (s.modPq c.q (fun p => { p with parA := [] }))) .seq)) s)

/-- BETA_LDC (R90, R111, R188). -/
def execBetaLdc (q : Byte) (s : State) : Out :=
  done (quillStep q.toNat (isBeta 3) (fun c s =>
    withOperand c (c.lq.aReg c.i.ra) 512 s (fun bs s =>
      .ok (c.mod (fun l => { l with tabC := tabOf bs, tshC := fld c.i.imm 0 5 })
        (s.modPq c.q (fun p => { p with parC := [] }))) .seq)) s)

/-- BETA_LDS (R90, R188). -/
def execBetaLds (q : Byte) (s : State) : Out :=
  done (quillStep q.toNat (isBeta 4) (fun c s =>
    withOperand c (c.lq.aReg c.i.ra) 2048 s (fun bs s =>
      .ok (c.mod (fun l => { l with tabB := tabOf bs }) (s.modPq c.q (fun p => { p with parB := [] }))) .seq)) s)

/-- BETA_SWEEP (R188). -/
def execBetaSweep (q : Byte) (s : State) : Out :=
  done (quillStep q.toNat (isBeta 5) (lqEff (fun c l => { l with sweep := l.sReg c.i.rb ++ l.sReg c.i.ra })) s)

end Sys2Proof.Machine
end

