-- ==== Sys2Proof/Machine/Sync.lean ====
section
/-!
DEFINITION. Sync objects: allocation, increments, register writes and the waits that name them (R213, R214, R233 to R236).
-/
namespace Sys2Proof.Machine

/-- The number of sync objects (R233). -/
def syncCount : Nat := 131072

/-- R233: an increment of object `n` by `v` for owner `o`, made by agent `ag`. -/
def applyIncr (o : Owner) (n : Nat) (v : W32) (ag : Agent) (s : State) : State :=
  let x := s.syncAt n
  if x.owner = o ∧ o ≠ 0x7F then s.setSync n { x with count := x.count + v }
  else logErr .sched 0x0480 ag (BitVec.ofNat 48 n) s

/-- R159, R214: the value `c` has reached `v` in signed 32-bit difference. -/
def reached (c v : W32) : Bool := !(c - v).slt 0

/-- Objects an owner holds. -/
def syncUsed (o : Owner) (s : State) : Nat := (s.sync.filter (fun e => e.2.owner == o)).length

/-- The lowest number from `n` upward that a sorted list of objects leaves free. -/
def lowestFree : Nat → KMap SyncObj → Nat
  | n, [] => n
  | n, (k, x) :: m => if k = n then (if x.owner = 0x7F then n else lowestFree (n + 1) m) else n

/-- R234: allocate for owner `o`: the word the read returns. -/
def syncAllocFor (o : Owner) (s : State) : W32 × State :=
  let n := lowestFree 0 s.sync
  if (s.ownAt o.toNat).quota.toNat ≤ syncUsed o s then (0x80000401, s)
  else if syncCount ≤ n then (0x80000405, s)
  else (BitVec.ofNat 32 n, s.setSync n { owner := o })

/-- SYNC_ALLOC (R234). -/
def execSyncAlloc (ag : Agent) (o : Owner) (s : State) : Out :=
  done (if o.toNat ≤ 64 then let (w, s) := syncAllocFor o s; ans ag .ok (w.setWidth 512) s else s)

-- Fields of a command header (Table 06.1)
def Cmd.op (c : Cmd) : Nat := (fld c 0 8).toNat
def Cmd.waitEn (c : Cmd) : Bool := bit c 8
def Cmd.consume (c : Cmd) : Bool := bit c 9
def Cmd.signalEn (c : Cmd) : Bool := bit c 10
def Cmd.signalAlways (c : Cmd) : Bool := bit c 11
def Cmd.irq (c : Cmd) : Bool := bit c 12
def Cmd.fence (c : Cmd) : Bool := bit c 13
def Cmd.cpl (c : Cmd) : Bool := bit c 14
def Cmd.waitObj (c : Cmd) : Nat := (fld c 16 17).toNat
def Cmd.signalObj (c : Cmd) : Nat := (fld c 33 17).toNat
/-- `w` bits at bit `b` of the little-endian field that starts at byte `i`. -/
def Cmd.f (c : Cmd) (i b w : Nat) : Nat := (fld c (8 * i + b) w).toNat

/-- The command at the head of a queue waits on object `n`. -/
def QSlot.waitsOn (x : QSlot) (n : Nat) : Bool := x.checked && x.cmd.waitEn && !x.waited && x.cmd.waitObj == n

/-- Some queue's head waits on object `n` (R235). -/
def awaited (n : Nat) (s : State) : Bool :=
  s.sched.queue.any (fun e => match e.2.slots with | x :: _ => x.waitsOn n | [] => false)

/-- R235: free object `n` of owner `o`. -/
def syncFreeFor (o : Owner) (n : Nat) (s : State) : State :=
  let x := s.syncAt n
  if syncCount ≤ n ∨ x.owner ≠ o then setCtxReason o.toNat 0x0402 s
  else if x.bound ≠ 0 ∨ awaited n s then setCtxReason o.toNat 0x0403 s
  else s.setSync n { x with owner := 0x7F }

/-- SYNC_FREE (R235). -/
def execSyncFree (o : Owner) (n : W32) (s : State) : Out := done (if o.toNat ≤ 64 then syncFreeFor o n.toNat s else s)

/-- R236: a register write of COUNT or THRESH, released at the scheduler now, waits for the next tick. -/
def syncWrite (o : Owner) (ag : Agent) (n : BitVec 17) (thresh : Bool) (v : W32) (s : State) : State :=
  { s with syncWr := s.syncWr ++ [{ owner := o, obj := n, thresh := thresh, v := v, ag := ag, rel := s.now }] }

/-- SYNC_COUNT_WRITE (R236). -/
def execSyncCountWrite (o : Owner) (n : BitVec 17) (thresh : Bool) (v : W32) (s : State) : Out :=
  done (syncWrite o agHost n thresh v s)

/-- R236: a register write takes effect; one for a free object is ignored and logged. -/
def syncApply (w : SyncWr) (s : State) : State :=
  let n := w.obj.toNat
  let x := s.syncAt n
  if x.owner = 0x7F then logErr .sched 0x0480 w.ag (BitVec.ofNat 48 n) s
  else if w.thresh then s.setSync n { x with thresh := w.v }
  else s.setSync n { x with count := w.v }

/-- R241, step 1: no set of this tick is left: no SYNC_SET dispatched before, and no register write released before. -/
def setsDone (s : State) : Bool :=
  !s.syncWr.any (fun w => w.rel.ult s.now) &&
  !s.sched.disp.any (fun d => !d.undisp && d.cmd.op == 0x01 && d.st == .queued && d.start.ult s.now)

/-- R241: an increment that the scheduler itself produces on this tick comes after the tick's sets. -/
def incrNow (o : Owner) (n : BitVec 17) (v : W32) (ag : Agent) (s : State) : State :=
  if setsDone s then applyIncr o n.toNat v ag s
  else { s with inbox := s.inbox ++ [{ cls := .q2s, src := 0xFFF, dst := 0, stamp := s.now, metered := true, arrived := true
                                       rel := s.now, pay := .incr o n v ag none }] }

/-- SYNC_ADD (R233, R236): an increment on the tick of the write's release. -/
def execSyncAdd (o : Owner) (n : BitVec 17) (v : W32) (s : State) : Out := done (incrNow o n v agHost s)

/-- An increment waits to be applied. -/
def isIncr (x : XItem) : Bool := match x.pay with | .incr _ _ _ _ _ => true | _ => false

/-- SYNC_INCREMENT_APPLY (R233, R241): the oldest increment released at the scheduler, after the tick's sets. -/
def execSyncIncrementApply (s : State) : Out :=
  match inboxTake isIncr (fun x => x.rel.toNat) s with
  | some (x, s') => match x.pay with
    | .incr o n v ag _ => done (if setsDone s then applyIncr o n.toNat v ag s' else s)
    | _ => done s
  | none => done s

/-- R241: this tick's sets and increments have been applied. -/
def syncSettled (s : State) : Bool := setsDone s && !dueNow isIncr s

/-- A WAIT's query. -/
def queryOf (x : XItem) : Option (LqId × BitVec 17 × W32) := match x.pay with | .query id n v => some (id, n, v) | _ => none

/-- R241: COUNT as the queries and round conditions of this tick see it, before the subtractions of CONSUME waits. -/
def seenCount (n : Nat) (s : State) : W32 := (s.syncAt n).count + kget 0 s.sched.subs n

end Sys2Proof.Machine
end

