-- ==== Sys2Proof/Machine/QuillComm.lean ====
section
/-!
DEFINITION. Exchange, plant, sync, page-hint and fault traffic of a Quill (R152 to R163, R176, R189 to R194, R198 to R200).
-/
namespace Sys2Proof.Machine

/-- The physical Quill on which a logical Quill is resident; 0xFFF stands for the swap buffer. -/
def Lq.at_ (l : Lq) : Nat := match l.place with | some q => q.toNat | none => 0xFFF

/-- The row is `op`. -/
def isOp (op : Nat) (i : Ins) : Bool := i.op == op

/-- XSEND (R153, R189): a flit stamped with the issue tick. -/
def xsendEff (c : QCtx) (s : State) : QRes :=
  let ch := c.i.im 0 5
  withOperand c (c.lq.aReg c.i.ra) 32 s (fun bs s =>
    match c.part.outChan c.id.l ch with
    | none => .ok s .seq
    | some k =>
      let dst := (c.part.lqAt k.dst.toNat).at_
      let s := c.mod (fun l => { l with chLast := kset none l.chLast ch (some s.now), xLast := some s.now, sent := l.sent + 1 }) s
      .ok (sendX { cls := .mesh, src := c.q, dst := dst, stamp := s.now, metered := c.part.metered, injected := false
                   pay := .flit { part := c.id.part, l := k.dst } c.id k.outCh k.inCh k.slot (leWord 256 bs) c.lq.sent } s) .seq)

/-- XSEND. -/
def execXsend (q : Byte) (s : State) : Out := done (quillStep q.toNat (isOp 0x20) xsendEff s)

/-- XRECV (R155, R189). -/
def xrecvEff (c : QCtx) (s : State) : QRes :=
  let ch := c.i.im 0 5
  let a := c.lq.aReg c.i.ra
  match kget [] c.lq.chIn ch with
  | [] => .ok s .seq
  | d :: ds =>
    .ok (quillWrite c (storeOff (aSpace a) (aOff a)) (wordBytes 32 d) 2
      (c.mod (fun l => { l with chIn := kset [] l.chIn ch ds }) s)) .seq

/-- XRECV. -/
def execXrecv (q : Byte) (s : State) : Out := done (quillStep q.toNat (isOp 0x21) xrecvEff s)

-- Flits
def isFlit (x : XItem) : Bool := match x.pay with | .flit _ _ _ _ _ _ _ => true | _ => false

/-- R158: every SIGNAL that the sender holds is stamped no earlier than the release of its earlier flits. -/
def signalsAfter (src : LqId) (n : Nat) (rel : W64) (s : State) : State :=
  s.modLq src (fun l => { l with sig := l.sig.map (fun g => if n < g.n ∧ g.t.ult rel then { g with t := rel } else g) })

/-- R153, R154, R165, R200: a flit is released at a resident logical Quill, on tick `rel`. -/
def flitTake (id : LqId) (ch : Nat) (d : BitVec 256) (s : State) : State :=
  match s.partAt id.part with
  | none => s
  | some p =>
    let l := p.lqAt id.l.toNat
    let buf := kget [] l.chIn ch
    if l.ended then s
    else if buf.length < 4 then s.modLq id (fun l => { l with chIn := kset [] l.chIn ch (buf ++ [d]) })
    else if l.stopped then s
    else quillRaise l.at_ id p.metered 0x0E8A (0xFE#8 ++ BitVec.ofNat 40 ch) l.pc (s.modLq id (fun l => { l with ovfAt := some s.now }))

/-- The destination of a flit is swapped out (R60). -/
def swappedOut (id : LqId) (s : State) : Bool :=
  match s.partAt id.part with
  | none => false
  | some p => let l := p.lqAt id.l.toNat; l.place.isNone && !l.ended && !l.stopped

/-- FLIT_RELEASE (R60, R153, R154, R200): the oldest flit released. -/
def execFlitRelease (s : State) : Out :=
  match inboxTake isFlit (fun x => x.rel.toNat) s with
  | none => done s
  | some (x, s) =>
    match x.pay with
    | .flit dst src _ ch _ d n =>
      let s := if x.metered then s else signalsAfter src n x.rel s
      done (if swappedOut dst s then { s with swapBuf := s.swapBuf ++ [x] } else flitTake dst ch.toNat d s)
    | _ => done s

/-- Element `i` of a list removed. -/
def dropAt {α : Type} (l : List α) (i : Nat) : List α := l.take i ++ l.drop (i + 1)

/-- SWAP_BUFFER_DELIVER (R60): flit `i` of the swap buffer, once its logical Quill is resident; flits of a channel keep
their order. -/
def execSwapBufferDeliver (i : Nat) (s : State) : Out :=
  match s.swapBuf[i]? with
  | none => done s
  | some x =>
    match x.pay with
    | .flit dst src oc ch _ d _ =>
      let same := fun (y : XItem) => match y.pay with | .flit _ src' oc' _ _ _ _ => src' == src && oc' == oc | _ => false
      done (if swappedOut dst s ∨ (s.swapBuf.take i).any same then s
        else flitTake dst ch.toNat d { s with swapBuf := dropAt s.swapBuf i })
    | _ => done s

-- Plant
/-- POST (R190). -/
def postEff (c : QCtx) (s : State) : QRes :=
  let i := c.i
  let m : BitVec 6 := fld i.imm 26 6
  let send := fun (v : W32) (s : State) =>
    QRes.ok (sendX { cls := .q2p, src := c.q, dst := 0, stamp := s.now, metered := c.part.metered, pay := .post c.id m v } s) .seq
  if i.fn = 4 then send (c.lq.sReg i.rb) s
  else
    match memOps i c.lq with
    | o :: _ => withRead c.q (o.loc c.lq) 4 s (fun bs s =>
        let w : W32 := leWord 32 bs
        send (BitVec.ofNat 32 (w.toNat / 2 ^ i.im 21 5 % 2 ^ plWidth i.fn)) s)
    | [] => .ok s .seq

/-- POST. -/
def execPost (q : Byte) (s : State) : Out := done (quillStep q.toNat (isOp 0x24) postEff s)

/-- CLAMP (R191): the request. -/
def clampEff (c : QCtx) (s : State) : QRes :=
  let i := c.i
  let m : BitVec 6 := fld i.imm 26 6
  let field := match memOps i c.lq with
    | o :: _ => some (o.loc c.lq, i.im 21 5, plWidth i.fn)
    | [] => none
  let s := c.mod (fun l => { l with clamps := l.clamps ++
    [{ t := s.now, m := m, field := field, rd := BitVec.ofNat 5 i.rd, pc := BitVec.ofNat 12 c.lq.pc }] }) s
  .ok (sendX { cls := .q2p, src := c.q, dst := 0, stamp := s.now, metered := c.part.metered, pay := .clampReq c.id m s.now } s) .seq

/-- CLAMP. -/
def execClamp (q : Byte) (s : State) : Out := done (quillStep q.toNat (isOp 0x25) clampEff s)

def isClampReq (x : XItem) : Bool := match x.pay with | .clampReq _ _ _ => true | _ => false

/-- CLAMP_SAMPLE (R30, R191): the oldest request released; it reads what the mailbox held at the start of the tick. -/
def execClampSample (s : State) : Out :=
  match inboxTake isClampReq (fun x => x.rel.toNat) s with
  | none => done s
  | some (x, s) =>
    match x.pay with
    | .clampReq src m t =>
      done (sendX { cls := .p2q, src := 0, dst := x.src, stamp := s.now, metered := x.metered
                    pay := .clampRep src t (kget 0 s.plant.evBase m.toNat) } s)
    | _ => done s

/-- The logical Quill resident on `q`. -/
def State.resAt (s : State) (q : Nat) : Option LqId := (s.pqAt q).res

def isClampRep (id : LqId) (x : XItem) : Bool := match x.pay with | .clampRep d _ _ => d == id | _ => false

/-- R191, R625: write the field of a CLAMP: the bytes that hold it, merged. -/
def clampField (c : QCtx) (off pos w : Nat) (v : W32) (s : State) : State :=
  let m : W32 := BitVec.ofNat 32 ((2 ^ w - 1) * 2 ^ pos)
  let b := pos / 8
  let bytes := fun (x : W32) => ((wordBytes 4 x).drop b).take ((w + 7) / 8)
  quillWriteBits c (off + b) (bytes ((v <<< pos) &&& m)) (bytes m) 1 s

/-- CLAMP_REPLY (R191): on tick t + 12 the field and the register take the sampled value. -/
def execClampReply (q : Byte) (s : State) : Out :=
  match s.resAt q.toNat with
  | none => done s
  | some id =>
    match s.partAt id.part, inboxTake (isClampRep id) (fun x => x.rel.toNat) s with
    | some p, some (x, s') =>
      match x.pay with
      | .clampRep _ t v =>
        let l := p.lqAt id.l.toNat
        done (if s.now.ult (t + 12) then s else
          match l.clamps.find? (fun k => k.t == t) with
          | none => s'
          | some k =>
            let c : QCtx := { q := q.toNat, id := id, part := p, lq := { l with pc := k.pc.toNat }, pq := s.pqAt q.toNat, i := insOf 0 }
            let s := s'.modLq id (fun l => ({ l with clamps := l.clamps.filter (fun k' => k'.t != t) }).setS k.rd.toNat v)
            match k.field with
            | some (off, pos, w) => clampField c off pos w v s
            | none => s)
      | _ => done s
    | _, _ => done s

-- Sync objects from code
/-- R193: the value operand. -/
def Ins.syncVal (i : Ins) (l : Lq) : W32 := if i.fn = 0 then (fld i.imm 8 24).setWidth 32 else l.sReg i.ra

/-- WAIT (R159, R193): a query stamped with the issue tick. -/
def waitEff (c : QCtx) (s : State) : QRes :=
  match handleObj s c.part (c.i.im 0 4) with
  | none => .ok s .seq
  | some n =>
    let v := c.i.syncVal c.lq
    let s := c.mod (fun l => { l with wait := some { obj := n, v := v, t := s.now, handle := fld c.i.imm 0 4 } }) s
    .ok (sendX { cls := .q2s, src := c.q, dst := 0, stamp := s.now, metered := c.part.metered, pay := .query c.id n v } s) .seq

/-- WAIT. -/
def execWait (q : Byte) (s : State) : Out := done (quillStep q.toNat (isOp 0x28) waitEff s)

-- Lock-step barriers (R72, R77)
/-- Table 02.11: fields of LS_CTRL. -/
def LockStep.on (x : LockStep) : Bool := bit x.ctrl 0
def LockStep.hold (x : LockStep) : Bool := bit x.ctrl 1
def LockStep.log2 (x : LockStep) : Nat := (fld x.ctrl 5 5).toNat
def LockStep.ctx (x : LockStep) : Owner := fld x.ctrl 14 7
def LockStep.barH (x : LockStep) : BitVec 4 := fld x.ctrl 24 4

/-- The barriers at the end of the epoch in progress (R72). -/
def LockStep.endOf (x : LockStep) : Nat := (x.epoch.toNat + 1) * 2 ^ x.log2

/-- A WAIT of `id` on handle `h` counts barriers of lock-step. -/
def lsCounts (s : State) (id : LqId) (h : BitVec 4) : Bool := s.ls.on && s.ls.ctx == id.part.owner && s.ls.barH == h

/-- R77: the reply of this WAIT is held: it counts towards the first barrier after an epoch end whose comparison has not
passed (a failed one never does). -/
def lsHolds (s : State) (id : LqId) (l : Lq) (h : BitVec 4) : Bool :=
  lsCounts s id h && s.ls.hold && (!s.ls.wait.isEmpty || s.ls.failed) && decide (l.bars = s.ls.epoch.toNat * 2 ^ s.ls.log2)

/-- R159: send a reply to a WAIT. -/
def sendReply (id : LqId) (p : Part) (s : State) : State :=
  sendX { cls := .s2q, src := 0, dst := (p.lqAt id.l.toNat).at_, stamp := s.now, metered := p.metered, pay := .reply id } s

/-- WAIT_QUERY_SATISFIED (R159, R160, R241): item `i` of the inbox is a satisfied query. -/
def execWaitQuerySatisfied (i : Nat) (s : State) : Out :=
  match s.inbox[i]? with
  | none => done s
  | some x =>
    match queryOf x with
    | none => done s
    | some (id, n, v) =>
      match s.partAt id.part with
      | none => done { s with inbox := dropAt s.inbox i }
      | some p =>
        let l := p.lqAt id.l.toNat
        done (if l.wait.isNone then { s with inbox := dropAt s.inbox i }
          else if !syncSettled s || !reached (seenCount n.toNat s) v then s
          else
            let s := { s with inbox := dropAt s.inbox i }
            let h := match l.wait with | some w => w.handle | none => 0
            if lsHolds s id l h then { s with ls := { s.ls with held := s.ls.held ++ [id] } }
            else sendReply id p s)

def isReply (id : LqId) (x : XItem) : Bool := match x.pay with | .reply d => d == id | _ => false

/-- WAIT_REPLY_RELEASE (R72, R159, R160, R167): the reply is accepted; the next instruction may issue. -/
def execWaitReplyRelease (q : Byte) (s : State) : Out :=
  match s.resAt q.toNat with
  | none => done s
  | some id =>
    match s.lqOf id with
    | none => done s
    | some l =>
      let take := fun (s : State) =>
        s.modLq id (fun l => { l with
          wait := none, heldReply := false
          bars := match l.wait with | some w => if lsCounts s id w.handle then l.bars + 1 else l.bars | none => l.bars
          board := { l.board with next := max l.board.next l.xt, unit := kset 0 l.board.unit QUnit.syn.num l.xt } })
      if l.heldReply ∧ (s.pqAt q.toNat).swap.isNone then done (take s)
      else
        match inboxTake (isReply id) (fun x => x.rel.toNat) s with
        | some (_, s) => done (take s)
        | none => done s

/-- SIGNAL (R158, R193): the Quill holds it. -/
def signalEff (c : QCtx) (s : State) : QRes :=
  match handleObj s c.part (c.i.im 0 4) with
  | none => .ok s .seq
  | some n =>
    .ok (c.mod (fun l => { l with sig := l.sig ++ [{ obj := n, v := c.i.syncVal c.lq, t := s.now, n := l.sent, x := l.xLast }] }) s) .seq

/-- SIGNAL. -/
def execSignal (q : Byte) (s : State) : Out := done (quillStep q.toNat (isOp 0x29) signalEff s)

/-- An item of logical Quill `id` that has not been taken at its destination. -/
def fromLq (id : LqId) (x : XItem) : Bool :=
  match x.pay with
  | .flit _ src _ _ _ _ _ => src == id
  | .post src _ _ => src == id
  | .clampReq src _ _ => src == id
  | .clampRep dst _ _ => dst == id
  | .incr _ _ _ _ src => src == some id
  | _ => false

/-- Such an item is on a crossing, in a send latch, or in the inbox. -/
def outstanding (s : State) (p : XItem → Bool) : Bool := s.xing.any p || s.latch.any p || s.inbox.any p

/-- One of the first `n` flits of `id`. -/
def earlierFlit (id : LqId) (n : Nat) (x : XItem) : Bool :=
  match x.pay with | .flit _ src _ _ _ _ k => src == id && decide (k < n) | _ => false

/-- R158: the tick on which a held SIGNAL is sent in EXACT and REPEAT timing. -/
def SigHeld.dueAt (g : SigHeld) : W64 :=
  match g.x with
  | none => g.t
  | some x => if g.t.ult (x + 72) then x + 72 else g.t

/-- SIGNAL_SEND (R158): the oldest SIGNAL that the logical Quill resident on `q` holds. -/
def execSignalSend (q : Byte) (s : State) : Out :=
  match s.resAt q.toNat with
  | none => done s
  | some id =>
    match s.partAt id.part with
    | none => done s
    | some p =>
      match (p.lqAt id.l.toNat).sig with
      | [] => done s
      | g :: gs =>
        let ok := if p.metered then g.dueAt.ule s.now && !s.latch.any (earlierFlit id g.n) else g.t.ule s.now && !outstanding s (earlierFlit id g.n)
        done (if ok then
          sendX { cls := .q2s, src := q.toNat, dst := 0, stamp := s.now, metered := p.metered
                  pay := .incr id.part.owner g.obj g.v (BitVec.ofNat 9 q.toNat) (some id) }
            (s.modLq id (fun l => { l with sig := gs }))
          else s)

/-- PGHINT (R141, R194, R258): ask for the page unless it is resident. -/
def pghintEff (c : QCtx) (s : State) : QRes :=
  let p := aOff (c.lq.aReg c.i.ra) / 0x10000
  if c.part.exact then .ok s .seq
  else
    let s := pageUsed c.id false p 0 s
    .ok (if (c.lq.frameOf p).isSome then s else pageAsk c p true s) .seq

/-- PGHINT. -/
def execPghint (q : Byte) (s : State) : Out := done (quillStep q.toNat (isOp 0x2C) pghintEff s)

-- Ends and faults
/-- R176: every effect of the logical Quill's instructions has completed. -/
def lqDrained (id : LqId) (l : Lq) (s : State) : Bool :=
  l.sig.isEmpty && l.clamps.isEmpty && !outstanding s (fromLq id) && decide (l.doneX ≤ l.xt)

/-- END_REPORT_SEND (R39, R176). -/
def execEndReportSend (q : Byte) (s : State) : Out :=
  match s.resAt q.toNat with
  | none => done s
  | some id =>
    match s.partAt id.part with
    | none => done s
    | some p =>
      let l := p.lqAt id.l.toNat
      done (if l.ended ∧ !l.reported ∧ !l.stopped ∧ lqDrained id l s then
        sendX { cls := .q2s, src := q.toNat, dst := 0, stamp := s.now, metered := p.metered, pay := .endRep id }
          (s.modLq id (fun l => { l with reported := true }))
      else s)

def isExn (x : XItem) : Bool := match x.pay with | .exn _ _ _ => true | _ => false
/-- R163: the earliest report, and of one tick the lowest logical Quill's. -/
def exnKey (x : XItem) : Nat := match x.pay with | .exn id _ _ => x.rel.toNat * 256 + id.l.toNat | _ => 0

/-- A query or a reply of a WAIT of one of the logical Quills that `p` names. -/
def waitOf (p : LqId → Bool) (x : XItem) : Bool := match x.pay with | .query id _ _ => p id | .reply id => p id | _ => false

/-- R162: pending WAITs are abandoned: their queries and replies go, wherever they are. -/
def dropWaits (p : LqId → Bool) (s : State) : State :=
  { s with
    xing := s.xing.filter (fun x => !waitOf p x), latch := s.latch.filter (fun x => !waitOf p x)
    inbox := s.inbox.filter (fun x => !waitOf p x), ls := { s.ls with held := s.ls.held.filter (fun id => !p id) } }

/-- R162: the scheduler stops the other Quills of a partition; logical Quills that are swapped out are not resumed. -/
def stopOthers (p : Part) (but : Option Byte) (s : State) : State :=
  let ids := (List.range p.nlq).filter (fun l => let x := p.lqAt l; !x.ended && !x.stopped && some (BitVec.ofNat 8 l) != but)
  ids.foldl (fun s l =>
    let id : LqId := { part := p.id, l := BitVec.ofNat 8 l }
    match (p.lqAt l).place with
    | some q => sendX { cls := .s2q, src := 0, dst := q.toNat, stamp := s.now, metered := p.metered, pay := .stop id } s
    | none => dropWaits (· == id) (s.modLq id (fun x => { x with stopped := true, wait := none, pgWait := none }))) s

/-- QUILL_EXCEPTION_REPORT (R162, R163). -/
def execQuillExceptionReport (s : State) : Out :=
  match inboxTake isExn exnKey s with
  | none => done s
  | some (x, s) =>
    match x.pay with
    | .exn id code pc =>
      done (match s.partAt id.part with
        | none => s
        | some p =>
          if p.exn.isSome || p.abort.isSome then s
          else
            let s := s.modPart id.part (fun p => { p with exn := some { code := code, l := id.l, pc := pc }, st := .stopping })
            stopOthers p (some id.l) s)
    | _ => done s

/-- PARTITION_STOP (R162): the scheduler's stop is released at Quill `q`. -/
def execPartitionStop (q : Byte) (s : State) : Out :=
  match s.resAt q.toNat with
  | none => done s
  | some id =>
    match inboxTake (isStop id) (fun x => x.rel.toNat) s with
    | none => done s
    | some (_, s) =>
      done (dropWaits (· == id) ((s.modPq q.toNat (fun p => { p with running := false })).modLq id
        (fun l => if l.ended then l else { l with stopped := true, wait := none, pgWait := none })))

end Sys2Proof.Machine
end

