-- ==== Sys2Proof/Machine/Paging.lean ====
section
/-!
DEFINITION. Paging: page fetches of logical Quills, residency, and accesses of the engines to an owner's model space
(R250 to R261, R271, R276).
-/
namespace Sys2Proof.Machine

-- Model-space accesses of the engines
/-- The address a model-space error logs. -/
def lmaAddr (a : Nat) : BitVec 48 := 0xFF#8 ++ BitVec.ofNat 40 a

/-- What an engine's access acts for: owner, agent, Inkwell, and the code of an unmapped page. -/
structure Acc where
  o   : Owner
  ag  : Agent
  k   : Nat
  unm : W16

/-- A read of host memory: a failure is logged (R592). -/
def hostPart (ag : Agent) (h : HostBytes) (a n : Nat) (s : State) : Except MemErr (List Byte) × State :=
  match hostRead h (BitVec.ofNat 64 a) n with
  | some bs => (.ok bs, s)
  | none => (.error { code := 0x0583, addr := BitVec.ofNat 48 a }, logErr .ink 0x0583 ag (BitVec.ofNat 48 a) s)

/-- The bytes of one page of model space, from offset `a`, `n` of them. -/
def lmaPart (c : Acc) (a n : Nat) (h : HostBytes) (s : State) : Except MemErr (List Byte) × State :=
  match pageWalk c.k c.o (BitVec.ofNat 24 (a / 0x10000)) s with
  | (none, s) => (.error { code := c.unm, addr := lmaAddr a }, s)
  | (some e, s) =>
    let at_ := l2Addr e + a % 0x10000
    if bit e 1 then hostPart c.ag h at_ n s else hbmRead c.o c.ag at_ n s

/-- A read of `n` bytes of model space at `a`, page by page. -/
def lmaReadGo (c : Acc) (h : HostBytes) : Nat → Nat → Nat → List Byte → State → Except MemErr (List Byte) × State
  | 0, _, _, acc, s => (.ok acc, s)
  | f + 1, a, n, acc, s =>
    if n = 0 then (.ok acc, s) else
    let k := min n (0x10000 - a % 0x10000)
    match lmaPart c a k h s with
    | (.error e, s) => (.error e, s)
    | (.ok bs, s) => lmaReadGo c h f ((a + k) % 0x10000000000) (n - k) (acc ++ bs) s

def lmaRead (c : Acc) (a n : Nat) (h : HostBytes) (s : State) : Except MemErr (List Byte) × State :=
  lmaReadGo c h (n / 0x10000 + 2) a n [] s

/-- A write to one page of model space; a write of a host-backed page clears the owner's cache tag (R264). -/
def lmaWritePart (c : Acc) (a : Nat) (d : List Byte) (s : State) : Option MemErr × State :=
  let p : BitVec 24 := BitVec.ofNat 24 (a / 0x10000)
  match pageWalk c.k c.o p s with
  | (none, s) => (some { code := c.unm, addr := lmaAddr a }, s)
  | (some e, s) =>
    let at_ := l2Addr e + a % 0x10000
    if bit e 1 then hcClear c.k c.o p (hostWrite (BitVec.ofNat 64 at_) d s) else hbmWrite c.k c.o c.ag at_ d s

/-- A write of bytes to model space, page by page, up to the first error. -/
def lmaWriteGo (c : Acc) : Nat → Nat → List Byte → State → Option MemErr × State
  | 0, _, _, s => (none, s)
  | f + 1, a, d, s =>
    if d.isEmpty then (none, s) else
    let k := 0x10000 - a % 0x10000
    match lmaWritePart c a (d.take k) s with
    | (some e, s) => (some e, s)
    | (none, s) => lmaWriteGo c f ((a + k) % 0x10000000000) (d.drop k) s

def lmaWrite (c : Acc) (a : Nat) (d : List Byte) (s : State) : Option MemErr × State :=
  lmaWriteGo c (d.length / 0x10000 + 2) a d s

-- Page data
/-- What a page fetch reads: the bytes, and the 64-bit words of the page to be stored with bad check bits (R271). -/
structure PageData where
  bytes : List Byte := []
  bad   : List Nat := []

/-- R271: one line of page data from HBM. -/
def hbmPageLine (o : Owner) (k a : Nat) (i : Nat) (s : State) : PageData × State :=
  match hbmGate o a s with
  | some code => ({ bytes := List.replicate 64 0, bad := (List.range 8).map (fun w => 8 * i + w) }, logErr .ink code (agInk k) (BitVec.ofNat 48 a) s)
  | none =>
    let es := hbmChecks a 64 s.hbm
    let s := eccCount es s
    let bad := es.filter (fun e => e.2 == .bad)
    let s := bad.foldl (fun s e => logErr .ink 0x0581 (agInk k) (BitVec.ofNat 48 (8 * e.1)) s) s
    ({ bytes := hbmBytes (s.keyOf o) a 64 s.hbm, bad := bad.map (fun e => 8 * i + (e.1 - a / 8)) }, s)

/-- R271: one line of page data from host memory. -/
def hostPageLine (k a : Nat) (h : HostBytes) (i : Nat) (s : State) : PageData × State :=
  match hostRead h (BitVec.ofNat 64 a) 64 with
  | some bs => ({ bytes := bs }, s)
  | none => ({ bytes := List.replicate 64 0, bad := (List.range 8).map (fun w => 8 * i + w) },
             logErr .ink 0x0583 (agInk k) (BitVec.ofNat 48 a) s)

/-- R255: where the lines of the page of level-2 entry `e` come from; a miss of the page cache first makes the tag invalid,
since a tag never marks a frame that is only partly filled (R276). A failure of the tag read counts as a miss. -/
def pageSrc (k : Nat) (o : Owner) (p : BitVec 24) (e : W64) (s : State) : PageSrc × State :=
  let a := l2Addr e
  let hc := s.hcAt o.toNat
  if !bit e 1 then (.hbm a, s)
  else if bit e 2 || !hc.enable then (.host a, s)
  else match hcHit k o p s with
    | (.ok true, s) => (.hbm (hc.frameAt p.toNat), s)
    | (_, s) =>
      match hbmWrite k o (agInk k) (hc.tagAt p.toNat) [0, 0, 0, 0] s with
      | (none, s) => (.fill a, s)
      | (some _, s) => (.host a, s)

/-- Line `i` of a page from its source; in a cache fill the line also goes to the cache frame (R255). The flag says that the
line is whole and, in a fill, in its frame. -/
def pageLine (k : Nat) (o : Owner) (p : BitVec 24) (src : PageSrc) (h : HostBytes) (i : Nat) (s : State) : PageData × Bool × State :=
  match src with
  | .hbm a => let (d, s) := hbmPageLine o k (a + 64 * i) i s; (d, d.bad.isEmpty, s)
  | .host a => let (d, s) := hostPageLine k (a + 64 * i) h i s; (d, d.bad.isEmpty, s)
  | .fill a =>
    let (d, s) := hostPageLine k (a + 64 * i) h i s
    let (e, s) := hbmWrite k o (agInk k) ((s.hcAt o.toNat).frameAt p.toNat + 64 * i) d.bytes s
    (d, d.bad.isEmpty && e.isNone, s)

/-- R255, R276: after the last line of a cache fill, the tag. -/
def pageTag (k : Nat) (o : Owner) (p : BitVec 24) (src : PageSrc) (whole : Bool) (s : State) : State :=
  match src with
  | .fill _ =>
    if whole then (hbmWrite k o (agInk k) ((s.hcAt o.toNat).tagAt p.toNat) (wordBytes 4 (p.setWidth 32 ||| 0x80000000 : W32)) s).2 else s
  | _ => s

/-- A whole page at once, as the loading of a launch reads it (R218): its bytes and bad words. -/
def pageData (k : Nat) (o : Owner) (p : BitVec 24) (e : W64) (h : HostBytes) (s : State) : PageData × State :=
  let (src, s) := pageSrc k o p e s
  let r := (List.range 1024).foldl (fun (r : PageData × Bool × State) i =>
    let (d, ok, s) := pageLine k o p src h i r.2.2
    ({ bytes := r.1.bytes ++ d.bytes, bad := r.1.bad ++ d.bad }, r.2.1 && ok, s)) ({}, true, s)
  (r.1, pageTag k o p src r.2.1 r.2.2)

/-- Put a page into frame `f` of a coupling store, bad words with bad check bits. -/
def framePut (f : Nat) (d : PageData) (t : Stores) : Stores :=
  let t := t.fill (0x10000 * f) d.bytes
  { t with ecc := d.bad.foldl (fun m w => kset .good m (0x2000 * f + w) .bad) t.ecc }

/-- Put line `i` of a page into frame `f`. -/
def frameLine (f i : Nat) (d : PageData) (t : Stores) : Stores :=
  let t := t.fill (0x10000 * f + 64 * i) d.bytes
  { t with ecc := d.bad.foldl (fun m w => kset .good m (0x2000 * f + w) .bad) t.ecc }

/-- Change the stores of a logical Quill, where it is resident or where its state is saved. -/
def modStores (id : LqId) (f : Stores → Stores) (s : State) : State :=
  match s.lqOf id with
  | none => s
  | some l =>
    match l.place with
    | some q => s.modPq q.toNat (fun p => { p with st := f p.st })
    | none => s.modLq id (fun l => { l with saved := l.saved.map f })

-- Fetches (Table 07.3)
def reqOf (k : Nat) (x : XItem) : Bool := match x.pay with | .pageReq _ _ _ => x.dst == k | _ => false

/-- R140, Table 07.3: the Inkwell's answer for page `p` crosses to the logical Quill under I2Q; code 0 is the residency
notice. -/
def pageAnswer (k : Nat) (id : LqId) (p : BitVec 24) (code : W16) (s : State) : State :=
  match s.partAt id.part with
  | none => s
  | some pt =>
    let l := pt.lqAt id.l.toNat
    if l.pgWait.map (·.page) = some p then
      sendX { cls := .i2q, src := k, dst := l.at_, stamp := s.now, metered := pt.metered, pay := .pageRep id p code } s
    else s

/-- The wait of a logical Quill for page `p` ends: it is resident, and its instruction issues from the next tick (R140). -/
def pageHere (p : BitVec 24) (l : Lq) : Lq :=
  if l.pgWait.map (·.page) = some p then
    { l with pgWait := none, board := { l.board with next := max l.board.next (l.xt + 1) } }
  else l

/-- The answer reaches the logical Quill. -/
def pageTold (p : BitVec 24) (code : W16) (l : Lq) : Lq :=
  if code = 0 then pageHere p l
  else { l with pgWait := l.pgWait.map (fun w =>
    if w.page = p then { w with unmapped := w.unmapped || code == 0x0E91, noFrame := w.noFrame || code == 0x0E87 } else w) }

/-- The fetch or request `f` is for page `p` of `id`, of its present partition. -/
def Fetch.isFor (f : Fetch) (id : LqId) (p : BitVec 24) : Bool := f.lq == id && f.page == p && !f.drop

/-- R257: a page that is being fetched is requested once more on tick `t`. -/
def renew (id : LqId) (p : BitVec 24) (t : W64) (s : State) : State :=
  let f := fun (f : Fetch) => if f.isFor id p ∧ f.last.ult t then { f with last := t } else f
  { s with ink := { s.ink with reqs := s.ink.reqs.map f, fetches := s.ink.fetches.map f } }

/-- A request reaches its Inkwell: it joins the queue, unless the page is resident or already asked for. -/
def takeReq (k : Nat) (s : State) : State :=
  match inboxTake (reqOf k) (fun x => x.rel.toNat) s with
  | none => s
  | some (x, s) =>
    match x.pay with
    | .pageReq id p hint =>
      match s.lqOf id with
      | none => s
      | some l =>
        if (l.frameOf p.toNat).isSome then pageAnswer k id p 0 s
        else if (s.ink.reqs ++ s.ink.fetches).any (fun f => f.isFor id p) then renew id p x.stamp s
        else { s with ink := { s.ink with reqs := s.ink.reqs ++
          [{ lq := id, page := p, hint := hint, since := x.stamp, last := x.stamp, k := k }] } }
    | _ => s

/-- R259: the fetches of a logical Quill that are outstanding. -/
def fetchesOf (id : LqId) (s : State) : Nat := (s.ink.fetches.filter (fun g => g.lq == id && !g.drop)).length

/-- R248, R259: the queued request may start at Inkwell `k`: fewer than two fetches of its logical Quill are outstanding, and
a tag is free for its walk. -/
def mayFetch (k : Nat) (s : State) (f : Fetch) : Bool := f.k == k && fetchesOf f.lq s < 2 && 0 < tagsFree k s

/-- The queued request `f` starts: its walk holds a tag (R248). -/
def startFetch (f : Fetch) (s : State) : State :=
  let t := Xfer.start 1 f.k s
  { t.2 with ink := { t.2.ink with
    reqs := t.2.ink.reqs.filter (fun g => !g.isFor f.lq f.page), fetches := t.2.ink.fetches ++ [{ f with xf := t.1 }] } }

/-- PAGE_FETCH (R247, R248, R257 to R259): Inkwell `k` takes a request and starts the first fetch that may start. -/
def pageFetch (k : Nat) (s : State) : State :=
  let s := takeReq k s
  match s.ink.reqs.find? (mayFetch k s) with
  | none => s
  | some f => startFetch f s

def execPageFetch (k : BitVec 2) (s : State) : Out := done (pageFetch k.toNat s)

/-- R259: fetch `i` has ended: its tags and its staging slot return, and the oldest request of its logical Quill that waited
for it leaves the queue on this tick, from which its 10,240 ticks count. -/
def fetchEnd (i : Nat) (f : Fetch) (s : State) : State :=
  let full := fetchesOf f.lq s = 2
  let s := f.xf.stop f.k s
  let s := match f.st with
    | .moving _ => s.setWell f.k { s.wellAt f.k with pageUsed := (s.wellAt f.k).pageUsed - 1 }
    | _ => s
  let s := { s with ink := { s.ink with fetches := dropAt s.ink.fetches i } }
  match s.ink.reqs.find? (fun g => g.lq == f.lq) with
  | some g => if full && !f.drop && 0 < tagsFree g.k s then startFetch { g with since := s.now } s else s
  | none => s

/-- R257: the frame for a new page: the lowest empty one, else the least recently requested unpinned one that no
instruction reads and no other fetch has taken. -/
def frameFor (s : State) (id : LqId) (l : Lq) : Option Nat :=
  let taken := (s.ink.fetches.filter (fun f => f.lq == id && !f.drop && (match f.st with | .moving _ => true | _ => false))).map (·.frame)
  let free := (List.range 12).filter (fun f => !taken.contains f)
  match free.find? (fun f => (kget {} l.frames f).page.isNone) with
  | some f => some f
  | none =>
    (free.filter (fun f => !(kget {} l.frames f).pinned && (kget {} l.frames f).busy ≤ l.xt)).foldl
      (fun best f => match best with
        | none => some f
        | some b => if (kget {} l.frames f).last.ult (kget {} l.frames b).last then some f else some b) none

/-- R263: Inkwell `k` has a paging slot free. -/
def slotFree (k : Nat) (s : State) : Bool := (s.wellAt k).pageUsed.toNat < s.ink.slots.toNat

/-- Fetch `i` has found its page: it starts to move its lines once a frame and a staging slot are free and the owner's page
cache is initialised (R248, R256, R257, R263). -/
def fetchMove (i : Nat) (f : Fetch) (e : W64) (s : State) : State :=
  let o := f.lq.part.owner
  match s.lqOf f.lq with
  | none => fetchEnd i f s
  | some l =>
    let keep := { s with ink := { s.ink with fetches := s.ink.fetches.set i f } }
    if f.drop then fetchEnd i f s
    else if bit e 1 && (s.hcAt o.toNat).init then keep
    else match frameFor s f.lq l with
      | none => if l.allPinned then fetchEnd i f (pageAnswer f.k f.lq f.page 0x0E87 s) else keep
      | some fr =>
        if !slotFree f.k s then keep else
        let (src, s) := pageSrc f.k o f.page e s
        let (xf, s) := Xfer.start 1024 f.k (s.setWell f.k { s.wellAt f.k with pageUsed := (s.wellAt f.k).pageUsed + 1 })
        let s := s.modLq f.lq (fun l => { l with frames := kset {} l.frames fr {} })
        { s with ink := { s.ink with fetches := s.ink.fetches.set i { f with st := .moving src, frame := fr, xf := xf } } }

/-- PAGE_WALK_DONE (R140, R248, R250 to R253, R256, R257, R263): the walk of fetch `i` ends, or a fetch whose page is found
looks again for what it waits for. -/
def pageWalkDone (i : Nat) (s : State) : State :=
  match s.ink.fetches[i]? with
  | none => s
  | some f =>
    if !hbmUp s then s else
    match f.st with
    | .walking =>
      match pageWalk f.k f.lq.part.owner f.page s with
      | (none, s) => fetchEnd i f (pageAnswer f.k f.lq f.page 0x0E91 s)
      | (some e, s) => fetchMove i { f with st := .found e, xf := {} } e (f.xf.stop f.k s)
    | .found e => fetchMove i f e s
    | .moving _ => s

def execPageWalkDone (i : Nat) (s : State) : Out := done (pageWalkDone i s)

/-- R259: the fetch is metered: of a metered partition, from HBM. -/
def Fetch.metered (f : Fetch) (s : State) : Bool :=
  (match f.st with | .moving (.hbm _) => true | _ => false) && s.partMetered f.lq.part

/-- Lines that Inkwell `k` has still to move for metered fetches. -/
def meteredLeft (k : Nat) (s : State) : Nat :=
  ((s.ink.fetches.filter (fun f => f.k == k && f.metered s)).map (fun f => 1024 - f.xf.line)).foldl (· + ·) 0

/-- R261: the lines of a metered swap that Inkwell `k` has still to move. -/
def swapLeft (k : Nat) (s : State) : Nat :=
  ((s.pq.filter (fun e => inkOf e.1 == k)).map (fun e => match e.2.swap with
    | some w => if s.partMetered w.next.part then w.lines else 0
    | none => 0)).foldl (· + ·) 0

/-- R261: Inkwell `k` has a line slot of this tick for traffic that is not metered: 24, less those used, less what is left of
the 16 that metered fetches and swaps need. -/
def lineSlot (k : Nat) (s : State) : Bool :=
  let w := s.wellAt k
  w.moved + max w.metered (min 16 (w.metered + meteredLeft k s + swapLeft k s)) < 24

/-- R261, R271, R275: fetch `i` moves its next line. -/
def fetchLine (i : Nat) (f : Fetch) (src : PageSrc) (h : HostBytes) (s : State) : State :=
  let (d, ok, s) := pageLine f.k f.lq.part.owner f.page src h f.xf.line s
  let s := if f.drop then s else modStores f.lq (frameLine f.frame f.xf.line d) s
  let s := { s with ink := { s.ink with fetches := s.ink.fetches.set i { f with xf := f.xf.next, bad := f.bad || !ok } } }
  lineMoved f.k (f.metered s) s

/-- R261: fetch `i` moves up to `n` lines, as many as its tags and the line slots of this tick allow. -/
def fetchLines (i : Nat) (h : HostBytes) : Nat → State → State
  | 0, s => s
  | n + 1, s =>
    match s.ink.fetches[i]? with
    | none => s
    | some f =>
      match f.st with
      | .moving src =>
        if f.xf.line < 1024 ∧ 0 < f.xf.held ∧ lineSlot f.k s ∧ !f.metered s then fetchLines i h n (fetchLine i f src h s) else s
      | _ => s

/-- R140, R257, R259, R260, R276: every line of fetch `i` has been written: the page becomes resident, in REPEAT timing on
the tick R259 gives, and the Quill hears of it; the data of a Quill that has stopped, and of a partition that stops, is
discarded. -/
def pageResident (i : Nat) (s : State) : State :=
  match s.ink.fetches[i]? with
  | none => s
  | some f =>
    match f.st with
    | .moving src =>
      if f.xf.line < 1024 ∨ (f.metered s ∧ s.now.ult (f.since + 10240)) then s else
      let met := f.metered s
      let s := pageTag f.k f.lq.part.owner f.page src (!f.bad) s
      let s := match s.partAt f.lq.part with
        | none => s
        | some p =>
          let l := p.lqAt f.lq.l.toNat
          let s := if p.metered && !met then s.modPart p.id (fun p => { p with late := true }) else s
          if f.drop || l.stopped || p.st == .stopping then s else
          let fr : Frame := { page := some f.page, last := f.last, pinned := (p.recs.getD f.lq.l.toNat {}).ws.contains f.page }
          let s := s.modLq f.lq (fun l => { l with frames := kset {} l.frames f.frame fr })
          if met then s.modLq f.lq (pageHere f.page) else pageAnswer f.k f.lq f.page 0 s
      fetchEnd i f s
    | _ => s

/-- PAGE_RESIDENT (R140, R259 to R261, R271, R275, R276): fetch `i` moves the lines that this tick allows, and its page
becomes resident after the last. -/
def execPageResident (i : Nat) (h : HostBytes) (s : State) : Out :=
  done (if hbmUp s then pageResident i (fetchLines i h 24 s) else s)

-- Metered paging (R261)
/-- The key by which metered transfers are served: request stamp, then logical Quill. -/
def meteredKey (t : W64) (id : LqId) : Nat := t.toNat * 256 + id.l.toNat

/-- The metered fetch of Inkwell `k` that is served next: its key and its place. -/
def nextFetch (k : Nat) (s : State) : Option (Nat × Nat) :=
  (s.ink.fetches.zipIdx.filter (fun e => e.1.k == k && e.1.metered s && e.1.xf.line < 1024 && 0 < e.1.xf.held)).foldl (fun b e =>
    let x := (meteredKey e.1.since e.1.lq, e.2)
    match b with | some y => if x.1 < y.1 then some x else some y | none => some x) none

/-- The metered swap of Inkwell `k` that is served next: its key and its physical Quill. -/
def nextSwap (k : Nat) (s : State) : Option (Nat × Nat) :=
  (s.pq.filter (fun e => inkOf e.1 == k)).foldl (fun b e =>
    match e.2.swap with
    | some w =>
      if 0 < w.lines ∧ 0 < tagsFree k s ∧ s.partMetered w.next.part then
        let x := (meteredKey w.start w.next, e.1)
        match b with | some y => if x.1 < y.1 then some x else some y | none => some x
      else b
    | none => b) none

/-- One line of the swap on `q` moves; its tag is taken and returned on the tick. -/
def swapLine (q : Nat) (met : Bool) (s : State) : State :=
  let k := inkOf q
  let s := s.modPq q (fun p => { p with swap := p.swap.map (fun w => { w with lines := w.lines - 1 }) })
  s.setWell k { s.wellAt k with metered := (s.wellAt k).metered + b2n met, moved := (s.wellAt k).moved + b2n (!met) }

/-- R261: the metered transfers of Inkwell `k` use `n` line slots of the tick that ends. -/
def meteredLines (k : Nat) : Nat → State → State
  | 0, s => s
  | n + 1, s =>
    let swap := fun (q : Nat) => meteredLines k n (swapLine q true s)
    let fetch := fun (i : Nat) => match s.ink.fetches[i]? with
      | some f => (match f.st with | .moving src => meteredLines k n (fetchLine i f src [] s) | _ => s)
      | none => s
    match nextFetch k s, nextSwap k s with
    | some f, some w => if w.1 < f.1 then swap w.2 else fetch f.2
    | some f, none => fetch f.2
    | none, some w => swap w.2
    | none, none => s

/-- R259, R261: on a tick that ends, the metered transfers move their lines, and the metered fetches that fall due end. -/
def inkMetered (s : State) : State :=
  let s := (List.range 4).foldl (fun s k => meteredLines k 16 s) s
  ((List.range s.ink.fetches.length).reverse).foldl (fun s i =>
    match s.ink.fetches[i]? with | some f => if f.metered s then pageResident i s else s | none => s) s

end Sys2Proof.Machine
end

