-- ==== Sys2Proof/Machine/Sched.lean ====
section
/-!
DEFINITION. Contexts, queues, dispatch and completion (R201 to R216, R225 to R227, R237 to R241, R630).
-/
namespace Sys2Proof.Machine

-- Contexts (R202, R238)
/-- The quotas of the enabled owners, and that of `o`. -/
def quotaSum (o : Nat) (s : State) : Nat :=
  (s.ownAt o).quota.toNat + ((s.sched.own.filter (fun e => e.1 != o && e.2.enable)).map (fun e => e.2.quota.toNat)).foldl (· + ·) 0

/-- R202: the check of CTX_ENABLE, in the order of Table 06.9, then R294. -/
def ctxChecks (o : Nat) (s : State) : List (Bool × W16) :=
  let x := s.ownAt o
  [(!s.glb.surrEn, 0x0301), (x.ptbase = 0 || x.ptbase.toNat % 4096 ≠ 0, 0x0302),
   (x.timing = 3 || x.cplSize.toNat < 4 || 16 < x.cplSize.toNat, 0x0304), (x.cplBase.toNat % 64 ≠ 0, 0x0305),
   (syncCount < quotaSum o s, 0x0303), (x.draining, 0x0308), ((s.instAt 1).stopped, 0x0802)]

/-- R202, R225, R268, R289: the context is enabled with a fresh key pair of KEYGEN. -/
def ctxOn (o : Nat) (s : State) : State :=
  let g := s.sched.nextKey
  let (bs, s) := generate 1 s
  let s := s.setOwn o { s.ownAt o with enable := true, enabling := false, key := some g, cplCount := 0, cplTail := 0, cplHead := 0 }
  { s with
    sched := { s.sched with nextKey := g + 1 }
    hbm := { s.hbm with keys := kput s.hbm.keys g (keyPairOf bs) } }

/-- R202, R292, R294: a write of 1 to CTX_ENABLE: the checks, then the key pair, for which it waits while KEYGEN serves no
request. -/
def ctxEnable (o : Nat) (s : State) : State :=
  let x := s.ownAt o
  if x.draining then setCtxReason o 0x0308 s
  else if x.enable then s
  else match firstReason (ctxChecks o s) with
  | some r =>
    let s := setCtxReason o r (s.setOwn o { x with enabling := false })
    if r = 0x0802 then setReason .mad r s else s
  | none =>
    if canGenerate 1 s then ctxOn o s else s.setOwn o { x with enabling := true }

/-- R292: the owners whose key pairs wait are served, in ascending order. -/
def enableWaiting (s : State) : State :=
  (List.range 65).foldl (fun s o => if (s.ownAt o).enabling then ctxEnable o s else s) s

/-- CTX_ENABLE_SET (R202). -/
def execCtxEnableSet (o : Owner) (s : State) : Out := done (if o.toNat ≤ 64 then ctxEnable o.toNat s else s)

/-- What a command completes with. -/
def refusedOut (r : W16) : Outc := { status := .refused, code := r }
def abortedOut (r : W16) : Outc := { status := .aborted, code := r }
def faultOut (e : MemErr) : Outc := { status := .fault, code := e.code, errAddr := e.addr }

/-- The owner's commands follow the metered rules (R210). -/
def ownMetered (s : State) (o : Nat) : Bool := (s.ownAt o).timing == 0 || (s.ownAt o).timing == 1

/-- Table 02.2: the opcodes of the engines that class S2E joins to the scheduler; the sweep engine lies in the scheduler island
(Table 01.2). -/
def crossesE (op : Nat) : Bool := [0x10, 0x11, 0x18, 0x20, 0x28, 0x29].contains op

/-- The end of a command's crossing that its engine has: Inkwells 1 to 4, sort 5, collective 6, plant 7. -/
def Disp.engine (d : Disp) : Nat :=
  if d.cmd.op = 0x18 then 5 else if d.cmd.op = 0x20 then 6 else if d.cmd.op = 0x28 ∨ d.cmd.op = 0x29 then 7 else 1 + d.ink

/-- The command is dispatched and its engine has not finished it. -/
def Disp.open (d : Disp) : Bool := !d.undisp && (match d.st with | .done _ => false | _ => true)

/-- Change a dispatched command. -/
def modDisp (id : CmdId) (f : Disp → Disp) (s : State) : State :=
  { s with sched := { s.sched with disp := s.sched.disp.map (fun d => if d.id = id ∧ !d.undisp then f d else d) } }

/-- R40, R41: an engine has finished a dispatched command with outcome `r`; from an engine that S2E joins, the completion
crosses to the scheduler. -/
def finish (id : CmdId) (r : Outc) (s : State) : State :=
  match s.sched.disp.find? (fun d => d.id == id && d.open) with
  | none => s
  | some d =>
    let x := crossesE d.cmd.op
    let s := modDisp id (fun d => { d with st := .done r, back := !x }) s
    if x then
      sendX { cls := .s2e, src := d.engine, dst := 0, stamp := s.now, metered := ownMetered s id.owner.toNat, pay := .cpl id } s
    else s

/-- R630: an undispatched command completes. -/
def undispatched (o : Nat) (k : Nat) (c : Cmd) (r : Outc) (s : State) : State :=
  let q := s.queueAt o k
  let d : Disp := { id := { owner := BitVec.ofNat 7 o, queue := BitVec.ofNat 3 k, seq := q.seq, gen := q.gen }, cmd := c, st := .done r
                    start := s.now, undisp := true, got := true, back := true }
  { s with sched := { s.sched with disp := s.sched.disp ++ [d] } }

/-- R163, R221, R238: the partitions of an owner stop: running ones as in R162, those not yet launched at once. -/
def stopPart (p : Part) (cause : W16) (s : State) : State :=
  match p.st with
  | .idle | .stopping => s
  | .running => stopOthers p none (s.modPart p.id (fun p => { p with abort := some cause, st := .stopping }))
  | .placing | .ready =>
    s.modPart p.id (fun p => { p with
      abort := some cause, st := .stopping, lqs := (List.range p.nlq).map (fun l => (l, { p.lqAt l with stopped := true })) })

/-- R238, steps 1 to 3: clearing CTX_ENABLE. -/
def ctxDisable (o : Nat) (s : State) : State :=
  let x := s.ownAt o
  if !x.enable || x.draining then s.setOwn o { x with enabling := false }
  else
    let s := s.setOwn o { x with draining := true }
    let s := (List.range 8).foldl (fun s k =>
      let q := s.queueAt o k
      let s := s.setQueue o k { q with enable := false, slots := [] }
      q.slots.foldl (fun s c => undispatched o k c.cmd (abortedOut 0x0321) s) s) s
    let ps := (s.part.filter (fun e => e.2.id.owner.toNat == o)).map (·.2)
    let s := ps.foldl (fun s p => stopPart p 0x0321 s) s
    -- R360: collectives of the context end
    (s.sched.disp.filter (fun d => d.id.owner.toNat == o && d.cmd.op == 0x20 && !d.undisp)).foldl
      (fun s d => finish d.id (abortedOut 0x0321) s) s

/-- CTX_ENABLE_CLEAR (R238). -/
def execCtxEnableClear (o : Owner) (s : State) : Out := done (if o.toNat ≤ 64 then ctxDisable o.toNat s else s)

/-- R263: a paging slot of Inkwell `k` is taken, or returns. -/
def slotTake (k : Nat) (s : State) : State := s.setWell k { s.wellAt k with pageUsed := (s.wellAt k).pageUsed + 1 }
def slotGive (k : Nat) (s : State) : State := s.setWell k { s.wellAt k with pageUsed := (s.wellAt k).pageUsed - 1 }

/-- R91, R276: return the lines of a partition, and forget it; its fetches run on and their data is discarded. -/
def returnPart (p : Part) (s : State) : State :=
  let here := fun (x : Pq) => x.res.map (·.part) == some p.id || x.swap.map (·.next.part) == some p.id
  let s := (s.pq.filter (fun e => here e.2 && e.2.swap.isSome)).foldl (fun s e => slotGive (inkOf e.1) s) s
  { s with
    pq := s.pq.map (fun e => (e.1, if here e.2 then { e.2 with st := e.2.after.giveBack, wr := [], res := none, swap := none, running := false } else e.2))
    part := kdel s.part p.id.key
    swapBuf := s.swapBuf.filter (fun x => match x.pay with | .flit d _ _ _ _ _ _ => d.part != p.id | _ => true)
    ink := { s.ink with
      reqs := s.ink.reqs.filter (fun f => f.lq.part != p.id)
      fetches := s.ink.fetches.map (fun f => if f.lq.part = p.id then { f with drop := true } else f) } }

/-- R233, R235: a launch binds (or no longer binds) the objects of its handles, each once. -/
def bindHandles (p : Part) (by_ : Byte → Byte) (s : State) : State :=
  ((p.handles.filterMap (·.2)).eraseDups).foldl (fun s n =>
    let x := s.syncAt n.toNat; s.setSync n.toNat { x with bound := by_ x.bound }) s

/-- R533: the partition slots of a context become invalid. -/
def clearSlots (o : Owner) (s : State) : State :=
  let f := fun (w : W32) => if fld w 0 7 == o then setBit w 31 false else w
  { s with dbg := { s.dbg with slot := s.dbg.slot.map (fun e => (e.1, f e.2)) } }

/-- R238, steps 4 and 5, R533: the context has drained. -/
def drainDone (o : Nat) (s : State) : State :=
  let ow : Owner := BitVec.ofNat 7 o
  let ps := (s.part.filter (fun e => e.2.id.owner == ow)).map (·.2)
  let s := ps.foldl (fun s p => returnPart p s) s
  let s := unbindOwner ow s
  let s := cacheDrop (fun x => x.owner == ow) s
  let mine : KMap SyncObj := s.sync.filter (fun e => e.2.owner == ow)
  let s : State := mine.foldl (fun (s : State) e => s.setSync e.1 { e.2 with owner := 0x7F }) s
  let s := clearSlots ow s
  s.setOwn o { s.ownAt o with key := none, draining := false, ended := true, enable := false }

/-- CONTEXT_DRAIN_DONE (R238, R269): every launch and every other dispatched command of the owner has completed, and every
fetch that acts for it has returned its tags. -/
def execContextDrainDone (o : Owner) (s : State) : Out :=
  let x := s.ownAt o.toNat
  done (if x.draining ∧ !s.sched.disp.any (fun d => d.id.owner == o) ∧ !s.ink.fetches.any (fun f => f.lq.part.owner == o) ∧
      !s.part.any (fun e => e.2.id.owner == o && e.2.st != .idle) then drainDone o.toNat s else s)

-- Queues
/-- R205: a write of a doorbell or of Q_TAIL. -/
def doorbell (o k : Nat) (v : W32) (s : State) : State :=
  let q := s.queueAt o k
  if !q.enable then s
  else if 2 ^ q.size.toNat ≤ v.toNat then setCtxReason o 0x0307 s
  else s.setQueue o k { q with tail := fld v 0 16 }

/-- DOORBELL (R205). -/
def execDoorbell (o : Owner) (k : BitVec 3) (v : W32) (s : State) : Out :=
  done (if o.toNat ≤ 64 then doorbell o.toNat k.toNat v s else s)

/-- R208: a write of Q_ENABLE. -/
def qEnable (o k : Nat) (v : Bool) (s : State) : State :=
  let q := s.queueAt o k
  let x := s.ownAt o
  if !v then s.setQueue o k { q with enable := false }
  else if q.enable then s
  else if !x.enable || x.draining || q.base.toNat % 4096 ≠ 0 || q.size.toNat < 4 || 16 < q.size.toNat then setCtxReason o 0x0306 s
  else s.setQueue o k { q with
    enable := true, head := 0, tail := 0, seq := 0, stopped := false, fetchErr := false, fetchHeld := false, gen := q.gen + 1 }

/-- Q_ENABLE (R208). -/
def execQEnable (o : Owner) (k : BitVec 3) (v : Bool) (s : State) : Out :=
  done (if o.toNat ≤ 64 then qEnable o.toNat k.toNat v s else s)

/-- R206: what a read of the slot at HEAD returns. -/
def slotRead_ (o : Owner) (q : Queue) (h : HostBytes) (s : State) : Option (List Byte) × State :=
  let a := q.base.toNat + 64 * q.head.toNat
  if q.host then (hostRead h (BitVec.ofNat 64 a) 64, s)
  else match hbmRead o agSched a 64 s with
    | (.ok bs, s) => (some bs, s)
    | (.error _, s) => (none, s)

/-- R207: a failed slot read. -/
def fetchFail (o k : Nat) (s : State) : State :=
  let q := s.queueAt o k
  logErr .sched 0x0380 agSched (BitVec.ofNat 48 (q.base.toNat + 64 * q.head.toNat))
    (s.setQueue o k { q with stopped := true, fetchErr := true, fetchHeld := true })

/-- There is a slot to fetch; a queue stopped under R240 still fetches (log entry 127). -/
def mayFetchSlot (q : Queue) : Bool := q.enable && !q.fetchHeld && q.head != q.tail

/-- RING_SLOT_FETCH (R205 to R207). -/
def execRingSlotFetch (o : Owner) (k : BitVec 3) (h : HostBytes) (s : State) : Out :=
  let q := s.queueAt o.toNat k.toNat
  done (if o.toNat ≤ 64 ∧ mayFetchSlot q ∧ (q.host ∨ hbmUp s) then
    match slotRead_ o q h s with
    | (none, s) => fetchFail o.toNat k.toNat s
    | (some bs, s) => s.setQueue o.toNat k.toNat { q with
        head := BitVec.ofNat 16 ((q.head.toNat + 1) % 2 ^ q.size.toNat), slots := q.slots ++ [{ cmd := leWord 512 bs }] }
  else s)

/-- OUTBOUND_READ_TIMEOUT (R592): a slot read from host memory has not completed within 50 ms. -/
def execOutboundReadTimeout (o : Owner) (k : BitVec 3) (s : State) : Out :=
  let q := s.queueAt o.toNat k.toNat
  done (if o.toNat ≤ 64 ∧ mayFetchSlot q ∧ q.host then fetchFail o.toNat k.toNat s else s)

/-- Q_STOPPED_CLEAR (R207). -/
def execQStoppedClear (o : Owner) (k : BitVec 3) (s : State) : Out :=
  done (s.setQueue o.toNat k.toNat { s.queueAt o.toNat k.toNat with stopped := false, fetchHeld := false })

/-- Table 06.2: the opcodes. -/
def opcodes : List Nat := [0x00, 0x01, 0x08, 0x09, 0x0A, 0x0B, 0x10, 0x11, 0x18, 0x20, 0x28, 0x29]

/-- R213: the reason for which the scheduler refuses a header; where several hold, in the order 0x0310, 0x0311, 0x0404 (DESIGN
CHOICE, log entry 168). -/
def headerReason (o : Owner) (c : Cmd) (s : State) : Option W16 :=
  firstReason
    [(!opcodes.contains c.op, 0x0310), (bit c 15 || fld c 50 14 != 0, 0x0311),
     ((c.waitEn && (s.syncAt c.waitObj).owner != o) || (c.signalEn && (s.syncAt c.signalObj).owner != o), 0x0404)]

/-- HEADER_CHECK (R213, R240): the command at the head of its queue; a queue that is STOPPED, for whatever cause, checks none
(log entry 164). -/
def execHeaderCheck (o : Owner) (k : BitVec 3) (s : State) : Out :=
  let q := s.queueAt o.toNat k.toNat
  done (match q.slots with
    | x :: xs =>
      if x.checked || q.stopped then s
      else match headerReason o x.cmd s with
        | some r =>
          let s := s.setQueue o.toNat k.toNat { q with slots := xs, stopped := q.stopOnErr }
          undispatched o.toNat k.toNat x.cmd (refusedOut r) s
        | none => s.setQueue o.toNat k.toNat { q with slots := { x with checked := true } :: xs }
    | [] => s)

/-- R214: the wait of a command is satisfied by object `x`. -/
def waitMet (x : SyncObj) : Bool := reached x.count x.thresh

/-- R222: the partitions and ARRIVE objects of an exchange, where each partition exists. -/
def exParts (o : Owner) (x : ExSt) (s : State) : List (Part × BitVec 17) :=
  x.reps.filterMap (fun r => (s.partAt { owner := o, pid := r.1 }).map (fun p => (p, r.2.1)))

/-- R222: the round fires for this replica. -/
def arrived (x : ExSt) (p : Part) (arrive : BitVec 17) (s : State) : Bool :=
  reached (seenCount arrive.toNat s) (BitVec.ofNat 32 (p.nlq * (x.done + 1)))

/-- R222, R241: the exchange's next round fires on this tick. -/
def exFires (o : Owner) (x : ExSt) (s : State) : Bool :=
  let ps := exParts o x s
  ps.length == x.reps.length && syncSettled s && ps.all (fun e => arrived x e.1 e.2 s)

/-- R343: the round's number of arrivals has been reached. -/
def bxFires (d : Disp) (b : BxSt) (s : State) : Bool :=
  b.period == 0 && b.firedAt.isNone && decide (b.round < b.rounds.toNat) && syncSettled s &&
  (match s.partAt { owner := d.id.owner, pid := b.pid } with
    | some p => reached (seenCount b.arrive.toNat s) (BitVec.ofNat 32 (p.nlq * (b.round + 1)))
    | none => false)

/-- R241, step 3: a round of the sweep or the collective engine fires on this tick and has not been worked on. -/
def roundDue (s : State) : Bool :=
  s.sched.disp.any (fun d => d.st == .running && !d.undisp &&
    ((match d.ex with | some x => exFires d.id.owner x s | none => false) || (match d.bx with | some b => bxFires d b s | none => false)))

/-- R214, R241: on this tick something else comes before the wait of queue `key` on object `n`: a pending query, a round, or
the head of a lower queue. -/
def waitBefore (n key : Nat) (s : State) : Bool :=
  s.inbox.any (fun x => match queryOf x with | some (_, m, v) => m.toNat == n && reached (seenCount n s) v | none => false) ||
  dueNow (fun x => (queryOf x).isSome && x.rel != s.now) s || roundDue s ||
  s.sched.queue.any (fun e => e.1 < key && (match e.2.slots with | y :: _ => y.waitsOn n | [] => false))

/-- COMMAND_WAIT_SATISFIED (R214, R241). -/
def execCommandWaitSatisfied (o : Owner) (k : BitVec 3) (s : State) : Out :=
  let q := s.queueAt o.toNat k.toNat
  done (match q.slots with
    | x :: xs =>
      let n := x.cmd.waitObj
      let obj := s.syncAt n
      if x.checked && x.cmd.waitEn && !x.waited && syncSettled s && waitMet obj &&
         !waitBefore n (8 * o.toNat + k.toNat) s then
        let s := s.setQueue o.toNat k.toNat { q with slots := { x with waited := true } :: xs }
        if x.cmd.consume then
          let s := { s with sched := { s.sched with subs := kset 0 s.sched.subs n (kget 0 s.sched.subs n + obj.thresh) } }
          s.setSync n { obj with count := obj.count - obj.thresh }
        else s
      else s
    | [] => s)

/-- R209: what dispatch asks of the command at the head of queue (o, k) beside its header check and its wait: FENCE, room in
its engine's input queue, and fewer than 4,096 commands in flight. A queue that is STOPPED dispatches nothing, also where a failed
slot read stopped it (R207; DESIGN CHOICE, log entry 164). -/
def headFree (o k : Nat) (c : Cmd) (s : State) : Bool :=
  let live := s.sched.disp.filter (fun d => !d.undisp)
  !(s.queueAt o k).stopped &&
  (!c.fence || !s.sched.disp.any (fun d => d.id.owner.toNat == o && d.id.queue.toNat == k)) &&
  (c.op != 0x18 || (live.filter (fun d => d.cmd.op == 0x18 && d.st == .queued)).length < 8) &&
  live.length < 4096

/-- R209: the head of a queue may dispatch. -/
def readyHead (o k : Nat) (s : State) : Option Cmd :=
  match (s.queueAt o k).slots with
  | [] => none
  | x :: _ => if x.checked && (!x.cmd.waitEn || x.waited) && headFree o k x.cmd s then some x.cmd else none

/-- The head of a queue may yet become ready on this tick: its header check or its wait is still to be worked on (R213,
R241), so its own slot is not free for another queue. -/
def readySoon (o k : Nat) (s : State) : Bool :=
  match (s.queueAt o k).slots with
  | [] => false
  | x :: _ =>
    headFree o k x.cmd s && (x.checked || (headerReason (BitVec.ofNat 7 o) x.cmd s).isNone) &&
    (!x.cmd.waitEn || x.waited || !syncSettled s || waitMet (s.syncAt x.cmd.waitObj))

/-- R210: the queues of LOOSE owners that are ready, by (owner, queue). -/
def looseReady (s : State) : List Nat :=
  (s.sched.queue.map (·.1)).filter (fun i => !ownMetered s (i / 8) && (readyHead (i / 8) (i % 8) s).isSome)

/-- R210: the LOOSE queue that a tick goes to when its slot holder does not dispatch. -/
def looseWinner (s : State) : Option Nat :=
  let rs := looseReady s
  let top := rs.foldl (fun m i => max m (s.ownAt (i / 8)).priority.toNat) 0
  let cs := rs.filter (fun i => (s.ownAt (i / 8)).priority.toNat == top)
  match cs.find? (fun i => s.sched.rr < i) with
  | some i => some i
  | none => cs.head?

/-- R210, R239: queue `i` dispatches on this tick; and the tick came to it as a LOOSE queue. -/
def dispatchTurn (i : Nat) (s : State) : Bool × Bool :=
  let slot := s.now.toNat % 520
  if s.sched.lastDisp == some s.now then (false, false)
  else if slot = i then (true, false)
  else if readySoon (slot / 8) (slot % 8) s then (false, false)
  else (!ownMetered s (i / 8) && looseWinner s == some i, true)

/-- Table 06.6: LEN of a COPY. -/
def Cmd.copyLen (c : Cmd) : W32 := fld c 192 32

/-- R249: the Inkwell of a COPY; PAGE_INVAL goes to Inkwell 0 (log entry 141). -/
def inkChoice (o : Owner) (k : BitVec 3) (c : Cmd) (s : State) : Nat :=
  if c.op ≠ 0x10 then 0
  else if bit c 234 then
    if ownMetered s o.toNat then (o.toNat + k.toNat) % 4
    else (List.range 4).foldl (fun b k => if (s.wellAt k).bytesOut.ult (s.wellAt b).bytesOut then k else b) 0
  else (fld c 232 2).toNat

/-- R209, R249: a command crosses to its engine; the bytes of a COPY are outstanding at its Inkwell. -/
def sendCmd (d : Disp) (s : State) : State :=
  let s := if d.cmd.op = 0x10 then
      s.setWell d.ink { s.wellAt d.ink with bytesOut := (s.wellAt d.ink).bytesOut + d.cmd.copyLen } else s
  if crossesE d.cmd.op then
    sendX { cls := .s2e, src := 0, dst := d.engine, stamp := s.now, metered := ownMetered s d.id.owner.toNat, pay := .cmd d.id } s
  else s

/-- COMMAND_DISPATCH (R209, R210). -/
def execCommandDispatch (o : Owner) (k : BitVec 3) (s : State) : Out :=
  let i := 8 * o.toNat + k.toNat
  let q := s.queueAt o.toNat k.toNat
  done (match readyHead o.toNat k.toNat s with
    | none => s
    | some c =>
      let t := dispatchTurn i s
      if !t.1 then s
      else
        let d : Disp := { id := { owner := o, queue := k, seq := q.seq, gen := q.gen }, cmd := c, start := s.now
                          got := !crossesE c.op, ink := inkChoice o k c s }
        let s := s.setQueue o.toNat k.toNat { q with slots := q.slots.drop 1, seq := q.seq + 1 }
        sendCmd d { s with sched := { s.sched with
          disp := s.sched.disp ++ [d], lastDisp := some s.now, rr := if t.2 then i else s.sched.rr } })

-- Engines take dispatched commands
/-- The dispatched command (o, k, n) of an opcode that its engine has not taken up. -/
def takeDisp (o : Owner) (k : BitVec 3) (n : W32) (op : Nat) (s : State) : Option Disp :=
  s.sched.disp.find? (fun d => d.id.isAt o k n && !d.undisp && d.cmd.op == op && d.st == .queued)

/-- The dispatched command (o, k, n) that its engine works on. -/
def runDisp (o : Owner) (k : BitVec 3) (n : W32) (op : Nat) (s : State) : Option Disp :=
  s.sched.disp.find? (fun d => d.id.isAt o k n && !d.undisp && d.cmd.op == op && d.st == .running)

/-- R216: the fields of a payload: (byte, bit, width); every other payload bit is 0. -/
def payloadOk (c : Cmd) (fs : List (Nat × Nat × Nat)) : Bool :=
  let m := fs.foldl (fun m f => m ||| (((BitVec.allOnes f.2.2).setWidth 512) <<< (8 * f.1 + f.2.1))) ((BitVec.allOnes 64).setWidth 512)
  c &&& ~~~m == 0

/-- NOP (R216): completes at dispatch. -/
def execNop (o : Owner) (k : BitVec 3) (n : W32) (s : State) : Out :=
  done (match takeDisp o k n 0x00 s with
    | some d => finish d.id (if payloadOk d.cmd [] then {} else refusedOut 0x0311) s
    | none => s)

/-- R631: what SYNC_SET writes. -/
def syncSetTo (c : Cmd) (x : SyncObj) : SyncObj :=
  let v := BitVec.ofNat 32 (c.f 12 0 32)
  { x with
    count := if c.f 8 24 1 = 1 then (if c.f 8 26 1 = 1 then x.count + v else v) else x.count
    thresh := if c.f 8 25 1 = 1 then BitVec.ofNat 32 (c.f 16 0 32) else x.thresh }

/-- SYNC_SET (R213, R241, R631): on the tick after its dispatch. -/
def execSyncSet (o : Owner) (k : BitVec 3) (n : W32) (s : State) : Out :=
  done (match takeDisp o k n 0x01 s with
    | some d =>
      let i := d.cmd.f 8 0 17
      if !d.start.ult s.now then s
      else if !payloadOk d.cmd [(8, 0, 17), (8, 24, 3), (12, 0, 64)] then finish d.id (refusedOut 0x0311) s
      else if (s.syncAt i).owner ≠ o then finish d.id (refusedOut 0x0404) s
      else
        let x := syncSetTo d.cmd (s.syncAt i)
        finish d.id { res0 := x.count.setWidth 64 } (s.setSync i x)
    | none => s)

-- Completion (R215, R225, R226, R240, R596)
def Status.code : Status → Byte | .ok => 0 | .refused => 1 | .fault => 2 | .aborted => 3

/-- R81: commands of REPEAT contexts that complete while synchronisation is lost carry METER_LATE. -/
def lateBySync (s : State) (o : Nat) : Bool := (s.ownAt o).timing == 1 && s.tk.irq && !s.tk.locked

/-- Table 06.8, R630: the 64 bytes of a completion record. -/
def recordOf (d : Disp) (r : Outc) (seq : W32) (phase late : Bool) (now : W64) : List Byte :=
  let w0 : W32 := BitVec.ofNat 32 (d.cmd.op + 0x100 * r.status.code.toNat + 0x10000 * d.id.queue.toNat) |||
    (b2w d.demoted <<< 19) ||| (b2w (d.late || late) <<< 20) ||| (b2w d.nnFell <<< 21) ||| (b2w phase <<< 31)
  wordBytes 4 w0 ++ wordBytes 4 seq ++ wordBytes 2 r.code ++ wordBytes 2 (r.lq.setWidth 16) ++ wordBytes 2 (r.pc.setWidth 16) ++
    [0, 0] ++ wordBytes 8 (if d.undisp then now else d.start) ++ wordBytes 8 now ++ wordBytes 8 r.res0 ++ wordBytes 8 r.res1 ++
    wordBytes 8 (r.errAddr.setWidth 64) ++ List.replicate 8 0

/-- R36, R596: what the scheduler sends to the host crosses under HST. -/
def toHost (o : Nat) (m : HostOut) (s : State) : State :=
  sendX { cls := .hst, src := 0, dst := 1, stamp := s.now, metered := ownMetered s o, pay := .toHost m } s

/-- R225, R226: write a record, or count it as lost; CPL_LOST stays at its largest value (DESIGN CHOICE, log entry 167). -/
def writeRecord (o : Nat) (d : Disp) (r : Outc) (seq : W32) (s : State) : State :=
  let x := s.ownAt o
  let size := 2 ^ x.cplSize.toNat
  let unread := (x.cplTail.toNat + size - x.cplHead.toNat % size) % size
  let a := x.cplBase.toNat + 64 * (x.cplCount % size)
  if size - 1 ≤ unread then
    logErr .sched 0x0381 agSched (BitVec.ofNat 48 a) (s.setOwn o { x with overflow := true, cplLost := satInc x.cplLost })
  else
    let bs := recordOf d r seq (x.cplCount / size % 2 = 0) (lateBySync s o) s.now
    let s := s.setOwn o { x with cplCount := x.cplCount + 1, cplTail := BitVec.ofNat 16 ((x.cplTail.toNat + 1) % size) }
    if x.cplHost then toHost o (.write (BitVec.ofNat 64 a) bs) s
    else match hbmWrite (inkAt a) (BitVec.ofNat 7 o) agSched a bs s with
      | (none, s) => s
      | (some _, s) => logErr .sched 0x0382 agSched (BitVec.ofNat 48 a) s

/-- R73: one command retirement in C_cmd. -/
def retire (o : Nat) (d : Disp) (r : Outc) (seq : W32) (s : State) : State :=
  if s.ls.on ∧ s.ls.ctx.toNat = o then
    let x : W64 := (d.id.queue.setWidth 64 <<< 56) ||| (BitVec.ofNat 64 d.cmd.op <<< 48) ||| (r.status.code.setWidth 64 <<< 32) |||
      seq.setWidth 64
    { s with ls := { s.ls with cCmd := digStep s.ls.cCmd x } }
  else s

/-- R396: a completion interrupt goes to source CPL(o), or to the owner's MSI-X vector. -/
def cplInterrupt (o : Nat) (s : State) : State :=
  if cplRouted o s then
    sendX { cls := .sep, src := 0, dst := 1, stamp := s.now, metered := ownMetered s o, pay := .toSep (32 + o) } s
  else toHost o (.msi (BitVec.ofNat 8 o)) s

/-- R249: the bytes that a COPY has not moved are no longer outstanding. -/
def copyOver (d : Disp) (s : State) : State :=
  if d.cmd.op = 0x10 ∧ !d.undisp then
    s.setWell d.ink { s.wellAt d.ink with bytesOut := (s.wellAt d.ink).bytesOut - d.cmd.copyLen + BitVec.ofNat 32 (64 * (d.cp.getD {}).line) } else s

/-- R215: record, signal, interrupt, in that order. -/
def complete (o : Nat) (d : Disp) (r : Outc) (seq : W32) (s : State) : State :=
  let c := d.cmd
  let ok := r.status == .ok
  let s := copyOver d (retire o d r seq s)
  let s := if c.cpl || !ok then writeRecord o d r seq s else s
  let s := if c.signalEn && (ok || c.signalAlways) then incrNow (BitVec.ofNat 7 o) (BitVec.ofNat 17 c.signalObj) 1 agSched s else s
  let s := if c.irq && (s.ownAt o).irqEn then cplInterrupt o s else s
  let k := d.id.queue.toNat
  let q := s.queueAt o k
  if q.stopOnErr && (r.status == .refused || r.status == .fault) then s.setQueue o k { q with stopped := true } else s

/-- A finished command of queue (o, k) whose record carries `n`, and whose completion has reached the scheduler. -/
def isDone (o : Owner) (k : BitVec 3) (n q : W32) (d : Disp) : Bool :=
  d.back && d.id.owner == o && d.id.queue == k && (if d.undisp then q == n else d.id.seq == n) &&
  (match d.st with | .done _ => true | _ => false)

/-- The first element that satisfies `p`, and the list without it. -/
def pickFirst {α : Type} (p : α → Bool) : List α → Option (α × List α)
  | [] => none
  | x :: xs => if p x then some (x, xs) else (pickFirst p xs).map (fun r => (r.1, x :: r.2))

/-- COMMAND_COMPLETION (R215, R225, R226, R630). -/
def execCommandCompletion (o : Owner) (k : BitVec 3) (n : W32) (s : State) : Out :=
  done (match pickFirst (isDone o k n (s.queueAt o.toNat k.toNat).seq) s.sched.disp with
    | some (d, rest) =>
      match d.st with
      | .done r => complete o.toNat d r n { s with sched := { s.sched with disp := rest } }
      | _ => s
    | none => s)

end Sys2Proof.Machine
end

