-- ==== Sys2Proof/Machine/Launch.lean ====
section
/-!
DEFINITION. The sweep engine's launches: payload, descriptor, placement, loading, mesh slots, launch tick (R44 to R47, R53,
R59, R63, R64, R80, R132, R139, R216 to R220, R228 to R232, R301, R629).
-/
namespace Sys2Proof.Machine

-- Placement
/-- The physical Quills that are free: enabled, their column in RUN, and no partition's. -/
def quillFree (s : State) (q : Nat) : Bool :=
  !bit s.glb.fusedOff q && (s.pqAt q).res.isNone && (s.pqAt q).swap.isNone && s.domRun (q % 16 + 1)
def freeQuills (s : State) : List Nat := (List.range 256).filter (quillFree s)

/-- R220: a handle's word names no valid object for `o`. -/
def handleBad (o : Owner) (w : W32) (s : State) : Bool :=
  w &&& ~~~0x8001FFFF != 0 || (bit w 31 && (s.syncAt (fld w 0 17).toNat).owner != o)

/-- The handle table of a descriptor (R217). -/
def handlesOf (d : List Byte) : List W32 := (List.range 16).map (fun h => leWord 32 ((d.drop (4 * h)).take 4))

/-- Table 06.4: the record of one logical Quill, and whether its unused bits are 0 and its addresses aligned. R220 does not name
these: they are counted as an invalid descriptor, 0x0315 (DESIGN CHOICE, log entry 165). -/
def recOf (r : List Byte) : LqRec × Bool :=
  let at_ := fun (i n : Nat) => leNat ((r.drop i).take n)
  let nws := at_ 7 1
  ({ prog := BitVec.ofNat 40 (at_ 0 5), len := at_ 5 2 % 4096 + 1, state := BitVec.ofNat 40 (at_ 8 5)
     scratch := BitVec.ofNat 40 (at_ 13 5), ws := (List.range nws).map (fun i => BitVec.ofNat 24 (at_ (20 + 3 * i) 3)) },
   at_ 5 2 / 4096 = 0 ∧ nws ≤ 12 ∧ at_ 18 2 = 0 ∧ at_ 56 8 = 0 ∧ at_ 0 5 % 8 = 0 ∧ at_ 8 5 % 64 = 0 ∧ at_ 13 5 % 64 = 0)

/-- R217: a channel entry, and whether its unused bits are 0. -/
def chanOf (w : W32) : Chan × Bool :=
  ({ src := fld w 0 8, outCh := fld w 8 5, dst := fld w 16 8, inCh := fld w 24 5 }, w &&& ~~~0x1FFF1FFF == 0)

/-- No two elements of the list are equal. -/
def noDup {α : Type} [DecidableEq α] : List α → Bool
  | [] => true
  | x :: xs => !xs.contains x && noDup xs

/-- What a LAUNCH command and its descriptor say. -/
structure LaunchDesc where
  handles : List W32
  recs    : List LqRec
  chans   : List Chan

/-- R217, R220: read a descriptor of `nlq` records and `nchan` channels: none where it is invalid. NWS above 12 is invalid in
an EXACT context too, where R80's 0x0202 holds as well (DESIGN CHOICE, log entry 163). -/
def launchDescOf (o : Owner) (nlq nchan entry : Nat) (d : List Byte) (s : State) : Option LaunchDesc :=
  let hs := handlesOf d
  let rs := (List.range nlq).map (fun l => recOf ((d.drop (64 + 64 * l)).take 64))
  let cs := (List.range nchan).map (fun c => chanOf (leWord 32 ((d.drop (64 + 64 * nlq + 4 * c)).take 4)))
  let chans := cs.map (·.1)
  if hs.any (fun w => handleBad o w s) || !rs.all (fun r => r.2 && entry < r.1.len && noDup r.1.ws) ||
     !cs.all (fun c => c.2 && c.1.src.toNat < nlq && c.1.dst.toNat < nlq) ||
     !noDup (chans.map (fun c => c.src.toNat * 32 + c.outCh.toNat)) || !noDup (chans.map (fun c => c.dst.toNat * 32 + c.inCh.toNat))
  then none
  else some { handles := hs, recs := rs.map (·.1), chans := chans }

-- LAUNCH
/-- Table 06.3: the payload fields. -/
def launchFields : List (Nat × Nat × Nat) :=
  [(8, 0, 22), (12, 0, 24), (16, 0, 64), (24, 0, 64), (32, 0, 64), (40, 0, 40), (48, 0, 14)]

def Cmd.nlq (c : Cmd) : Nat := c.f 8 8 9
def Cmd.pid (c : Cmd) (o : Owner) : PartId := { owner := o, pid := BitVec.ofNat 6 (c.f 8 0 6) }
def Cmd.bitAt (c : Cmd) (i b : Nat) : Bool := c.f i b 1 == 1

/-- The timing class of an owner (R49). -/
def ownTiming (s : State) (o : Nat) : Timing := timingOf (s.ownAt o).timing

/-- R57, R64, R66, R216, R220: the reasons for which a LAUNCH is refused before its descriptor is read (log entry 91). -/
def launchReason (o : Owner) (c : Cmd) (s : State) : Option W16 :=
  let p := s.partAt (c.pid o)
  let fixed := !(s.ownAt o.toNat).fixedNat
  let agreed : W64 := BitVec.ofNat 64 (c.f 32 0 64)
  firstReason
    [(!payloadOk c launchFields, 0x0311), (!s.ink.enable, 0x0503), (c.nlq = 0 || 256 < c.nlq, 0x0314),
     (!c.bitAt 8 6 && p.isSome, 0x0312), (c.bitAt 8 6 && (match p with | some p => p.st != .idle | none => true), 0x0313),
     (c.bitAt 8 19 && fixed, 0x0204), (c.bitAt 8 20 && fixed, 0x0205),
     (c.bitAt 8 20 && ownTiming s o.toNat == .exact && 1 < chipCount s, 0x0201),
     (c.bitAt 8 21 && agreed.toNat % 8192 ≠ 0, 0x0206), (c.bitAt 8 21 && agreed.ule s.now, 0x0207),
     (c.bitAt 8 21 && !s.tk.locked, 0x0208), (c.f 40 0 40 % 64 ≠ 0, 0x0319),
     (8192 < c.f 48 0 14 || (c.bitAt 8 6 && p.map (·.nlq) ≠ some c.nlq), 0x0315)]

/-- The partition that a LAUNCH makes or, with KEEP, launches again. -/
def launchPart (d : Disp) (old : Option Part) (x : LaunchDesc) (key : W64) (s : State) : Part :=
  let c := d.cmd
  let o := d.id.owner
  let b := old.getD {}
  { b with
    id := c.pid o, cmd := d.id, st := .placing, nlq := c.nlq, encPm := c.bitAt 8 17, key := key, timing := ownTiming s o.toNat
    fixed := !(s.ownAt o.toNat).fixedNat, nn := c.bitAt 8 19, freex := c.bitAt 8 20
    agreed := if c.bitAt 8 21 then some (BitVec.ofNat 64 (c.f 32 0 64)) else none
    relOnEnd := c.bitAt 8 7, keep := c.bitAt 8 6, entry := c.f 12 0 12, ptr0 := BitVec.ofNat 10 (c.f 12 12 10)
    adv0 := c.bitAt 12 22, wrap0 := c.bitAt 12 23, sweep0 := BitVec.ofNat 64 (c.f 24 0 64)
    handles := (x.handles.zipIdx.filter (fun e => bit e.1 31)).map (fun e => (e.2, some (fld e.1 0 17)))
    recs := x.recs, chans := x.chans, demoted := false, late := b.halted, nnFell := false, exn := none, abort := none
    bound := false
    launchAt := s.now, seeded := c.bitAt 8 18 }

/-- R219, R294: the key of a launch; none while QSEED has yet to give one. -/
def launchKey (c : Cmd) (s : State) : Option (Except W16 W64 × State) :=
  if !c.bitAt 8 18 then some (.ok (BitVec.ofNat 64 (c.f 16 0 64)), s)
  else match takeOut 2 s with
    | some (k, s) => some (.ok k, s)
    | none =>
      if canGenerate 2 s then (takeOut 2 (hold 2 8 s)).map (fun r => (.ok r.1, r.2))
      else if s.mad.fatal then some (.error 0x0801, s)
      else none

/-- An earlier command of an opcode waits for its engine. -/
def earlierQueued (d : Disp) (op : Nat) (s : State) : Bool :=
  (s.sched.disp.takeWhile (fun e => e.id != d.id || e.undisp)).any (fun e => !e.undisp && e.cmd.op == op && e.st == .queued)

/-- A command is refused; 0x0503 also stands in INK_REASON (Table 07.4), 0x0801 in MAD_REASON (Table 08.2). -/
def refuse (id : CmdId) (r : W16) (s : State) : State :=
  finish id (refusedOut r) (if r = 0x0503 then setReason .ink r s else if r = 0x0801 then setReason .mad r s else s)

/-- LAUNCH (R216 to R220, R57, R64, R66, R219, R294): the sweep engine takes up a dispatched LAUNCH: its checks, its descriptor
and its key, also while an earlier launch waits for physical Quills (DESIGN CHOICE, log entry 166). -/
def launchTake (d : Disp) (h : HostBytes) (s : State) : State :=
  let o := d.id.owner
  let c := d.cmd
  if (s.ownAt o.toNat).draining then finish d.id (abortedOut 0x0321) s
  else match launchReason o c s with
  | some r => refuse d.id r s
  | none =>
    if !hbmUp s then s
    else
      let nchan := c.f 48 0 14
      match lmaRead { o := o, ag := agSched, k := 0, unm := 0x0584 } (c.f 40 0 40) (64 + 64 * c.nlq + 4 * nchan) h s with
      | (.error e, s) => finish d.id (faultOut e) s
      | (.ok bs, s') =>
        match launchDescOf o c.nlq nchan (c.f 12 0 12) bs s with
        | none => finish d.id (refusedOut 0x0315) s'
        | some x =>
          match launchKey c s' with
          | none => s
          | some (.error r, s) => refuse d.id r s
          | some (.ok key, s) =>
            modDisp d.id (fun d => { d with st := .running }) (s.setPart (launchPart d (s.partAt (c.pid o)) x key s))

/-- LAUNCH. -/
def execLaunch (o : Owner) (k : BitVec 3) (n : W32) (h : HostBytes) (s : State) : Out :=
  done (match takeDisp o k n 0x08 s with
    | some d => if d.got && !earlierQueued d 0x08 s then launchTake d h s else s
    | none => s)

-- Mesh slots (R44 to R47)
/-- The links of a route that stay in one row or column: from `a` to `b` in steps, each with its hop. -/
def lineHops (inc dec : Nat → Nat) (a b h0 : Nat) : List (Nat × Nat) :=
  if a ≤ b then (List.range (b - a)).map (fun i => (inc (a + i), h0 + i + 1))
  else (List.range (a - b)).map (fun i => (dec (a - i), h0 + i + 1))

/-- R45: the links that a channel from `ps` to `pd` uses and their hops: injection at hop 0, X first, then Y, and ejection
after the last hop (log entry 96). A link's number holds its kind and the tile it leaves. -/
def meshLinks (ps pd : Option Nat) : List (Nat × Nat) :=
  match ps, pd with
  | some a, some b =>
    let (x, y, x', y') := (a % 16, a / 16, b % 16, b / 16)
    let dx := if x ≤ x' then x' - x else x - x'
    let dy := if y ≤ y' then y' - y else y - y'
    (a, 0) :: lineHops (fun i => 0x100 + 16 * y + i) (fun i => 0x200 + 16 * y + i) x x' 0 ++
      lineHops (fun j => 0x300 + 16 * j + x') (fun j => 0x400 + 16 * j + x') y y' dx ++ [(0x500 + b, dx + dy + 1)]
  | some a, none => [(a, 0)]
  | none, some b => [(0x500 + b, 0)]
  | none, none => []

/-- The (link, frame tick) cells of a channel in slot `t`. -/
def meshCells (links : List (Nat × Nat)) (t : Nat) : List Nat := links.map (fun l => 32 * l.1 + (t + l.2) % 32)

/-- The physical place of logical Quill `l`. -/
def Part.placeOf (p : Part) (l : Byte) : Option Nat := (p.lqAt l.toNat).place.map (·.toNat)

/-- The cells that the channels of launched partitions hold. -/
def meshUsed (s : State) : KMap Bool :=
  (s.part.filter (fun e => e.2.st != .placing && e.2.st != .idle)).foldl (fun m e =>
    e.2.chans.foldl (fun m c => (meshCells (meshLinks (e.2.placeOf c.src) (e.2.placeOf c.dst)) c.slot.toNat).foldl
      (fun m x => kput m x true) m) m) []

/-- R46, R47: slots for the channels in list order, each the lowest that collides with none. -/
def assignSlots (p : Part) : List Chan → KMap Bool → Option (List Chan)
  | [], _ => some []
  | c :: cs, used =>
    let ls := meshLinks (p.placeOf c.src) (p.placeOf c.dst)
    match (List.range 32).find? (fun t => (meshCells ls t).all (fun x => !kget false used x)) with
    | none => none
    | some t =>
      (assignSlots p cs ((meshCells ls t).foldl (fun m x => kput m x true) used)).map (fun r => { c with slot := BitVec.ofNat 5 t } :: r)

-- Loading (R218, R139)
/-- Bytes padded with zeros to whole lines. -/
def padLine (d : List Byte) : List Byte := d ++ List.replicate ((64 - d.length % 64) % 64) 0

/-- Load an image at a window offset; address 0 stands for no image where `opt` holds. -/
def loadImage (c : Acc) (a n off : Nat) (opt : Bool) (h : HostBytes) (r : Except MemErr Stores × State) : Except MemErr Stores × State :=
  match r with
  | (.error e, s) => (.error e, s)
  | (.ok t, s) =>
    if opt && a == 0 then (.ok t, s)
    else match lmaRead c a n h s with
      | (.error e, s) => (.error e, s)
      | (.ok bs, s) => (.ok (t.fill off (padLine bs)), s)

/-- What loading a launch meets besides an error of memory. -/
inductive LaunchLoad where
  | ok (t : Stores) (frames : KMap Frame)
  | fault (e : MemErr)
  /-- R80: a declared page of an EXACT partition cannot be made resident. -/
  | notResident
  /-- R256: a host-backed page waits for the initialisation of the owner's page cache. -/
  | wait

/-- R218 step 3: the declared pages, in list order, into frames 0 and up; a page that is not mapped stays out of a
partition that is not EXACT. -/
def loadPages (c : Acc) (exact : Bool) (h : HostBytes) : List (BitVec 24) → Stores → KMap Frame → State → LaunchLoad × State
  | [], t, fs, s => (.ok t fs, s)
  | p :: ps, t, fs, s =>
    match pageWalk c.k c.o p s with
    | (none, s) => if exact then (.notResident, s) else loadPages c exact h ps t fs s
    | (some e, s) =>
      if bit e 1 && (s.hcAt c.o.toNat).init then (.wait, s) else
      let (d, s) := pageData c.k c.o p e h s
      let f := fs.length
      loadPages c exact h ps (framePut f d t) (kset {} fs f { page := some p, pinned := true, last := s.now }) s

/-- R218: the stores of one logical Quill of a new partition. -/
def loadStores (c : Acc) (r : LqRec) (exact : Bool) (h : HostBytes) (s : State) : LaunchLoad × State :=
  let t0 : Except MemErr Stores × State := (.ok (Stores.grant {} c.o), s)
  match loadImage c r.scratch.toNat 0x8000 scBase true h (loadImage c r.state.toNat 0x10000 stBase true h
      (loadImage c r.prog.toNat (8 * r.len) prBase false h t0)) with
  | (.error e, s) => (.fault e, s)
  | (.ok t, s) => loadPages c exact h r.ws t [] s

/-- R132, R629: the registers of a logical Quill at a launch; KEEP keeps tables, frames and stores. -/
def Lq.launched (l : Lq) (p : Part) : Lq :=
  let b : Lq := { frames := l.frames, place := l.place, home := l.home, saved := l.saved, len := l.len, pc := p.entry, ptr := p.ptr0, adv := p.adv0
                  wrap := p.wrap0, sweep := p.sweep0 }
  if p.keep then { b with tabA := l.tabA, tabC := l.tabC, tabB := l.tabB, tshA := l.tshA, tshC := l.tshC } else b

/-- A new logical Quill with its stores. -/
def placeLq (p : Part) (l : Nat) (q : Option Nat) (t : Stores) (fs : KMap Frame) (s : State) : State :=
  let id : LqId := { part := p.id, l := BitVec.ofNat 8 l }
  let x : Lq := { frames := fs, len := (p.recs.getD l {}).len, place := q.map (BitVec.ofNat 8)
                  home := BitVec.ofNat 8 (q.getD 0) }
  match q with
  | some q =>
    (s.modPq q (fun pq => { pq with st := t, wr := [], res := some id, running := false })).modLq id (fun _ => x)
  | none => s.modLq id (fun _ => { x with saved := some t })

/-- How the loading of a new partition ends. -/
inductive LoadEnd where
  | ok
  | wait
  | fail (r : Outc)

/-- Load logical Quills `l` and up of a new partition onto the free physical Quills `qs`. -/
def loadLqs (p : Part) (exact : Bool) (h : HostBytes) : Nat → Nat → List Nat → State → LoadEnd × State
  | 0, _, _, s => (.ok, s)
  | n + 1, l, qs, s =>
    let k := match qs with | q :: _ => inkOf q | [] => 0
    match loadStores { o := p.id.owner, ag := agInk k, k := k, unm := 0x0584 } (p.recs.getD l {}) exact h s with
    | (.fault e, s) => (.fail (faultOut e), s)
    | (.notResident, s) => (.fail (refusedOut 0x0202), s)
    | (.wait, s) => (.wait, s)
    | (.ok t fs, s) => loadLqs p exact h n (l + 1) (qs.drop 1) (placeLq p l qs.head? t fs s)

/-- R139, R232: a KEEP launch pins the pages it declares and asks for those that are not resident. -/
def keepPages (p : Part) (l : Nat) (s : State) : State :=
  let ws := (p.recs.getD l {}).ws
  let id : LqId := { part := p.id, l := BitVec.ofNat 8 l }
  let s := s.modLq id (fun x => { x with frames := x.frames.map (fun e =>
    (e.1, { e.2 with pinned := match e.2.page with | some g => ws.contains g | none => false })) })
  let miss := ws.filter (fun g => ((p.lqAt l).frameOf g.toNat).isNone && !(s.ink.reqs ++ s.ink.fetches).any (fun f => f.isFor id g))
  let k := match (p.lqAt l).place with | some q => inkOf q.toNat | none => 0
  { s with ink := { s.ink with reqs := s.ink.reqs ++ miss.map (fun g =>
    { lq := id, page := g, hint := true, since := s.now, last := s.now, k := k }) } }

/-- R80: every declared page of a KEEP launch is resident. -/
def keepResident (p : Part) : Bool :=
  (List.range p.nlq).all (fun l => (p.recs.getD l {}).ws.all (fun g => ((p.lqAt l).frameOf g.toNat).isSome))

/-- A launch that does not run: it completes, a new partition is gone, and a kept one stays as it was. -/
def dropLaunch (p : Part) (r : Outc) (s : State) : State :=
  let s := if p.bound then bindHandles p (· - 1) s else s
  let s := finish p.cmd r s
  if p.keep then s.modPart p.id (fun p => { p with st := .idle, bound := false, abort := none, handles := [], chans := [], agreed := none })
  else returnPart p s

/-- The replica number that an EXCHANGE in progress gives a partition (Table 04.2). -/
def replicaOf (id : PartId) (s : State) : BitVec 6 :=
  match (s.sched.disp.filter (fun d => d.id.owner == id.owner && d.st == .running)).findSome? (fun d =>
    d.ex.bind (fun x => x.reps.findIdx? (fun r => r.1 == id.pid))) with
  | some i => BitVec.ofNat 6 i
  | none => 0

/-- R301: the key of a launch with SEEDSRC = 1 crosses to every placed Quill under M2Q. -/
def sendKeys (p : Part) (s : State) : State :=
  if !p.seeded then s else
  ((List.range p.nlq).filterMap (fun l => (p.lqAt l).place)).foldl (fun s q =>
    sendX { cls := .m2q, src := 0, dst := q.toNat, stamp := s.now, metered := p.metered, pay := .seed p.id } s) s

/-- A key of a launch of this partition. -/
def isSeed (id : PartId) (x : XItem) : Bool := match x.pay with | .seed p => p == id | _ => false

/-- R46, R132, R218, R629: a placed and loaded partition: mesh slots, registers, handles, PART_ENABLE. -/
def setUpLaunch (p : Part) (s : State) : State :=
  match assignSlots p p.chans (meshUsed s) with
  | none => dropLaunch p (refusedOut 0x0203) s
  | some cs =>
    let rx := replicaOf p.id s
    let lqs := (List.range p.nlq).map (fun l => (l, { (p.lqAt l).launched p with rxIdx := rx }))
    let p := { p with chans := cs, lqs := lqs, st := .ready, enabled := true, bound := true, resident := true
                      demoted := p.timing == .exact && tilesEn s < p.nlq
                      rot := if p.keep then p.rot else (lqs.filter (fun e => e.2.place.isSome)).length - 1 }
    sendKeys p (bindHandles p (· + 1) (s.setPart p))

/-- R228 to R230: the launch that the sweep engine serves. -/
def firstLaunch (s : State) : Option CmdId :=
  (s.sched.disp.find? (fun d => !d.undisp && d.cmd.op == 0x08 && d.st == .running &&
    (match s.partAt (d.cmd.pid d.id.owner) with | some p => p.cmd == d.id && p.st == .placing | none => false))).map (·.id)

/-- LAUNCH_PLACE (R14, R59, R80, R218, R228 to R230, R232): place and load the launch at the front. -/
def launchPlace (p : Part) (h : HostBytes) (s : State) : State :=
  if (match p.agreed with | some a => a.ult s.now | none => false) then dropLaunch p (refusedOut 0x0317) s
  else if p.keep then
    let exact := p.timing == .exact && p.nlq ≤ tilesEn s
    if exact && !keepResident p then dropLaunch p (refusedOut 0x0202) s
    else setUpLaunch p ((List.range p.nlq).foldl (fun s l => keepPages p l s) s)
  else
    let free := freeQuills s
    let metered := p.timing == .exact || p.timing == .rept
    let need := if metered then min p.nlq (tilesEn s) else 1
    if free.length < need then s
    else
      let exact := p.timing == .exact && p.nlq ≤ tilesEn s
      match loadLqs p exact h p.nlq 0 (free.take p.nlq) s with
      | (.fail r, s) => dropLaunch ((s.partAt p.id).getD p) r s
      | (.wait, _) => s
      | (.ok, s) => setUpLaunch ((s.partAt p.id).getD p) s

/-- LAUNCH_PLACE. -/
def execLaunchPlace (o : Owner) (pid : BitVec 6) (h : HostBytes) (s : State) : Out :=
  done (match s.partAt { owner := o, pid := pid } with
    | some p => if p.st = .placing ∧ firstLaunch s = some p.cmd ∧ hbmUp s then launchPlace p h s else s
    | none => s)

-- The launch tick
/-- R301: the launch's key has been released to every placed Quill. -/
def keyHere (p : Part) (s : State) : Bool := !outstanding s (isSeed p.id)

/-- R53, R63, R301: the launch may start on this tick. -/
def mayLaunch (p : Part) (s : State) : Bool :=
  p.st == .ready && keyHere p s &&
  (match p.agreed with
    | some a => a.ule s.now
    | none => !p.metered || s.now.toNat % 8192 == 0)

/-- R72, R73: lock-step epochs and digests start at the launch. -/
def lsLaunch (p : Part) (s : State) : State :=
  if s.ls.on ∧ s.ls.ctx = p.id.owner then
    { s with ls := { s.ls with epoch := 0, cCmd := 0, wait := [], got := [], failed := false, held := [], passAt := none } }
  else s

/-- The physical Quills of a partition run, or stop. -/
def setRunning (p : Part) (b : Bool) (s : State) : State :=
  { s with pq := s.pq.map (fun e => (e.1, if e.2.res.map (·.part) == some p.id then { e.2 with running := b } else e.2)) }

/-- R125, R628: a logical Quill of a native-noise launch that starts on a physical Quill without a passed calibration starts
on Woad, with FALLBACK set. -/
def nnStart (p : Part) (s : State) : State :=
  if !p.nn then s else
  (List.range p.nlq).foldl (fun s l =>
    match (p.lqAt l).place with
    | none => s
    | some q =>
      if (s.pqAt q.toNat).calPass then s else
      let s := s.modPq q.toNat (fun x => { x with fallback := true })
      s.modPart p.id (fun x => { x.setLq l { x.lqAt l with fallback := true } with nnFell := true })) s

/-- LAUNCH_TICK (R53, R63, R125, R301, R628). -/
def launchStart (p : Part) (s : State) : State :=
  let s := s.setPart { p with st := .running, launchAt := s.now }
  let s := modDisp p.cmd (fun d => { d with start := s.now }) s
  nnStart p (lsLaunch p (setRunning p true s))

def execLaunchTick (o : Owner) (pid : BitVec 6) (s : State) : Out :=
  done (match s.partAt { owner := o, pid := pid } with
    | some p => if mayLaunch p s then launchStart p s else s
    | none => s)

/-- R232: the partition is not placed, loaded and resident, its key there, by the agreed count. -/
def agreedMissed (p : Part) (s : State) : Bool :=
  (match p.agreed with | some a => a.ule s.now | none => false) && (p.st == .placing || (p.st == .ready && !keyHere p s))

/-- AGREED_COUNT_MISSED (R232). -/
def execAgreedCountMissed (o : Owner) (pid : BitVec 6) (s : State) : Out :=
  done (match s.partAt { owner := o, pid := pid } with
    | some p => if agreedMissed p s then dropLaunch p (refusedOut 0x0317) s else s
    | none => s)

end Sys2Proof.Machine
end

