-- ==== Sys2Proof/Machine/Sweep.lean ====
section
/-!
DEFINITION. The sweep engine's other work: ends of launches, STOP, RELEASE, replica exchange, swaps and moves (R114 to R116,
R133, R160, R163, R176, R199, R221 to R224, R229, R231, R262).
-/
namespace Sys2Proof.Machine

-- The end of a launch
/-- R345: the boundary exchanges of a partition whose launch completes: a free one is OK, a FIXED one is cut short. -/
def endBoundary (id : PartId) (s : State) : State :=
  s.sched.disp.foldl (fun s d =>
    match d.bx with
    | some b =>
      if d.id.owner = id.owner ∧ b.pid = id.pid ∧ d.st = .running then finish d.id (if b.period = 0 then abortedOut 0x0708 else {}) s
      else s
    | none => s) s

/-- The replica index of a partition's logical Quills. -/
def setReplica (id : PartId) (v : BitVec 6) (s : State) : State :=
  s.modPart id (fun p => { p with lqs := p.lqs.map (fun e => (e.1, { e.2 with rxIdx := v })) })

/-- An EXCHANGE ends: its partitions are in no group. -/
def exchangeEnd (d : Disp) (x : ExSt) (r : Outc) (s : State) : State :=
  let s := x.reps.foldl (fun s e => setReplica { owner := d.id.owner, pid := e.1 } 0 s) s
  finish d.id { r with res0 := BitVec.ofNat 64 x.done, res1 := BitVec.ofNat 64 x.swaps } s

/-- R223: the exchanges that list a partition whose launch completes are aborted; the spec names no CODE for it (log
entry 93). -/
def abortExchanges (id : PartId) (s : State) : State :=
  (s.sched.disp.filter (fun d => d.id.owner == id.owner && d.st == .running)).foldl (fun s d =>
    match d.ex with
    | some x =>
      if x.reps.any (fun r => r.1 == id.pid) then
        let (c, s) := draw s
        exchangeEnd d x (abortedOut (BitVec.ofNat 16 c)) s
      else s
    | none => s) s

/-- The STOP commands that wait for a partition complete (Table 06.2). -/
def finishStops (id : PartId) (s : State) : State :=
  (s.sched.disp.filter (fun d => d.id.owner == id.owner && d.cmd.op == 0x0A && d.st == .running && d.cmd.pid id.owner == id)).foldl
    (fun s d => finish d.id {} s) s

/-- R162, R221: a launch completes with outcome `r`: its WAITs are over, and the partition stays resident unless
RELEASE_ON_END. -/
def completeLaunch (p : Part) (r : Outc) (s : State) : State :=
  let r := { r with res0 := p.key, res1 := (p.lqAt 0).sweep }
  let s := finish p.cmd r (modDisp p.cmd (fun d => { d with late := d.late || p.late, demoted := p.demoted, nnFell := p.nnFell }) s)
  let s := setRunning p false (if p.bound then bindHandles p (· - 1) s else s)
  let s := dropWaits (fun id => id.part == p.id) (finishStops p.id (abortExchanges p.id (endBoundary p.id s)))
  if p.relOnEnd then returnPart p s
  else s.modPart p.id (fun p => { p with st := .idle, bound := false })

def isEndRep (x : XItem) : Bool := match x.pay with | .endRep _ => true | _ => false
/-- An END report of partition `id`. -/
def endRepOf (id : PartId) (x : XItem) : Bool := match x.pay with | .endRep d => d.part == id | _ => false

/-- END_REPORT_RECEIVE (R176, R221): the oldest END report released at the scheduler. -/
def execEndReportReceive (s : State) : Out :=
  done (match inboxTake isEndRep (fun x => x.rel.toNat) s with
    | none => s
    | some (x, s) =>
      match x.pay with
      | .endRep id =>
        match s.partAt id.part with
        | some p =>
          if p.st = .running ∧ (List.range p.nlq).all (fun l => (p.lqAt l).reported) ∧ !outstanding s (endRepOf p.id) then
            completeLaunch p {} s
          else s
        | none => s
      | _ => s)

/-- R163: every logical Quill of a partition has stopped, and every effect has drained. -/
def partDrained (p : Part) (s : State) : Bool :=
  (List.range p.nlq).all (fun l =>
    let id : LqId := { part := p.id, l := BitVec.ofNat 8 l }
    ((p.lqAt l).ended || (p.lqAt l).stopped) && lqDrained id (p.lqAt l) s && !s.ink.fetches.any (fun f => f.lq == id)) &&
  !s.pq.any (fun e => e.2.swap.map (·.next.part) == some p.id)

/-- R163, R221: how a launch that was stopped completes. -/
def stoppedOut (p : Part) : Outc :=
  match p.exn with
  | some e => { status := .fault, code := e.code, lq := e.l.setWidth 9, pc := e.pc, errAddr := 0 }
  | none => abortedOut (p.abort.getD 0)

/-- LAUNCH_FAULT_DRAINED (R163, R221, R227). -/
def execLaunchFaultDrained (o : Owner) (pid : BitVec 6) (s : State) : Out :=
  done (match s.partAt { owner := o, pid := pid } with
    | some p => if p.st = .stopping ∧ partDrained p s then completeLaunch p (stoppedOut p) s else s
    | none => s)

-- STOP and RELEASE
/-- R224: the partition is running. -/
def partRuns (p : Part) : Bool := p.st == .running || p.st == .stopping

/-- STOP (R221, R224, R227). -/
def execStop (o : Owner) (k : BitVec 3) (n : W32) (s : State) : Out :=
  done (match takeDisp o k n 0x0A s with
    | some d =>
      if !d.got then s
      else if !payloadOk d.cmd [(8, 0, 6)] then finish d.id (refusedOut 0x0311) s
      else match s.partAt (d.cmd.pid o) with
        | some p => if partRuns p then stopPart p 0x0320 (modDisp d.id (fun d => { d with st := .running }) s) else finish d.id {} s
        | none => finish d.id {} s
    | none => s)

/-- RELEASE (R91, R221, R224). -/
def execRelease (o : Owner) (k : BitVec 3) (n : W32) (s : State) : Out :=
  done (match takeDisp o k n 0x0B s with
    | some d =>
      if !d.got then s
      else if !payloadOk d.cmd [(8, 0, 6)] then finish d.id (refusedOut 0x0311) s
      else match s.partAt (d.cmd.pid o) with
        | some p => if p.st = .idle then finish d.id {} (returnPart p s) else finish d.id (refusedOut 0x0316) s
        | none => finish d.id {} s
    | none => s)

-- Replica exchange
/-- R222: one entry of the exchange list, and whether its other bits are 0. -/
def repOf (w : W64) : (BitVec 6 × BitVec 17 × BitVec 17) × Bool := ((fld w 0 6, fld w 6 17, fld w 23 17), fld w 40 24 == 0)

/-- Table 06.5: the payload fields. -/
def exchangeFields : List (Nat × Nat × Nat) := [(8, 0, 7), (12, 0, 32), (16, 0, 40), (24, 0, 40), (32, 0, 64), (40, 0, 32), (44, 0, 5)]

/-- R216, R223: the reasons that the payload of an EXCHANGE gives. -/
def exchangeReason (c : Cmd) : Option W16 :=
  firstReason [(!payloadOk c exchangeFields, 0x0311), (c.f 8 0 7 < 2 || 64 < c.f 8 0 7, 0x0318),
    (c.f 12 0 32 = 0 || c.f 16 0 40 % 64 ≠ 0 || c.f 24 0 40 % 64 ≠ 0, 0x0319)]

/-- R223: the list names a partition twice, or an object that `o` does not own. -/
def listBad (o : Owner) (es : List ((BitVec 6 × BitVec 17 × BitVec 17) × Bool)) (s : State) : Bool :=
  es.any (fun e => !e.2 || (s.syncAt e.1.2.1.toNat).owner != o || (s.syncAt e.1.2.2.toNat).owner != o) || !noDup (es.map (·.1.1))

/-- The little-endian words of a list of bytes, `k` bytes each. -/
def chop (k : Nat) : Nat → List Byte → List (List Byte)
  | 0, _ => []
  | n + 1, bs => bs.take k :: chop k n (bs.drop k)

/-- EXCHANGE (R222, R223): the sweep engine takes it up. -/
def exchangeTake (d : Disp) (h : HostBytes) (s : State) : State :=
  let c := d.cmd
  match exchangeReason c with
  | some r => finish d.id (refusedOut r) s
  | none =>
    if !hbmUp s then s else
    let acc : Acc := { o := d.id.owner, ag := agSched, k := 0, unm := 0x0584 }
    match lmaRead acc (c.f 16 0 40) (8 * c.f 8 0 7) h s with
    | (.error e, s) => finish d.id (faultOut e) s
    | (.ok bs, s) =>
      let es := (chop 8 (c.f 8 0 7) bs).map (fun b => repOf (leWord 64 b))
      if listBad d.id.owner es s then finish d.id (refusedOut 0x0318) s
      else match lmaRead acc (c.f 24 0 40) 512 h s with
      | (.error e, s) => finish d.id (faultOut e) s
      | (.ok rx, s) =>
        let x : ExSt := { reps := es.map (·.1), rounds := BitVec.ofNat 32 (c.f 12 0 32), round0 := BitVec.ofNat 32 (c.f 40 0 32)
                          seed := BitVec.ofNat 64 (c.f 32 0 64), rxsh := c.f 44 0 5, rxt := (chop 2 256 rx).map (leWord 16) }
        let s := modDisp d.id (fun d => { d with st := .running, ex := some x }) s
        x.reps.zipIdx.foldl (fun s e => setReplica { owner := d.id.owner, pid := e.1.1 } (BitVec.ofNat 6 e.2) s) s

/-- EXCHANGE. -/
def execExchange (o : Owner) (k : BitVec 3) (n : W32) (h : HostBytes) (s : State) : Out :=
  done (match takeDisp o k n 0x09 s with
    | some d => if d.got then exchangeTake d h s else s
    | none => s)

/-- The stores of a logical Quill, where it is resident or where its state is saved. -/
def storesOf (l : Lq) (s : State) : Stores :=
  match l.place with
  | some q => (s.pqAt q.toNat).st
  | none => l.saved.getD {}

/-- R88, R89, R129: agent `ag` reads `n` bytes of a store of a logical Quill: the corrections and an uncorrectable word are
the physical Quill's on which the logical Quill is, or was last (log entry 144). -/
def storeRead (id : LqId) (off n : Nat) (ag : Agent) (s : State) : Except MemErr (List Byte) × State :=
  match s.lqOf id with
  | none => (.error { code := 0x0E81, addr := 0 }, s)
  | some l =>
    let q := (l.place.getD l.home).toNat
    let r := (storesOf l s).read off n
    let s := eccNote q r s
    match r.bad with
    | some b => (.error { code := 0x0E80, addr := winAddr q b }, logErr (.quill (BitVec.ofNat 8 q)) 0x0E80 ag (winAddr q b) s)
    | none => (.ok r.bytes, s)

/-- R115: the energy of a partition: the sum over its logical Quills from `l` up, `n` of them. -/
def energyOf (p : Part) : Nat → Nat → W64 → State → Except MemErr W64 × State
  | 0, _, e, s => (.ok e, s)
  | n + 1, l, e, s =>
    match storeRead { part := p.id, l := BitVec.ofNat 8 l } (scBase + 0x7FF8) 8 agSched s with
    | (.error x, s) => (.error x, s)
    | (.ok bs, s) => energyOf p n (l + 1) (e + leWord 64 bs) s

/-- R90, R116: the β code at the pointer of a partition, read of logical Quill 0. -/
def betaOf (p : Part) (s : State) : Except MemErr W16 × State :=
  let l := p.lqAt 0
  let n := l.ptr.toNat
  match l.place with
  | some q =>
    if kget false (s.pqAt q.toNat).parB n then
      let a := tabAddr q.toNat 2 n
      (.error { code := 0x0E80, addr := a },
       logErr (.quill q) 0x0E80 agSched a (s.modPq q.toNat (fun x => { x with uncorrCnt := satInc x.uncorrCnt })))
    else (.ok (kget 0 l.tabB n), s)
  | none => (.ok (kget 0 l.tabB n), s)

/-- What a round reads of one partition: its energy, and its β code where it is in a pair. -/
def replicaRead (p : Part) (paired : Bool) (s : State) : Except MemErr (W64 × W16) × State :=
  match energyOf p p.nlq 0 0 s with
  | (.error e, s) => (.error e, s)
  | (.ok en, s) =>
    if !paired then (.ok (en, 0), s)
    else match betaOf p s with
      | (.error e, s) => (.error e, s)
      | (.ok b, s) => (.ok (en, b), s)

/-- What a round reads of its partitions, from replica `r` up. -/
def replicasRead (paired : Nat → Bool) : Nat → List Part → State → Except MemErr (List (Part × W64 × W16)) × State
  | _, [], s => (.ok [], s)
  | r, p :: ps, s =>
    match replicaRead p (paired r) s with
    | (.error e, s) => (.error e, s)
    | (.ok x, s) =>
      match replicasRead paired (r + 1) ps s with
      | (.error e, s) => (.error e, s)
      | (.ok xs, s) => (.ok ((p, x) :: xs), s)

/-- R116: the swap decision of a pair: β codes and energies of replicas a and a + 1, round `n`. -/
def swapDecide (x : ExSt) (n a : Nat) (ba bb : W16) (ea eb : W64) : Bool :=
  let d : Int := (Int.ofNat ba.toNat - Int.ofNat bb.toNat) * (ea.toInt - eb.toInt)
  if 0 ≤ d then true
  else
    let k := min 255 ((-d).toNat / 2 ^ x.rxsh)
    let t := x.rxt.getD k 0
    t == 0xFFFF || (variate x.seed (BitVec.ofNat 32 (0xFFFF0000 + a)) (BitVec.ofNat 64 n) 0).ult t

/-- R116: swap the pointers of two partitions, logical Quill by logical Quill. -/
def swapPtr (pa pb : Part) (s : State) : State :=
  let put := fun (p q : Part) (s : State) => s.modPart p.id (fun x => { x with lqs := x.lqs.map (fun e =>
    (e.1, { e.2 with ptr := (q.lqAt (if e.1 < q.nlq then e.1 else 0)).ptr })) })
  put pb pa (put pa pb s)

/-- R116: one pair of a round. -/
def swapPair (x : ExSt) (n : Nat) (ps : List (Part × W64 × W16)) (r : Nat × State) (a : Nat) : Nat × State :=
  match ps[a]?, ps[a + 1]? with
  | some (pa, ea, ba), some (pb, eb, bb) =>
    if swapDecide x n a ba bb ea eb then (r.1 + 1, swapPtr pa pb r.2) else r
  | _, _ => r

/-- R89, R222: a round that has fired: energies, swaps, RELEASE. -/
def exchangeRound (d : Disp) (x : ExSt) (ps : List Part) (s : State) : State :=
  let n := x.round0.toNat + x.done
  let first := fun r => r % 2 == n % 2 && decide (r + 1 < x.reps.length)
  match replicasRead (fun r => first r || (0 < r && first (r - 1))) 0 ps s with
  | (.error e, s) => exchangeEnd d x (faultOut e) s
  | (.ok es, s) =>
    let (k, s) := ((List.range x.reps.length).filter first).foldl (swapPair x n es) (0, s)
    let s := x.reps.foldl (fun s r => incrNow d.id.owner r.2.2 1 agSched s) s
    let x := { x with done := x.done + 1, swaps := x.swaps + k }
    if x.done = x.rounds.toNat then exchangeEnd d x {} s
    else modDisp d.id (fun d => { d with ex := some x }) s

/-- EXCHANGE_ROUND (R115, R116, R222, R241). -/
def execExchangeRound (o : Owner) (k : BitVec 3) (n : W32) (_h : HostBytes) (s : State) : Out :=
  done (match runDisp o k n 0x09 s with
    | some d =>
      match d.ex with
      | some x =>
        if exFires o x s then exchangeRound d x ((exParts o x s).map (·.1)) s else s
      | none => s
    | none => s)

-- Swaps and moves
/-- R199: every instruction of a logical Quill other than a WAIT has reached its latency, its store writes are complete, and
no CLAMP or held SIGNAL is outstanding (log entry 101). -/
def lqQuiet (l : Lq) : Bool :=
  l.clamps.isEmpty && l.sig.isEmpty && decide (l.latX ≤ l.xt) && decide (l.doneX ≤ l.xt) && decide (l.board.loader ≤ l.xt)

/-- R231: the time of a resident logical Quill is over; one that has ended and reported needs no Quill (log entry 145). -/
def turnOver (l : Lq) (now : W64) : Bool :=
  (l.ended && l.reported) || l.inAt + 16384 ≤ l.xt ||
  (match l.wait with | some w => (w.t + 1024).ule now | none => false) ||
  (match l.pgWait with | some w => (w.since + 1024).ule now | none => false)

/-- R231: the logical Quills of a partition that wait for a physical Quill, in the ascending rotation after the one that it
brought in last. -/
def rotation (p : Part) (s : State) : List Nat :=
  ((List.range p.nlq).map (fun i => (p.rot + 1 + i) % p.nlq)).filter (fun i =>
    let x := p.lqAt i
    x.place.isNone && !x.reported && !x.stopped &&
    !s.pq.any (fun e => e.2.swap.map (·.next) == some { part := p.id, l := BitVec.ofNat 8 i }))

/-- The lines of the four stores of a Quill. -/
def storeLines : Nat := 0xE0000 / 64

/-- R231, R262, R263: a swap that brings `next` to `q` begins: it takes a paging slot, and `n` lines have to be moved. -/
def swapBegin (q : Nat) (next : LqId) (n : Nat) (s : State) : State :=
  let s := slotTake (inkOf q) (s.modPq q (fun pq => { pq with swap := some { next := next, start := s.now, lines := n } }))
  s.modPart next.part (fun p => { p with rot := next.l.toNat })

/-- R133: the state of the logical Quill on `q` is saved, and the next one is to be restored. -/
def swapOut (q : Nat) (id next : LqId) (s : State) : State :=
  let t := (s.pqAt q).after
  let s := s.modLq id (fun l => { l with place := none, saved := some t })
  swapBegin q next (2 * storeLines) (s.modPq q (fun pq => { pq with st := { tag := t.tag }, wr := [], res := none, running := false }))

/-- R229: a free physical Quill takes the next logical Quill of the first LOOSE partition that has one waiting. -/
def looseNext (s : State) : Option LqId :=
  (s.part.filter (fun e => e.2.st == .running && e.2.timing == .loose)).findSome? (fun e =>
    (rotation e.2 s).head?.map (fun l => { part := e.2.id, l := BitVec.ofNat 8 l }))

/-- R14, R133, R199, R231, R263: a swap on physical Quill `q`, where one is due. -/
def quillSwap (q : Nat) (s : State) : State :=
  let pq := s.pqAt q
  if !slotFree (inkOf q) s then s else
  match pq.res with
  | some id =>
    match s.partAt id.part with
    | some p =>
      let l := p.lqAt id.l.toNat
      if p.st = .running ∧ pq.swap.isNone ∧ !l.stopped ∧ lqQuiet l ∧ turnOver l s.now then
        match rotation p s with
        | i :: _ => swapOut q id { part := p.id, l := BitVec.ofNat 8 i } s
        | [] => s
      else s
    | none => s
  | none =>
    if quillFree s q then
      match looseNext s with
      | some id => swapBegin q id storeLines s
      | none => s
    else s

/-- QUILL_SWAP. -/
def execQuillSwap (q : Byte) (s : State) : Out := done (quillSwap q.toNat s)

/-- R133, R258: the restored logical Quill; its sweep list is gone, and its waits count from now (log entry 100). -/
def swapIn (q : Nat) (id : LqId) (s : State) : State :=
  match s.partAt id.part with
  | none => s.modPq q (fun pq => { pq with swap := none })
  | some p =>
    let l := p.lqAt id.l.toNat
    let t := l.saved.getD { tag := id.part.owner }
    let s := s.modLq id (fun l => { l with
      place := some (BitVec.ofNat 8 q), home := BitVec.ofNat 8 q, saved := none, inAt := l.xt, swList := [], swCur := [], swFull := false
      wait := l.wait.map (fun w => { w with t := s.now }), pgWait := l.pgWait.map (fun w => { w with since := s.now }) })
    s.modPq q (fun pq => { pq with st := t, wr := [], res := some id, swap := none, running := !l.stopped })

/-- R261: a swap that is not metered moves up to `n` lines, as many as the tags and line slots of this tick allow. -/
def swapLines (q : Nat) : Nat → State → State
  | 0, s => s
  | n + 1, s =>
    match (s.pqAt q).swap with
    | some w =>
      if 0 < w.lines ∧ !s.partMetered w.next.part ∧ 0 < tagsFree (inkOf q) s ∧ lineSlot (inkOf q) s then
        swapLines q n (swapLine q false s)
      else s
    | none => s

/-- R133, R160, R231, R262: the swap on `q` completes once its lines have moved, in REPEAT timing 32,768 ticks after it began. -/
def swapEnd (q : Nat) (s : State) : State :=
  match (s.pqAt q).swap with
  | none => s
  | some w =>
    if 0 < w.lines ∨ (s.partMetered w.next.part ∧ s.now.ult (w.start + 32768)) then s
    else swapIn q w.next (slotGive (inkOf q) s)

/-- SWAP_COMPLETE. -/
def execSwapComplete (q : Byte) (s : State) : Out := done (swapEnd q.toNat (swapLines q.toNat 24 s))

/-- QUILL_MOVE (R55, R133, R199, R229): a logical Quill of a LOOSE partition moves from `q` to the free `q'`. -/
def execQuillMove (q q' : Byte) (s : State) : Out :=
  let pq := s.pqAt q.toNat
  done (match pq.res with
    | some id =>
      match s.partAt id.part with
      | some p =>
        if p.st = .running ∧ p.timing = .loose ∧ pq.swap.isNone ∧ lqQuiet (p.lqAt id.l.toNat) ∧ quillFree s q'.toNat then
          let s := s.modPq q'.toNat (fun x => { x with st := pq.after, wr := [], res := some id, running := pq.running })
          let s := s.modPq q.toNat (fun x => { x with st := {}, wr := [], res := none, running := false })
          s.modLq id (fun l => { l with place := some q', home := q' })
        else s
      | none => s
    | none => s)

end Sys2Proof.Machine
end

