-- ==== Sys2Proof/Machine/Engines.lean ====
section
/-!
DEFINITION. The Inkwells' COPY and PAGE_INVAL, and the plant engine's PLANT_BIND and PLANT_ARM (R224, R249, R254, R264,
R493 to R496).
-/
namespace Sys2Proof.Machine

-- COPY
/-- Table 06.7: one side of a COPY. -/
inductive CopyEnd where
  | lma (a : Nat)
  | dpa (a : Nat)
  | host (a : Nat)
  | store (id : LqId) (off : Nat)

/-- Table 06.7: an address of kind `kind` for `n` bytes; none where it is misaligned, undefined or names no store of a
resident partition (log entry 98). -/
def copyEnd (o : Owner) (kind a n : Nat) (s : State) : Option CopyEnd :=
  if a % 64 ≠ 0 then none
  else match kind with
  | 0 => if a + n ≤ 2 ^ 40 then some (.lma a) else none
  | 1 => if a + n ≤ 2 ^ 48 then some (.dpa a) else none
  | 2 => if a + n ≤ 2 ^ 64 then some (.host a) else none
  | 3 =>
    let id : PartId := { owner := o, pid := BitVec.ofNat 6 (a / 2 ^ 56) }
    let l := a / 2 ^ 48 % 256
    match s.partAt id with
    | some p =>
      if p.resident ∧ l < p.nlq ∧ a / 2 ^ 62 = 0 ∧ a / 2 ^ 20 % 2 ^ 28 = 0 ∧ a % 2 ^ 20 + n ≤ 0xE0000 then
        some (.store { part := id, l := BitVec.ofNat 8 l } (a % 2 ^ 20))
      else none
    | none => none
  | _ => none

/-- The end `i` bytes further. -/
def CopyEnd.plus (e : CopyEnd) (i : Nat) : CopyEnd :=
  match e with
  | .lma a => .lma (a + i) | .dpa a => .dpa (a + i) | .host a => .host (a + i) | .store id o => .store id (o + i)

/-- The model-space error of a COPY is logged by the Inkwell (Table 07.4). -/
def logUnmapped (c : Acc) (e : MemErr) (s : State) : State := if e.code = 0x0584 then logErr .ink 0x0584 c.ag e.addr s else s

/-- A COPY reads one line. -/
def copyRead (c : Acc) (e : CopyEnd) (h : HostBytes) (s : State) : Except MemErr (List Byte) × State :=
  match e with
  | .lma a =>
    match lmaRead c a 64 h s with
    | (.error e, s) => (.error e, logUnmapped c e s)
    | r => r
  | .dpa a => hbmRead c.o c.ag a 64 s
  | .host a => hostPart c.ag h a 64 s
  | .store id off => storeRead id off 64 c.ag s

/-- A COPY writes one line (R264). -/
def copyWrite (c : Acc) (e : CopyEnd) (d : List Byte) (s : State) : Option MemErr × State :=
  match e with
  | .lma a =>
    match lmaWrite c a d s with
    | (some e, s) => (some e, logUnmapped c e s)
    | r => r
  | .dpa a => hbmWrite c.k c.o c.ag a d s
  | .host a => (none, hostWrite (BitVec.ofNat 64 a) d s)
  | .store id off =>
    match (s.lqOf id).bind (·.place) with
    | some q => (none, extWrite q.toNat off d c.ag s)
    | none => (none, modStores id (fun t => t.write off d) s)

/-- R264: one line from `src` to `dst`. -/
def copyLine (c : Acc) (src dst : CopyEnd) (h : HostBytes) (s : State) : Option MemErr × State :=
  match copyRead c src h s with
  | (.error e, s) => (some e, s)
  | (.ok bs, s) => copyWrite c dst bs s

/-- R216, R224: the reasons for which the Inkwell refuses a COPY. -/
def copyReason (o : Owner) (c : Cmd) (s : State) : Option W16 :=
  let n := c.f 24 0 32
  let dst := copyEnd o (c.f 28 4 4) (c.f 16 0 64) n s
  firstReason
    [(!payloadOk c [(8, 0, 64), (16, 0, 64), (24, 0, 32), (28, 0, 11)], 0x0311), (!s.ink.enable, 0x0503),
     (n = 0 || n % 64 ≠ 0 || (copyEnd o (c.f 28 0 4) (c.f 8 0 64) n s).isNone || dst.isNone, 0x0319),
     (match dst with | some (.store id _) => (match s.partAt id.part with | some p => p.st != .idle | none => false) | _ => false, 0x0316)]

/-- R263: Inkwell `k` has a copy slot free. -/
def copySlot (k : Nat) (s : State) : Bool := (s.wellAt k).copyUsed.toNat + s.ink.slots.toNat < 32

/-- A COPY ends: its tags and its slot return. -/
def copyEnds (d : Disp) (x : Xfer) (r : Outc) (s : State) : State :=
  let s := x.stop d.ink s
  let s := s.setWell d.ink { s.wellAt d.ink with copyUsed := (s.wellAt d.ink).copyUsed - 1 }
  finish d.id { r with res0 := BitVec.ofNat 64 (64 * x.line) } (modDisp d.id (fun d => { d with cp := some x }) s)

/-- R248, R263: a COPY of `n` lines takes the tags of its next chunk of 64 KiB, 1,024 lines. -/
def copyChunk (d : Disp) (x : Xfer) (n : Nat) (s : State) : Xfer × State :=
  if x.held = 0 ∧ x.want = 0 ∧ x.line < n then
    let (y, s) := Xfer.start (min 1024 (n - x.line)) d.ink s
    ({ y with line := x.line }, s)
  else (x, s)

/-- R249, R261, R263, R264: a COPY from `src` to `dst`, of `n` lines in all, moves up to `f` lines in ascending order (log
entry 147), as many as its tags and the line slots of this tick allow; it ends after its last line or at its first error. -/
def copyLines (d : Disp) (c : Acc) (src dst : CopyEnd) (n : Nat) (h : HostBytes) : Nat → Xfer → State → State
  | 0, x, s => modDisp d.id (fun d => { d with cp := some x }) s
  | f + 1, x, s =>
    if n ≤ x.line then copyEnds d x {} s
    else
      let (x, s) := copyChunk d x n s
      if x.held = 0 ∨ !lineSlot d.ink s then modDisp d.id (fun d => { d with cp := some x }) s
      else match copyLine c (src.plus (64 * x.line)) (dst.plus (64 * x.line)) h s with
        | (some e, s) => copyEnds d x (faultOut e) s
        | (none, s) =>
          let s := lineMoved d.ink false s
          let s := s.setWell d.ink { s.wellAt d.ink with bytesOut := (s.wellAt d.ink).bytesOut - 64 }
          copyLines d c src dst n h f x.next s

/-- The two ends of a COPY, as Table 06.7 gives them now, and its lines. -/
def copyGo (d : Disp) (x : Xfer) (h : HostBytes) (s : State) : State :=
  let c := d.cmd
  let o := d.id.owner
  let n := c.f 24 0 32
  match copyEnd o (c.f 28 0 4) (c.f 8 0 64) n s, copyEnd o (c.f 28 4 4) (c.f 16 0 64) n s with
  | some src, some dst => copyLines d { o := o, ag := agInk d.ink, k := d.ink, unm := 0x0584 } src dst (n / 64) h 25 x s
  | _, _ => copyEnds d x (refusedOut 0x0319) s

/-- COPY (R216, R224, R249, R261, R263 to R266, R270): the Inkwell takes the command up, which takes a copy slot, and moves the
lines that this tick allows; further COPY commands move the others. -/
def copyTake (d : Disp) (h : HostBytes) (s : State) : State :=
  match copyReason d.id.owner d.cmd s with
  | some r => refuse d.id r s
  | none =>
    if !hbmUp s ∨ !copySlot d.ink s then s
    else
      let s := s.setWell d.ink { s.wellAt d.ink with copyUsed := (s.wellAt d.ink).copyUsed + 1 }
      copyGo d {} h (modDisp d.id (fun d => { d with st := .running }) s)

/-- COPY. -/
def execCopy (o : Owner) (k : BitVec 3) (n : W32) (h : HostBytes) (s : State) : Out :=
  done (match takeDisp o k n 0x10 s, runDisp o k n 0x10 s with
    | some d, _ => if d.got then copyTake d h s else s
    | none, some d => copyGo d (d.cp.getD {}) h s
    | none, none => s)

/-- R254, R266: clear the page-cache tags of an owner's pages `p` up, `n` of them, as far as the first that fails. -/
def tagsClear (o : Owner) : Nat → Nat → State → Option MemErr × State
  | 0, _, s => (none, s)
  | n + 1, p, s =>
    match hcClear 0 o (BitVec.ofNat 24 p) s with
    | (some e, s) => (some e, s)
    | (none, s) => tagsClear o n (p + 1) s

/-- R254: forget an owner's pages `p` to `p + n - 1`. -/
def pageForget (o : Owner) (p n : Nat) (s : State) : Option MemErr × State :=
  let s := cacheDrop (fun x => x.owner == o && p ≤ x.page.toNat && x.page.toNat < p + n) s
  if (s.hcAt o.toNat).enable then tagsClear o n p s else (none, s)

/-- R253: a fetch of one of the pages still uses an entry that its walk found before (log entry 146). -/
def pagesWalked (o : Owner) (p n : Nat) (s : State) : Bool :=
  s.ink.fetches.any (fun f => f.lq.part.owner == o && p ≤ f.page.toNat && f.page.toNat < p + n && f.st != .walking)

/-- PAGE_INVAL (R216, R253, R254, R266). -/
def execPageInval (o : Owner) (k : BitVec 3) (n : W32) (s : State) : Out :=
  done (match takeDisp o k n 0x11 s with
    | some d =>
      let p := d.cmd.f 8 0 24
      let cnt := d.cmd.f 12 0 25
      if !d.got then s
      else match firstReason [(!payloadOk d.cmd [(8, 0, 24), (12, 0, 25)], 0x0311), (!s.ink.enable, 0x0503),
          (cnt = 0 || 0x1000000 < p + cnt, 0x0319)] with
        | some r => refuse d.id r s
        | none =>
          if ((s.hcAt o.toNat).enable ∧ !hbmUp s) ∨ pagesWalked o p cnt s then s
          else match pageForget o p cnt s with
            | (none, s) => finish d.id {} s
            | (some e, s) => finish d.id (faultOut e) s
    | none => s)

-- The plant engine
/-- R494: a mailbox of the mask that a PLANT_BIND may not bind (or unbind) to the pair. -/
def bindBad (unbind : Bool) (id : PartId) (w : W64) (b : KMap PartId) : Bool :=
  (mboxes w).any (fun m => match kfind b m with | some p => p != id | none => unbind)

/-- PLANT_BIND (R216, R493 to R495). -/
def execPlantBind (o : Owner) (k : BitVec 3) (n : W32) (s : State) : Out :=
  done (match takeDisp o k n 0x28 s with
    | some d =>
      let c := d.cmd
      let id := c.pid o
      let ev : W64 := BitVec.ofNat 64 (c.f 16 0 64)
      let dec : W64 := BitVec.ofNat 64 (c.f 24 0 64)
      let un := c.bitAt 9 0
      if !d.got then s
      else match firstReason [(!payloadOk c [(8, 0, 6), (9, 0, 1), (16, 0, 64), (24, 0, 64)], 0x0311),
          (bindBad un id ev s.plant.evBind || bindBad un id dec s.plant.decBind, 0x0A01),
          (match s.partAt id with | some p => partRuns p | none => false, 0x0A02)] with
        | some r => finish d.id (refusedOut r) (if r = 0x0311 then s else setReason .plant r s)
        | none => finish d.id {} (if un then unbindEv ev (unbindDec dec s) else bindMailboxes id ev dec s)
    | none => s)

/-- R496: the reasons for which an arm is refused. -/
def armReason (w : W64) (s : State) : Option W16 :=
  firstReason [(w = 0, 0x0A05), (s.plant.tripLatched || s.plant.tripPin, 0x0A03),
    ((mboxes w).any (fun m => mbLess (s.mbSigned m) (s.mbHi m) (s.mbLo m)), 0x0A04)]

/-- PLANT_ARM (R216, R496, R499). -/
def execPlantArm (o : Owner) (k : BitVec 3) (n : W32) (s : State) : Out :=
  done (match takeDisp o k n 0x29 s with
    | some d =>
      let w := boundMask s.plant.decBind (fun p => p.owner == o)
      if !d.got then s
      else if !payloadOk d.cmd [(8, 0, 1)] then finish d.id (refusedOut 0x0311) s
      else if !d.cmd.bitAt 8 0 then finish d.id {} (disarmMask w s)
      else match armReason w s with
        | some r => finish d.id (refusedOut r) (setReason .plant r s)
        | none => finish d.id {} (armMask w s)
    | none => s)

end Sys2Proof.Machine
end

