-- ==== Sys2Proof/Machine/Coll.lean ====
section
/-!
DEFINITION. The sort engine, collective groups and the collectives (chapter 10).
-/
namespace Sys2Proof.Machine

-- Sorting
/-- A key of `w` bytes as a number (R350). -/
def keyOf (sg : Bool) (bs : List Byte) : Int :=
  let n := leNat bs
  if sg ∧ 2 ^ (8 * bs.length - 1) ≤ n then (n : Int) - 2 ^ (8 * bs.length) else n

/-- An element comes before another: by key, and among equal keys by the free order of ties (R70, R353). -/
def sortBefore (desc : Bool) (seed : Nat) (a b : Int × Nat) : Bool :=
  if a.1 < b.1 then !desc else if b.1 < a.1 then desc
  else
    let x := Config.sortTie seed a.2
    let y := Config.sortTie seed b.2
    x < y || (x = y && a.2 < b.2)

/-- Insert into a sorted list. -/
def sortInsert (le : Int × Nat → Int × Nat → Bool) (x : Int × Nat) : List (Int × Nat) → List (Int × Nat)
  | [] => [x]
  | y :: ys => if le x y then x :: y :: ys else y :: sortInsert le x ys

/-- The positions of a list of keys in sort order. -/
def sortOrder (desc : Bool) (seed : Nat) (keys : List Int) : List Nat :=
  ((keys.zipIdx.foldr (sortInsert (sortBefore desc seed)) [])).map (·.2)

/-- The seed of the order of ties: under FIXED the input alone decides it (R70). -/
def tieSeed (o : Owner) (bs : List Byte) (s : State) : Nat × State :=
  if (s.ownAt o.toNat).fixedNat then draw s else (leNat bs, s)

/-- Sort and collective accesses: an unmapped LMA is logged (R354). -/
def collAcc (o : Owner) (ag : Agent) : Acc := { o := o, ag := ag, k := 0, unm := 0x0680 }
def logSort (c : Acc) (e : MemErr) (s : State) : State := if e.code = 0x0680 then logErr .sort 0x0680 c.ag e.addr s else s

/-- R353, R354: `n` bytes at `a` become free values, where they are mapped. -/
def scramble (c : Acc) (a n : Nat) (s : State) : State :=
  let (xs, s) := drawN n s
  { (lmaWrite c a (xs.map (BitVec.ofNat 8)) s).2 with ink := s.ink }

/-- A range of model space: start and bytes. -/
abbrev Range := Nat × Nat
def overlap (a b : Range) : Bool := a.2 ≠ 0 ∧ b.2 ≠ 0 ∧ a.1 < b.1 + b.2 ∧ b.1 < a.1 + a.2

/-- Some two of the ranges overlap. -/
def anyOverlap : List Range → Bool
  | [] => false
  | r :: rs => rs.any (overlap r) || anyOverlap rs

/-- The payload of a SORT (Table 06.6). -/
structure SortCmd where
  kin : Nat
  iin : Nat
  kout : Nat
  iout : Nat
  n : Nat
  w : Nat
  sg : Bool
  desc : Bool
  mode : Nat
  k : Nat

def sortOf (c : Cmd) : SortCmd :=
  { kin := c.f 8 0 40, iin := c.f 16 0 40, kout := c.f 24 0 40, iout := c.f 32 0 40, n := c.f 40 0 25, w := 2 * 2 ^ c.f 44 0 2
    sg := c.bitAt 44 2, desc := c.bitAt 44 3, mode := c.f 44 4 2, k := c.f 48 0 25 }

/-- R351: elements written. -/
def SortCmd.outs (x : SortCmd) : Nat := if x.mode = 0 then x.n else if x.mode = 1 then x.k else 1

/-- R352: K is in the range of its mode. -/
def SortCmd.kOk (x : SortCmd) : Bool := if x.mode = 0 then x.k = 0 else if x.mode = 1 then 1 ≤ x.k && x.k ≤ x.n else x.k < x.n

/-- R216, R352: the reasons for which a SORT is refused. -/
def sortReason (c : Cmd) : Option W16 :=
  let x := sortOf c
  firstReason
    [(!payloadOk c [(8, 0, 40), (16, 0, 40), (24, 0, 40), (32, 0, 40), (40, 0, 25), (44, 0, 6), (48, 0, 25)], 0x0311),
     (x.kin % 64 ≠ 0 || x.iin % 64 ≠ 0 || x.kout % 64 ≠ 0 || x.iout % 64 ≠ 0 || x.n = 0 || 0x1000000 < x.n || x.w = 16 ||
      x.mode = 3 || !x.kOk, 0x0602),
     (anyOverlap [(x.kin, x.n * x.w), (x.iin, if x.iin = 0 then 0 else 4 * x.n), (x.kout, x.outs * x.w), (x.iout, 4 * x.outs)], 0x0603)]

/-- R350, R351: keys and indices of the output positions. -/
def sortOut (x : SortCmd) (seed : Nat) (kb ib : List Byte) : List Byte × List Byte :=
  let ks := chop x.w x.n kb
  let order := sortOrder x.desc seed (ks.map (keyOf x.sg))
  let pos := if x.mode = 2 then (order.drop x.k).take 1 else order.take x.outs
  let is := if x.iin = 0 then (List.range x.n).map (fun i => wordBytes 4 (BitVec.ofNat 32 i)) else chop 4 x.n ib
  ((pos.map (fun p => ks.getD p [])).flatten, (pos.map (fun p => is.getD p [])).flatten)

/-- R354: a SORT that fails: its output ranges are undefined. -/
def sortFault (d : Disp) (c : Acc) (e : MemErr) (s : State) : State :=
  let x := sortOf d.cmd
  finish d.id (faultOut e) (scramble c x.iout (4 * x.outs) (scramble c x.kout (x.outs * x.w) (logSort c e s)))

/-- SORT (R350 to R355): the sort engine takes up a command; from now on its output ranges are undefined (R353). -/
def sortTake (d : Disp) (s : State) : State :=
  match sortReason d.cmd with
  | some r => finish d.id (refusedOut r) (if r = 0x0311 then s else setReason .sort r s)
  | none =>
    if !hbmUp s then s else
    let x := sortOf d.cmd
    let c := collAcc d.id.owner agSort
    modDisp d.id (fun d => { d with st := .running }) (scramble c x.iout (4 * x.outs) (scramble c x.kout (x.outs * x.w) s))

/-- SORT (R350 to R355): the running command reads its inputs, writes its outputs and completes. -/
def sortRun (d : Disp) (h : HostBytes) (s : State) : State :=
    if !hbmUp s then s else
    let x := sortOf d.cmd
    let c := collAcc d.id.owner agSort
    match lmaRead c x.kin (x.n * x.w) h s with
    | (.error e, s) => sortFault d c e s
    | (.ok kb, s) =>
      match (if x.iin = 0 then (.ok [], s) else lmaRead c x.iin (4 * x.n) h s : Except MemErr (List Byte) × State) with
      | (.error e, s) => sortFault d c e s
      | (.ok ib, s) =>
        let (seed, s) := tieSeed d.id.owner kb s
        let out := sortOut x seed kb ib
        match lmaWrite c x.kout out.1 s with
        | (some e, s) => sortFault d c e s
        | (none, s) =>
          match lmaWrite c x.iout out.2 s with
          | (some e, s) => sortFault d c e s
          | (none, s) => finish d.id { res0 := BitVec.ofNat 64 x.outs } s

/-- R355: the sort engine runs a command. -/
def sortBusy (s : State) : Bool := s.sched.disp.any (fun d => !d.undisp && d.cmd.op == 0x18 && d.st == .running)

/-- SORT: taken up when the engine is free and no earlier one waits, then run. -/
def execSort (o : Owner) (k : BitVec 3) (n : W32) (h : HostBytes) (s : State) : Out :=
  done (match takeDisp o k n 0x18 s with
    | some d => if d.got && !earlierQueued d 0x18 s && !sortBusy s then sortTake d s else s
    | none => match runDisp o k n 0x18 s with
      | some d => sortRun d h s
      | none => s)

-- Groups (R356, R357)
def State.grpAt (s : State) (g : Nat) : Grp := kget {} s.coll.grp g
def State.setGrp (s : State) (g : Nat) (x : Grp) : State := { s with coll := { s.coll with grp := kset {} s.coll.grp g x } }
/-- R356: VALID of group `g`. -/
def grpValid (s : State) (g : Nat) : Bool := if g = 0 then s.glb.surrEn else (s.grpAt g).valid
/-- The members of a group in ascending chip index. -/
def grpMembers (s : State) (g : Nat) : List Nat :=
  if g = 0 then List.range (chipCount s)
  else (List.range 256).filter (fun c => bit (kget 0 (s.grpAt g).members (c / 32)) (c % 32))
/-- R357: this chip's rank. -/
def grpRank (s : State) (g : Nat) : Nat := (grpMembers s g).idxOf (chipNo s)

/-- R356: a write of a group's VALID bit. -/
def grpWrite (g : Nat) (v : Bool) (s : State) : State :=
  let x := s.grpAt g
  if g = 0 || g ≥ 16 then s
  else if !v then s.setGrp g { x with valid := false }
  else if x.valid then s
  else
    let ms := grpMembers s g
    checked .sort [(!s.glb.surrEn || !ms.contains (chipNo s) || ms.any (fun c => chipCount s ≤ c), 0x0606)]
      (fun s => s.setGrp g { x with valid := true }) s

/-- COLL_GRP_VALID (R356). -/
def execCollGrpValid (g : BitVec 4) (v : Bool) (s : State) : Out := done (grpWrite g.toNat v s)

/-- R359: the command fields of a member, or rank 0's, arrive. -/
def ctlReceive (g : BitVec 4) (src : Byte) (fields : W64) (s : State) : State :=
  let x := s.grpAt g.toNat
  if grpValid s g.toNat ∧ (grpMembers s g.toNat).contains src.toNat ∧ src.toNat ≠ chipNo s ∧ x.ctl.length < 65536 then
    s.setGrp g.toNat { x with ctl := x.ctl ++ [(src, fields)] } else s

/-- COLL_CTL_RECEIVE (R359). -/
def execCollCtlReceive (g : BitVec 4) (src : Byte) (fields : W64) (s : State) : Out := done (ctlReceive g src fields s)

-- Collectives
/-- Table 06.6: the fields of a COLL. -/
structure CollCmd where
  op : Nat
  dtype : Nat
  redop : Nat
  group : Nat
  freex : Bool
  pid : Nat
  root : Nat
  src : Nat
  dst : Nat
  count : Nat

def collOf (c : Cmd) : CollCmd :=
  { op := c.f 8 0 4, dtype := c.f 8 4 4, redop := c.f 8 8 3, group := c.f 8 11 4, freex := c.bitAt 8 15, pid := c.f 8 16 6
    root := c.f 12 0 8, src := c.f 16 0 40, dst := c.f 24 0 40, count := c.f 32 0 32 }

/-- Table 06.6: the payload bits of COLL. SRC and DST carry LMAs, of 40 bits: bits [63:40] are not listed, so they are 0 (DESIGN
CHOICE, log entry 169). -/
def collFields : List (Nat × Nat × Nat) := [(8, 0, 22), (12, 0, 8), (16, 0, 40), (24, 0, 40), (32, 0, 32)]

/-- Bytes of an element (Table 10.2). -/
def elemSize (t : Nat) : Nat := if t = 5 then 2 else if t = 2 ∨ t = 3 then 8 else 4

/-- R358: the combination of fields is one that Table 10.2 allows. -/
def collOk (x : CollCmd) (s : State) : Bool :=
  !x.freex && x.pid = 0 && (x.op = 2 || x.root = 0) &&
  (match x.op with
    | 0 => x.dtype ≤ 5 && (if x.dtype < 4 then x.redop ≤ 5 else x.redop ≤ 2)
    | 1 => x.dtype ≤ 5 && x.redop = 0
    | 2 => x.dtype ≤ 5 && x.redop = 0 && (grpMembers s x.group).contains x.root
    | 4 => x.dtype = 0 && x.redop = 0 && x.src = 0 && x.dst = 0
    | 5 => x.dtype ≤ 3 && x.redop = 0
    | _ => false)

/-- R358: COUNT is in its range. -/
def countOk (x : CollCmd) : Bool :=
  if x.op = 4 then x.count = 0 else 1 ≤ x.count && (if x.op = 5 then x.count ≤ 2 ^ 28 else x.count ≤ 2 ^ 24)

/-- R57, R216, R358: the reasons for which a collective of chapter 10 is refused. -/
def collReason (o : Owner) (c : Cmd) (s : State) : Option W16 :=
  let x := collOf c
  firstReason
    [(!payloadOk c collFields, 0x0311), (x.freex && !(s.ownAt o.toNat).fixedNat, 0x0205), (!grpValid s x.group, 0x0601),
     (!collOk x s, 0x0604), (!countOk x, 0x0605), (x.src % 64 ≠ 0 || x.dst % 64 ≠ 0, 0x0602)]

/-- R359: the command fields that members compare: OP, DTYPE, REDOP, ROOT and, but for sample-sort, COUNT. -/
def ctlFields (x : CollCmd) : W64 :=
  BitVec.ofNat 64 (x.op + 16 * x.dtype + 256 * x.redop + 2048 * x.root + 0x80000 * (if x.op = 5 then 0 else x.count))

/-- R359: what the members' fields say: none while some have not arrived, else whether they agree. Rank 0 hears every
member; every other member hears rank 0. -/
def ctlVerdict (x : CollCmd) (s : State) : Option Bool :=
  let ms := grpMembers s x.group
  let me := chipNo s
  let from_ := if ms.head? = some me then ms.filter (· != me) else ms.take 1
  let got := from_.map (fun c => ((s.grpAt x.group).ctl.find? (fun e => e.1.toNat == c)).map (·.2))
  if got.all Option.isSome then some (got.all (fun f => f == some (ctlFields x))) else none

/-- One entry per sender has been used. -/
def ctlDrop : List Nat → List (Byte × W64) → List (Byte × W64)
  | [], l => l
  | c :: cs, l => ctlDrop cs (l.eraseP (fun e => e.1.toNat == c))

/-- R359: the collective is over: the group's next one has the next sequence number, and its fields go to rank 0. -/
def collEnd (d : Disp) (r : Outc) (s : State) : State :=
  let x := collOf d.cmd
  let g := s.grpAt x.group
  let s := s.setGrp x.group { g with seq := g.seq + 1, ctl := ctlDrop (grpMembers s x.group) g.ctl }
  finish d.id r s

/-- R359, R361: a member's COLL_CTL packet to rank 0. -/
def sendCtl (d : Disp) (s : State) : State :=
  let x := collOf d.cmd
  match grpMembers s x.group with
  | c :: _ =>
    if c = chipNo s then s
    else
      let addr : W64 := BitVec.ofNat 64 (x.group + 16 * (s.grpAt x.group).seq.toNat)
      sendC2k true (mkPkt c (chipNo s) 5 (ownMetered s d.id.owner.toNat) d.id.owner 0 0 addr
        (wordBytes 32 (ctlFields x)) s.now) s
  | [] => s

/-- R359: an earlier collective of the same group has been dispatched and is not over. -/
def groupBusy (d : Disp) (s : State) : Bool :=
  (s.sched.disp.takeWhile (fun e => e.id != d.id || e.undisp)).any (fun e =>
    !e.undisp && e.cmd.op == 0x20 && (collOf e.cmd).op != 3 && (collOf e.cmd).group == (collOf d.cmd).group &&
    (e.st == .queued || e.st == .running))

-- Remote requests (R318, R332)
/-- R318: a REQ packet of command `id` leaves for chip `c` where a tag is free; its tag holds the space of the whole response,
`len` units of 32 bytes. -/
def issueReq (id : CmdId) (c : Nat) (wr : Bool) (a : Dpa) (len : Nat) (data : List Byte) (s : State) : State :=
  match (List.range 1024).find? (fun t => (kfind s.kl.tag t).isNone) with
  | none => s
  | some t =>
    let p := mkPkt c (chipNo s) (if wr then 1 else 0) (ownMetered s id.owner.toNat) id.owner (BitVec.ofNat 10 t) 0
      (a.setWidth 64) data s.now
    let p := { p with frames := p.frames.modify 0 (fun f => setFld f 42 (BitVec.ofNat 4 len)) }
    let r : RTag := { cmd := id, sentAt := s.now, chip := BitVec.ofNat 8 c, addr := a, wr := wr, len := 32 * len }
    sendC2k true p { s with kl := { s.kl with tag := kput s.kl.tag t r } }

/-- R332: while a collective waits for its members' data, the engine may read their memory: whether it does, whose and where are
free values, since the spec does not say which collective reads what (log entry 171). -/
def collAsk (d : Disp) (x : CollCmd) (s : State) : State :=
  let ms := (grpMembers s x.group).filter (· != chipNo s)
  let go := draw s
  let who := draw go.2
  let addr := draw who.2
  let len := draw addr.2
  if ms.isEmpty then s
  else if go.1 % 2 = 0 then go.2
  else issueReq d.id (ms.getD (who.1 % ms.length) 0) false (BitVec.ofNat 48 (addr.1 * 64)) (2 * (len.1 % 7 + 1)) [] len.2

/-- R355, R359, R360: the frame of every collective of chapter 10: refusals, the turn of its group, the COLL_CTL check,
then `body`, which answers none while a member's data is missing. -/
def collTake (d : Disp) (op : Nat) (body : CollCmd → Acc → State → Option (Outc × State)) (s : State) : State :=
  let x := collOf d.cmd
  if x.op ≠ op then s
  else match collReason d.id.owner d.cmd s with
  | some r => finish d.id (refusedOut r) (if r = 0x0311 ∨ r = 0x0205 then s else setReason .sort r s)
  | none =>
    if groupBusy d s then s
    else if d.st = .queued then modDisp d.id (fun d => { d with st := .running }) (sendCtl d s)
    else match ctlVerdict x s with
    | none => s
    | some false => collEnd d { status := .fault, code := 0x0681 } (logErr .sort 0x0681 agColl 0 s)
    | some true =>
      match body x (collAcc d.id.owner agColl) s with
      | some (r, s) => collEnd d r s
      | none => collAsk d x s

/-- A COLL command that is queued or running. -/
def collDisp (o : Owner) (k : BitVec 3) (n : W32) (s : State) : Option Disp :=
  match takeDisp o k n 0x20 s with
  | some d => if d.got then some d else none
  | none => runDisp o k n 0x20 s

/-- R360: an undefined OP is refused under R358. -/
def collUndef (d : Disp) (s : State) : State :=
  if (collOf d.cmd).op = 3 ∨ (collOf d.cmd).op < 6 then s
  else match collReason d.id.owner d.cmd s with
  | some r => finish d.id (refusedOut r) (if r = 0x0311 ∨ r = 0x0205 then s else setReason .sort r s)
  | none => s

/-- Every rank's data: this chip's `mine` among the others' in rank order; none where a member's data is missing. -/
def rankData (x : CollCmd) (mine : List Byte) (peers : List (List Byte)) (s : State) : Option (List (List Byte)) :=
  let r := grpRank s x.group
  if peers.length + 1 = (grpMembers s x.group).length ∧ peers.all (fun p => p.length == mine.length) then
    some (peers.take r ++ mine :: peers.drop r)
  else none

/-- Read SRC, make the result of every rank's data, write it to DST. -/
def collData (x : CollCmd) (c : Acc) (n : Nat) (h : HostBytes) (f : List Byte → State → Option (List Byte)) (s : State) :
    Option (Outc × State) :=
  if !hbmUp s then none else
  match lmaRead c x.src n h s with
  | (.error e, s) => some (faultOut e, logSort c e s)
  | (.ok bs, s) =>
    (f bs s).map (fun out =>
      match lmaWrite c x.dst out s with
      | (some e, s) => (faultOut e, logSort c e s)
      | (none, s) => ({}, s))

-- Reductions (R362, R363)
/-- R362: an integer reduction of two elements of `w` bits. -/
def redInt (w : Nat) (sg : Bool) (op : Nat) (a b : BitVec w) : BitVec w :=
  let lt := if sg then a.slt b else a.ult b
  match op with
  | 0 => a + b
  | 1 => if lt then a else b
  | 2 => if lt then b else a
  | 3 => a &&& b
  | 4 => a ||| b
  | _ => a ^^^ b

/-- R363: the order of min and max: a is below b, −0 below +0. -/
def fpLess (a b : W32) : Bool :=
  let key := fun (x : W32) => if bit x 31 then ~~~x else x ||| 0x80000000
  (key a).ult (key b)

def fpIsNan (x : W32) : Bool := fld x 23 8 == 255 && fld x 0 23 != 0

/-- R363: one combination of two FP32 values. -/
def redFp (op : Nat) (a b : W32) : W32 :=
  if op = 0 then fpAdd a b
  else if fpIsNan a || fpIsNan b then fpNan
  else if fpLess a b == (op == 1) then a else b

/-- R363: the tree over ranks. -/
def redTree (op : Nat) (l : List W32) : W32 := ((List.range 8).foldl (fun l _ => pairUp (redFp op) l) l).headD 0

/-- R363: the one rounding of a BF16 result; a sum flushes a subnormal result. -/
def toBf16 (op : Nat) (x : W32) : W16 :=
  if fpIsNan x then 0x7FC0
  else if op = 0 ∧ fld x 23 8 = 0 then fld (x &&& 0x80000000) 16 16
  else fld (x + 0x7FFF + (fld x 16 1).setWidth 32) 16 16

/-- The reduction of one element over the ranks, as bytes. -/
def redElem (t op : Nat) (vs : List (List Byte)) : List Byte :=
  if t = 5 then wordBytes 2 (toBf16 op (redTree op (vs.map (fun b => bf16 (leWord 16 b)))))
  else if t = 4 then wordBytes 4 (redTree op (vs.map (leWord 32)))
  else if t < 2 then
    match vs.map (leWord 32) with
    | v :: l => wordBytes 4 (l.foldl (redInt 32 (t == 0) op) v)
    | [] => []
  else
    match vs.map (leWord 64) with
    | v :: l => wordBytes 8 (l.foldl (redInt 64 (t == 2) op) v)
    | [] => []

/-- R362, R363: element by element. -/
def reduceAll (t op n : Nat) (vs : List (List Byte)) : List Byte :=
  let es := elemSize t
  ((List.range n).map (fun i => redElem t op (vs.map (fun v => (v.drop (es * i)).take es)))).flatten

/-- ALL_REDUCE (R358 to R363). -/
def execAllReduce (o : Owner) (k : BitVec 3) (n : W32) (h : HostBytes) (peers : List (List Byte)) (s : State) : Out :=
  done (match collDisp o k n s with
    | some d => collUndef d (collTake d 0 (fun x c s => collData x c (x.count * elemSize x.dtype) h (fun mine s =>
        (rankData x mine peers s).map (reduceAll x.dtype x.redop x.count)) s) s)
    | none => s)

/-- ALL_GATHER (R358 to R361). -/
def execAllGather (o : Owner) (k : BitVec 3) (n : W32) (h : HostBytes) (peers : List (List Byte)) (s : State) : Out :=
  done (match collDisp o k n s with
    | some d => collTake d 1 (fun x c s => collData x c (x.count * elemSize x.dtype) h (fun mine s =>
        (rankData x mine peers s).map List.flatten) s) s
    | none => s)

/-- BROADCAST (R358 to R361): SRC is read on the root alone. -/
def execBroadcast (o : Owner) (k : BitVec 3) (n : W32) (h : HostBytes) (peers : List (List Byte)) (s : State) : Out :=
  done (match collDisp o k n s with
    | some d => collTake d 2 (fun x c s =>
        let len := x.count * elemSize x.dtype
        if x.root = chipNo s then collData x c len h (fun mine _ => some mine) s
        else collData x c 0 h (fun _ _ => match peers with | [p] => if p.length = len then some p else none | _ => none) s) s
    | none => s)

/-- BARRIER (R358 to R360, R365). -/
def execBarrier (o : Owner) (k : BitVec 3) (n : W32) (s : State) : Out :=
  done (match collDisp o k n s with
    | some d => collTake d 4 (fun _ _ s => some ({}, s)) s
    | none => s)

-- Sample-sort (R366, R367)
/-- Bytes of a record. -/
def recSize (t : Nat) : Nat := if t < 2 then 8 else 16

/-- R366: the records of all ranks in order. -/
def sortRecords (t seed : Nat) (rs : List (List Byte)) : List (List Byte) :=
  let kw := recSize t / 2
  (sortOrder false seed (rs.map (fun r => keyOf (t % 2 == 0) (r.take kw)))).map (fun p => rs.getD p [])

/-- R367: what rank `r` of `p` holds: the header and its records. -/
def sampleOut (t seed r p : Nat) (rs : List (List Byte)) : List Byte :=
  let total := rs.length
  let a := r * total / p
  let b := (r + 1) * total / p
  wordBytes 8 (BitVec.ofNat 64 total) ++ wordBytes 8 (BitVec.ofNat 64 a) ++ wordBytes 4 (BitVec.ofNat 32 (b - a)) ++
    List.replicate 44 0 ++ (((sortRecords t seed rs).drop a).take (b - a)).flatten

/-- R366, R367: the whole sample-sort, with the other members' records in rank order; its own sorts take their turn at the sort
engine (R355), and DST's whole work space is written. -/
def sampleSort (x : CollCmd) (c : Acc) (h : HostBytes) (peers : List (List Byte)) (s : State) : Option (Outc × State) :=
  let r := recSize x.dtype
  let rank := grpRank s x.group
  let p := (grpMembers s x.group).length
  if !hbmUp s || sortBusy s || peers.length + 1 ≠ p || peers.any (fun l => l.length % r != 0) then none
  else match lmaRead c x.src (x.count * r) h s with
  | (.error e, s) => some (faultOut e, logSort c e s)
  | (.ok mine, s) =>
    let all := (peers.take rank ++ mine :: peers.drop rank).flatten
    let (seed, s) := tieSeed c.o all s
    let total := all.length / r
    let out := sampleOut x.dtype seed rank p (chop r total all)
    let work := 64 + 2 * r * max x.count ((total + p - 1) / p)
    let (rest, s) := drawN (work - out.length) s
    match lmaWrite c x.dst (out ++ rest.map (BitVec.ofNat 8)) s with
    | (some e, s) => some (faultOut e, logSort c e s)
    | (none, s) => some ({}, s)

/-- SAMPLE_SORT (R358 to R360, R366 to R368). -/
def execSampleSort (o : Owner) (k : BitVec 3) (n : W32) (h : HostBytes) (peers : List (List Byte)) (s : State) : Out :=
  done (match collDisp o k n s with
    | some d => collTake d 5 (fun x c s => sampleSort x c h peers s) s
    | none => s)

-- Registers (Tables 10.5, 10.6)
/-- The value a SORT register holds. -/
def sortRead (off : Nat) (s : State) : W32 :=
  if off = 0x000 then
    BitVec.ofNat 32 (min 8 (s.sched.disp.filter (fun d => !d.undisp && d.cmd.op == 0x18 && d.st == .queued && d.got)).length) |||
      (b2w (sortBusy s) <<< 8)
  else if off = 0x004 then s.coll.reason.setWidth 32
  else if 0x010 ≤ off ∧ off ≤ 0x018 then errWord s.coll.errlog ((off - 0x010) / 4)
  else if 0x100 ≤ off ∧ off < 0x500 then
    let g := (off - 0x100) / 0x40
    let r := off % 0x40
    let ms := grpMembers s g
    if r = 0 then b2w (grpValid s g) ||| BitVec.ofNat 32 (if grpValid s g then 0x100 * ms.length + 0x1000000 * grpRank s g else 0)
    else if r = 4 then (s.grpAt g).seq.setWidth 32
    else if 0x20 ≤ r then
      (if g = 0 then (List.range 32).foldl (fun w b => setBit w b (ms.contains (8 * (r - 0x20) + b))) 0
       else kget 0 (s.grpAt g).members ((r - 0x20) / 4))
    else 0
  else 0

/-- A write of a SORT register. -/
def sortWrite (off : Nat) (v : W32) (s : State) : State :=
  if 0x140 ≤ off ∧ off < 0x500 then
    let g := (off - 0x100) / 0x40
    let r := off % 0x40
    let x := s.grpAt g
    if r = 0 then grpWrite g (bit v 0) s
    else if 0x20 ≤ r ∧ !x.valid then s.setGrp g { x with members := kset 0 x.members ((r - 0x20) / 4) v }
    else s
  else s

end Sys2Proof.Machine
end

