-- ==== Sys2Proof/Machine/Debug.lean ====
section
/-!
DEFINITION. The debug block: the wire, run control, cross-trigger, patch units, trace drain, virtual terminal and the DBG
registers (chapter 15). Wire accesses to memory and registers are in RegMap.lean.
-/
namespace Sys2Proof.Machine

-- The wire
/-- R517, R519: a request is accepted: in a session, while the line rests high. -/
def wireOk (s : State) : Bool := s.dbg.session && s.dbg.lineHigh

/-- R519: the response of an accepted request; a collision stops it, counts and logs. -/
def wireAns (coll : Bool) (st : RspSt) (d : BitVec 512) (s : State) : State :=
  let s := { s with dbg := { s.dbg with frames := satInc s.dbg.frames } }
  if coll then
    logErr .dbg 0x0B81 agDbg 0 (ans agDbg .stopped 0 { s with dbg := { s.dbg with wireColl := satInc s.dbg.wireColl } })
  else ans agDbg st d s

/-- WAKE_PULSE (R516): the wire oscillator starts. -/
def execWakePulse (s : State) : Out := done { s with dbg := { s.dbg with oscOn := true } }

/-- WAKE (R516, R518, R527): opens a session; [0] sets HOR, [1] clears it. -/
def execWake (arg : Byte) (s : State) : Out :=
  done (if s.dbg.oscOn then
    { s with dbg := { s.dbg with
      session := true, frames := satInc s.dbg.frames, hor := (s.dbg.hor || bit arg 0) && !bit arg 1 } }
  else s)

/-- The session ends and the wire oscillator stops. -/
def sessionEnd (s : State) : State := { s with dbg := { s.dbg with session := false, oscOn := false } }

/-- SLEEP (R516). -/
def execSleep (s : State) : Out :=
  done (if s.dbg.session then sessionEnd { s with dbg := { s.dbg with frames := satInc s.dbg.frames } } else s)

/-- SESSION_TIMEOUT (R516). -/
def execSessionTimeout (s : State) : Out := done (sessionEnd s)

/-- WIRE_FRAME_ERROR (R517, R513). -/
def execWireFrameError (s : State) : Out :=
  done (if s.dbg.session then
    logErr .dbg 0x0B80 agDbg 0 { s with dbg := { s.dbg with wireErr := satInc s.dbg.wireErr } } else s)

/-- RESTING_LEVEL_CHANGE (R512). -/
def execRestingLevelChange (level : Bool) (s : State) : Out := done { s with dbg := { s.dbg with lineHigh := level } }

/-- IDCODE (R518). -/
def execIdcode (coll : Bool) (s : State) : Out :=
  done (if wireOk s then wireAns coll .ok (0x5E000111 : BitVec 512) s else s)

/-- A refused wire request: STAT 1, the reason in DBG_REASON. -/
def wireRefuse (coll : Bool) (r : W16) (s : State) : State := wireAns coll .refused 0 (setReason .dbg r s)

/-- HALT (R528). -/
def execHalt (m : Byte) (coll : Bool) (s : State) : Out :=
  done (if wireOk s then wireAns coll .ok 0 (xtFire m agDbg s) else s)

/-- RESUME (R530). -/
def execResume (m : Byte) (coll : Bool) (s : State) : Out :=
  done (if wireOk s then wireAns coll .ok 0 (sendXt 0 m agDbg s) else s)

/-- R526: a halted core runs on; its execute comparators pass the first instruction. -/
def resumeCore (c : Nat) (stepping : Bool) (s : State) : State :=
  let s := s.setDcore c { s.dcoreAt c with halted := false }
  s.setCore c { s.coreAt c with stepping := stepping, skipCmp := true }

/-- STEP (R526). -/
def execStep (c : Byte) (coll : Bool) (s : State) : Out :=
  done (if !wireOk s then s
    else if 8 ≤ c.toNat then wireRefuse coll 0x0B04 s
    else if (s.dcoreAt c.toNat).halted then wireAns coll .ok 0 (resumeCore c.toNat true s)
    else wireRefuse coll 0x0B02 s)

/-- GLB_OWN.VT_OWN: the debugger side is BAR0 (true) or the wire (R545). -/
def vtBar (s : State) : Bool := bit s.glb.own 10

/-- VTRD (R518, R545). -/
def execVtrd (coll : Bool) (s : State) : Out :=
  done (if !wireOk s then s
    else if vtBar s then wireRefuse coll 0x0110 s
    else match s.dbg.vtTx with
    | none => wireRefuse coll 0x0B06 s
    | some w => wireAns coll .ok (w.setWidth 512) { s with dbg := { s.dbg with vtTx := none } })

/-- VTWR (R518, R545). -/
def execVtwr (v : W32) (coll : Bool) (s : State) : Out :=
  done (if !wireOk s then s
    else if vtBar s then wireRefuse coll 0x0110 s
    else match s.dbg.vtRx with
    | some _ => wireRefuse coll 0x0B06 s
    | none => wireAns coll .ok 0 { s with dbg := { s.dbg with vtRx := some v } })

/-- WIRE_ACCESS_TIMEOUT (R518): an access has not completed 100 µs after its request. -/
def execWireAccessTimeout (s : State) : Out :=
  done (if wireOk s then logErr .dbg 0x0B82 agDbg 0 (ans agDbg .timeout 0 s) else s)

-- Cross-trigger
/-- DBG_XT_FIRE (R528). -/
def execDbgXtFire (ag : Agent) (m : Byte) (s : State) : Out := done (xtFire m ag s)
/-- DBG_XT_RESUME (R530). -/
def execDbgXtResume (ag : Agent) (m : Byte) (s : State) : Out := done (sendXt 0 m ag s)

/-- The partition slots that a mask of channels reaches (R529). -/
def slotsOf (m : Byte) (s : State) : List Nat :=
  (List.range 4).filter (fun i => let w := kget 0 s.dbg.slot i; bit w 31 && (fld w 16 8 &&& m) != 0)
/-- The partition of slot `i`. -/
def slotPart (s : State) (i : Nat) : PartId :=
  let w := kget 0 s.dbg.slot i
  { owner := fld w 0 7, pid := fld w 8 6 }

/-- The partition of slot `i` is halted (R531). -/
def slotHalted (s : State) (i : Nat) : Bool :=
  bit (kget 0 s.dbg.slot i) 31 && (match s.partAt (slotPart s i) with | some p => p.halted | none => false)

/-- R531: a partition halts, by its own channels where `by_` names them; its launch completes with METER_LATE. -/
def haltPart (by_ : Byte) (p : Part) : Part := { p with halted := true, late := true, haltBy := p.haltBy ||| by_, haltOn := 0 }
def resumePart (p : Part) : Part :=
  { p with halted := false, haltBy := 0, lqs := p.lqs.map (fun e => (e.1, { e.2 with lastTick := none })) }

/-- R529: a fire is released at every member. -/
def fireRelease (m : Byte) (s : State) : State :=
  let s := (List.range 8).foldl (fun s c =>
    if (fld (s.dcoreAt c).ctl 8 8 &&& m) ≠ 0 ∧ coreRuns s c then debugEvent c 1 0 s else s) s
  let s := (slotsOf m s).foldl (fun s i =>
    match s.partAt (slotPart s i) with
    | none => s
    | some p => s.setPart (haltPart 0 p)) s
  { s with part := s.part.map (fun e => (e.1, if e.2.haltOn &&& m ≠ 0 then haltPart e.2.haltOn e.2 else e.2)) }

/-- R530: a resume is released at every halted member. -/
def resumeRelease (m : Byte) (s : State) : State :=
  let s := (List.range 8).foldl (fun s c =>
    if (fld (s.dcoreAt c).ctl 8 8 &&& m) ≠ 0 ∧ (s.dcoreAt c).halted then resumeCore c false s else s) s
  let mine := (slotsOf m s).map (slotPart s)
  { s with part := s.part.map (fun e =>
      (e.1, if e.2.halted ∧ (e.2.haltBy &&& m ≠ 0 ∨ e.2.id ∈ mine) then resumePart e.2 else e.2)) }

def isXt (x : XItem) : Bool := match x.pay with | .xt _ _ _ => true | _ => false

/-- XT_RELEASE (R529, R530): the resumes of an item come first, so that a halt wins. -/
def execXtRelease (s : State) : Out :=
  match inboxTake isXt (fun x => x.rel.toNat) s with
  | some (x, s) =>
    match x.pay with
    | .xt f r _ => done (fireRelease f (if r = 0 then s else resumeRelease r s))
    | _ => done s
  | none => done s

/-- DBG_CORE_HALT (R521, R524). -/
def coreHaltCmd (c : Nat) (s : State) : State := if coreRuns s c then debugEvent c 1 0 s else s
def execDbgCoreHalt (c : BitVec 3) (s : State) : Out := done (coreHaltCmd c.toNat s)

/-- R526: RESUME and STEP of a core that is not halted are refused. -/
def coreResumeCmd (c : Nat) (stepping : Bool) (s : State) : State :=
  checked .dbg [(!(s.dcoreAt c).halted, 0x0B02)] (resumeCore c stepping) s
/-- DBG_CORE_RESUME (R526). -/
def execDbgCoreResume (c : BitVec 3) (s : State) : Out := done (coreResumeCmd c.toNat false s)
/-- DBG_CORE_STEP (R526). -/
def execDbgCoreStep (c : BitVec 3) (s : State) : Out := done (coreResumeCmd c.toNat true s)

/-- R525: the register of a halted core that SEL selects; none where there is none. -/
def selRead (c : Nat) (s : State) : Option W32 :=
  let d := s.dcoreAt c
  if !d.halted || s.sep.down then none
  else if d.sel.toNat < 32 then some ((s.coreAt c).reg d.sel.toNat)
  else if d.sel = 0x20 then some (s.coreAt c).pc
  else if 0x1000 ≤ d.sel.toNat then csrRead s c (d.sel.toNat - 0x1000)
  else none

/-- R525: a write of DBG_Cc_DATA. -/
def selWrite (c : Nat) (v : W32) (s : State) : State :=
  let sel := (s.dcoreAt c).sel.toNat
  let k := s.coreAt c
  checked .dbg [((selRead c s).isNone, 0x0B01)] (fun s =>
    s.setCore c (if sel < 32 then k.setReg sel v
      else if sel = 0x20 then { k with pc := v &&& 0xFFFFFFFE }
      else csrWrite k (sel - 0x1000) v)) s

/-- DBG_CORE_DATA (R525). -/
def execDbgCoreData (ag : Agent) (c : BitVec 3) (wr : Bool) (v : W32) (s : State) : Out :=
  if wr then done (selWrite c.toNat v s)
  else match selRead c.toNat s with
  | some w => done (ans ag .ok (w.setWidth 512) s)
  | none => done (ans ag .ok 0 (setReason .dbg 0x0B01 s))

/-- R540: DBG_QW_TGT. -/
def qwTgt (v : W32) (s : State) : State :=
  checked .dbg [(s.dbg.watch.any (fun e => bit e.2.ctl 0), 0x0B05)]
    (fun s => { s with dbg := { s.dbg with qwTgt := v &&& 0x80003F7F } }) s
/-- DBG_QW_TGT (R540). -/
def execDbgQwTgt (v : W32) (s : State) : Out := done (qwTgt v s)

-- Trace (R541)
/-- A drained record enters the ring, unless it is filtered or the ring has stopped. -/
def traceStore (r : TraceRec) (d : Dbg) : Dbg :=
  if bit d.trCtl 2 ∧ r.owner ≠ fld d.trCtl 8 7 then d
  else if bit d.trCtl 1 ∧ 4096 ≤ d.trCount then { d with trDropped := satInc d.trDropped }
  else { d with
    trRam := kput d.trRam d.trWr.toNat r, trWr := d.trWr + 1
    trWrapped := d.trWrapped || 4096 ≤ d.trCount, trCount := min 4096 (d.trCount + 1) }

/-- TRACE_DRAIN (R541): one record a tick, serving the physical Quills round-robin. -/
def execTraceDrain (s : State) : Out :=
  let order := (List.range 256).map (fun i => (s.dbg.trRr.toNat + 1 + i) % 256)
  done (if s.dbg.trDone then s else match order.find? (fun q => !(s.pqAt q).fifo.isEmpty) with
    | none => s
    | some q =>
      match (s.pqAt q).fifo with
      | [] => s
      | r :: rs =>
        let s := s.modPq q (fun p => { p with fifo := rs })
        { s with dbg := { traceStore r s.dbg with trRr := BitVec.ofNat 8 q, trDone := true } })

-- Patch units
/-- R543: the 64-byte line of a patched word leaves every cache. -/
def invalLine (n : Nat) (s : State) : State :=
  (List.range 8).foldl (fun s c =>
    let k := s.coreAt c
    let k := (k.dropD n).dropI n
    setFilt n c none (s.setCore c k)) s

/-- R543: a change of a patch unit's EN or ADDR; an ADDR beyond the boot flash is refused. -/
def patchWrite (n : Nat) (v : W32) (s : State) : State :=
  let old := kget 0 s.dbg.patch n
  let new := v &&& 0x803FFFE0
  let ln := fun (w : W32) => bflLine0 + (fld w 5 17).toNat / 2
  checked .dbg [(fld v 22 9 ≠ 0, 0x0B03)] (fun s =>
    if new = old then s
    else invalLine (ln new) (invalLine (ln old) { s with dbg := { s.dbg with patch := kset 0 s.dbg.patch n new } })) s
/-- PATCH_UNIT_WRITE (R543). -/
def execPatchUnitWrite (n : BitVec 4) (v : W32) (s : State) : Out := done (patchWrite n.toNat v s)

/-- R543: a write of word `k` of patch RAM slot `n`. -/
def patchRamWr (n k : Nat) (v : W32) (s : State) : State :=
  checked .dbg [(bit (kget 0 s.dbg.patch n) 31, 0x0B03)]
    (fun s => { s with dbg := { s.dbg with
      patchRam := kset 0 s.dbg.patchRam (8 * n + k) v, patchBad := kset false s.dbg.patchBad n false } }) s
/-- PATCH_RAM_WRITE (R543). -/
def execPatchRamWrite (n : BitVec 4) (k : BitVec 3) (v : W32) (s : State) : Out := done (patchRamWr n.toNat k.toNat v s)

-- Virtual terminal (R545)
def isCore (ag : Agent) : Bool := 0x100 ≤ ag.toNat && ag.toNat < 0x108
/-- The agent is the debugger side's owner. -/
def vtSide (ag : Agent) (s : State) : Bool := if vtBar s then ag == agHost else ag == agDbg

/-- A write of DBG_VT_TX: a core's, into an empty register. -/
def vtTxWrite (ag : Agent) (v : W32) (s : State) : State :=
  if isCore ag ∧ s.dbg.vtTx = none then { s with dbg := { s.dbg with vtTx := some v } } else s
/-- A read of DBG_VT_TX: the debugger side takes the word. -/
def vtTxRead (ag : Agent) (s : State) : W32 × State :=
  if isCore ag then (s.dbg.vtTx.getD 0, s)
  else if vtSide ag s then (s.dbg.vtTx.getD 0, { s with dbg := { s.dbg with vtTx := none } })
  else (0, setReason .dbg 0x0110 s)
/-- A write of DBG_VT_RX: the debugger side's, into an empty register. -/
def vtRxWrite (ag : Agent) (v : W32) (s : State) : State :=
  if isCore ag then s
  else if vtSide ag s then (if s.dbg.vtRx = none then { s with dbg := { s.dbg with vtRx := some v } } else s)
  else setReason .dbg 0x0110 s
/-- A read of DBG_VT_RX: a core takes the word; 0 when it is empty. -/
def vtRxRead (ag : Agent) (s : State) : W32 × State :=
  if isCore ag then (s.dbg.vtRx.getD 0, { s with dbg := { s.dbg with vtRx := none } })
  else (s.dbg.vtRx.getD 0, s)

/-- DBG_VT_TX (R545). -/
def execDbgVtTx (ag : Agent) (wr : Bool) (v : W32) (s : State) : Out :=
  if wr then done (vtTxWrite ag v s)
  else let r := vtTxRead ag s; done (ans ag .ok (r.1.setWidth 512) r.2)
/-- DBG_VT_RX (R545). -/
def execDbgVtRx (ag : Agent) (wr : Bool) (v : W32) (s : State) : Out :=
  if wr then done (vtRxWrite ag v s)
  else let r := vtRxRead ag s; done (ans ag .ok (r.1.setWidth 512) r.2)

-- Registers (Tables 15.6 to 15.9)
/-- One bit per core. -/
def coreBits (s : State) (f : DbgCore → Bool) : W32 :=
  (List.range 8).foldl (fun w c => if f (s.dcoreAt c) then setBit w c true else w) 0

/-- The value of a register of core `c` (Table 15.7). -/
def dcoreRead (c off : Nat) (s : State) : W32 :=
  let d := s.dcoreAt c
  if off = 0x00 then d.ctl.setWidth 32
  else if off = 0x04 then b2w d.halted ||| (b2w d.inMon <<< 1) ||| (d.cause.setWidth 32 <<< 2) ||| (d.hit.setWidth 32 <<< 8)
  else if off = 0x08 then d.sel.setWidth 32
  else if off = 0x0C then (selRead c s).getD 0
  else if 0x40 ≤ off ∧ off < 0xC0 then
    let x := kget {} d.cmp ((off - 0x40) / 0x20)
    let o := (off - 0x40) % 0x20
    if o = 0 then x.ctl.setWidth 32 else if o = 4 then x.addr else if o = 8 then x.amask else if o = 0xC then x.value
    else if o = 0x10 then x.vmask else if o = 0x14 then x.count.setWidth 32 else 0
  else 0

/-- The value of a watch unit's register (Table 15.8). -/
def watchRead (i o : Nat) (s : State) : W32 :=
  let u := kget {} s.dbg.watch i
  if o = 0 then u.ctl.setWidth 32 else if o = 4 then u.base.setWidth 32 else if o = 8 then u.vlo.setWidth 32
  else if o = 0xC then u.vhi.setWidth 32 else if o = 0x10 then u.val.setWidth 32 else if o = 0x14 then u.count.setWidth 32 else 0

/-- A word of a trace record (Table 15.4). -/
def traceWord (r : Option TraceRec) (k : Nat) : W32 :=
  match r with
  | none => 0
  | some r =>
    if k = 0 then r.v
    else if k = 1 then r.pc.setWidth 16 ++ r.imm
    else if k = 2 then fld r.t 0 16 ++ r.owner.setWidth 8 ++ r.l
    else fld r.t 16 32

/-- The value a DBG register holds; the virtual terminal depends on the reader. -/
def dbgRead (ag : Agent) (off : Nat) (s : State) : W32 :=
  let d := s.dbg
  if off = 0x000 then b2w d.hor ||| (b2w d.qbrkEn <<< 1) ||| (d.qbrkCh.setWidth 32 <<< 4) ||| (d.monLevel.setWidth 32 <<< 12)
  else if off = 0x004 then
    coreBits s (·.halted) ||| (coreBits s (·.inMon) <<< 8) ||| ((List.range 4).foldl (fun w i => setBit w (16 + i) (slotHalted s i)) 0) ||| (b2w d.session <<< 24) |||
    (b2w d.lineHigh <<< 25) ||| (b2w d.qbrkHit <<< 26) ||| (b2w d.qwHit <<< 27)
  else if off = 0x008 then d.reason.setWidth 32
  else if 0x010 ≤ off ∧ off ≤ 0x018 then errWord d.errlog ((off - 0x010) / 4)
  else if off = 0x024 then d.lastCh.setWidth 32 ||| (d.lastAg.setWidth 32 <<< 16)
  else if off = 0x028 ∨ off = 0x02C then half (off = 0x02C) d.xtTick
  else if off = 0x030 then d.monVec &&& 0xFFFFFFFC
  else if off = 0x034 then d.accOwner.setWidth 32
  else if off = 0x040 then d.frames
  else if off = 0x044 then d.wireColl ++ d.wireErr
  else if 0x080 ≤ off ∧ off < 0x0A0 then
    let i := (off - 0x080) / 8
    if off % 8 = 0 then kget 0 d.slot i else b2w (slotHalted s i)
  else if 0x100 ≤ off ∧ off < 0x900 then dcoreRead ((off - 0x100) / 0x100) (off % 0x100) s
  else if off = 0x900 then d.qwTgt
  else if off = 0x904 then d.qwLog
  else if off = 0x908 then d.qwVar.setWidth 32
  else if off = 0x90C ∨ off = 0x910 then half (off = 0x910) d.qwTick
  else if off = 0x914 then d.qwAgent.setWidth 32
  else if off = 0x920 then d.qbrkLq.setWidth 32 ||| (d.qbrkCode.setWidth 32 <<< 16)
  else if off = 0x924 then d.qbrkPc.setWidth 32
  else if 0x1000 ≤ off ∧ off < 0x5000 then watchRead ((off - 0x1000) / 0x20) (off % 0x20) s
  else if 0x5000 ≤ off ∧ off < 0x5080 ∧ off % 8 = 0 then kget 0 d.patch ((off - 0x5000) / 8)
  else if 0x5100 ≤ off ∧ off < 0x5300 then kget 0 d.patchRam ((off - 0x5100) / 4)
  else if off = 0x5400 then (vtTxRead ag s).1
  else if off = 0x5404 then (vtRxRead ag s).1
  else if off = 0x5408 then b2w d.vtTx.isSome ||| (b2w d.vtRx.isSome <<< 1) ||| (d.vtIrq.setWidth 32 <<< 8)
  else if off = 0x5500 then d.trCtl.setWidth 32
  else if off = 0x5504 then d.trWr.setWidth 32 ||| (b2w d.trWrapped <<< 16)
  else if off = 0x5508 then d.trDropped
  else if 0x10000 ≤ off ∧ off < 0x20000 then traceWord (kfind d.trRam ((off - 0x10000) / 16)) (off % 16 / 4)
  else 0

/-- What a read of a DBG register changes. -/
def dbgClear (ag : Agent) (off : Nat) (s : State) : State :=
  if off = 0x040 then { s with dbg := { s.dbg with frames := 0 } }
  else if off = 0x044 then { s with dbg := { s.dbg with wireErr := 0, wireColl := 0 } }
  else if off = 0x5400 then (vtTxRead ag s).2
  else if off = 0x5404 then (vtRxRead ag s).2
  else if off = 0x5508 then { s with dbg := { s.dbg with trDropped := 0 } }
  else if 0x1000 ≤ off ∧ off < 0x5000 ∧ off % 0x20 = 0x14 then
    { s with dbg := { s.dbg with watch := kmod {} s.dbg.watch ((off - 0x1000) / 0x20) (fun u => { u with count := 0 }) } }
  else if 0x100 ≤ off ∧ off < 0x900 then
    let c := (off - 0x100) / 0x100
    let o := off % 0x100
    if o = 0x0C then (if (selRead c s).isNone then setReason .dbg 0x0B01 s else s)
    else if 0x40 ≤ o ∧ o < 0xC0 ∧ (o - 0x40) % 0x20 = 0x14 then
      s.setDcore c { s.dcoreAt c with cmp := kmod {} (s.dcoreAt c).cmp ((o - 0x40) / 0x20) (fun x => { x with count := 0 }) }
    else s
  else s

/-- R17: a write that sets EN of a unit whose ACTION (bits [4:3]) no table defines, or with another undefined field (`bad`): it
is refused with 0x0B04. A unit that is already enabled is not checked (log entry 161). -/
def setsUndef (was bad : Bool) (v : W32) : Bool := !was && bit v 0 && (bad || fld v 3 2 == 3)
/-- The control word such a write leaves: EN 0, every other field as written. -/
def unitCtl (was bad : Bool) (v : W32) : W32 := if setsUndef was bad v then setBit v 0 false else v
/-- The state such a write leaves: the reason latched. -/
def unitReason (was bad : Bool) (v : W32) (s : State) : State := if setsUndef was bad v then setReason .dbg 0x0B04 s else s

/-- A write of a register of core `c`. -/
def dcoreWrite (c off : Nat) (v : W32) (s : State) : State :=
  let d := s.dcoreAt c
  if off = 0x00 then s.setDcore c { d with ctl := fld (v &&& 0x00FFFF07) 0 24 }
  else if off = 0x04 then s.setDcore c { d with hit := d.hit &&& ~~~(fld v 8 4) }
  else if off = 0x08 then s.setDcore c { d with sel := fld v 0 13 }
  else if off = 0x0C then selWrite c v s
  else if off = 0x10 then
    let s := if bit v 0 then coreHaltCmd c s else s
    let s := if bit v 1 then coreResumeCmd c false s else s
    if bit v 2 then coreResumeCmd c true s else s
  else if 0x40 ≤ off ∧ off < 0xC0 then
    let o := (off - 0x40) % 0x20
    let was := bit (kget {} d.cmp ((off - 0x40) / 0x20)).ctl 0
    let s := if o = 0 then unitReason was false v s else s
    let f := fun (x : Cmpr) =>
      if o = 0 then { x with ctl := fld (unitCtl was false v) 0 7 } else if o = 4 then { x with addr := v } else if o = 8 then { x with amask := v }
      else if o = 0xC then { x with value := v } else if o = 0x10 then { x with vmask := v } else x
    s.setDcore c { d with cmp := kmod {} d.cmp ((off - 0x40) / 0x20) f }
  else s

/-- A write of a DBG register. -/
def dbgWrite (ag : Agent) (off : Nat) (v : W32) (s : State) : State :=
  let d := s.dbg
  if off = 0x000 then
    { s with dbg := { d with hor := bit v 0, qbrkEn := bit v 1, qbrkCh := fld v 4 3, monLevel := fld v 12 3 } }
  else if off = 0x004 then { s with dbg := { d with qbrkHit := d.qbrkHit && !bit v 26, qwHit := d.qwHit && !bit v 27 } }
  else if off = 0x020 then
    let s := xtFire (fld v 0 8) ag s
    sendXt 0 (fld v 8 8) ag s
  else if off = 0x030 then { s with dbg := { d with monVec := v &&& 0xFFFFFFFC } }
  else if off = 0x034 then { s with dbg := { d with accOwner := fld v 0 7 } }
  else if 0x080 ≤ off ∧ off < 0x0A0 ∧ off % 8 = 0 then
    { s with dbg := { d with slot := kset 0 d.slot ((off - 0x080) / 8) (v &&& 0x80FF3F7F) } }
  else if 0x100 ≤ off ∧ off < 0x900 then dcoreWrite ((off - 0x100) / 0x100) (off % 0x100) v s
  else if off = 0x900 then qwTgt v s
  else if 0x1000 ≤ off ∧ off < 0x5000 then
    let o := off % 0x20
    let was := bit (kget {} d.watch ((off - 0x1000) / 0x20)).ctl 0
    let bad := fld (kget {} d.watch ((off - 0x1000) / 0x20)).base 0 5 ≠ 0
    let s := if o = 0 then unitReason was bad v s else s
    let d := s.dbg
    let f := fun (u : QWatch) =>
      if o = 0 then { u with ctl := fld (unitCtl was bad v &&& 0x71F) 0 11 } else if o = 4 then { u with base := fld v 0 16 }
      else if o = 8 then { u with vlo := fld v 0 19 } else if o = 0xC then { u with vhi := fld v 0 19 }
      else if o = 0x10 then { u with val := fld (v &&& 0xF0F) 0 12 } else u
    { s with dbg := { d with watch := kmod {} d.watch ((off - 0x1000) / 0x20) f } }
  else if 0x5000 ≤ off ∧ off < 0x5080 ∧ off % 8 = 0 then patchWrite ((off - 0x5000) / 8) v s
  else if 0x5100 ≤ off ∧ off < 0x5300 then patchRamWr ((off - 0x5100) / 32) (off % 32 / 4) v s
  else if off = 0x5400 then vtTxWrite ag v s
  else if off = 0x5404 then vtRxWrite ag v s
  else if off = 0x5408 then { s with dbg := { d with vtIrq := fld v 8 2 } }
  else if off = 0x5500 then 
    { s with dbg := { d with trCtl := fld (v &&& 0x7F07) 0 15, trCount := if bit v 0 && !bit d.trCtl 0 then 0 else d.trCount } }
  else if off = 0x5504 then (if bit v 16 then { s with dbg := { d with trWrapped := false } } else s)
  else s

end Sys2Proof.Machine
end

