-- ==== Sys2Proof/Machine/HostIf.lean ====
section
/-!
DEFINITION. The PCIe endpoint: MSI-X, causes, software interrupts, access errors, and the HOST registers (chapter 17).
-/
namespace Sys2Proof.Machine

/-- R585: what the configuration header reads at dwords 0 and 2: Device ID and Vendor ID; Class Code and Revision ID, which is
GLB_IDCODE[7:0]. -/
def State.cfgHeader (s : State) : W32 × W32 := (s.host.device ++ s.host.vendor, s.host.cls ++ fld idcodeVal 0 8)

/-- R598: the bit of cause `k` sets; an enabled cause sends one message. -/
def causeSet (k : Nat) (s : State) : State :=
  let s := { s with host := { s.host with irqStat := setBit s.host.irqStat k true } }
  if bit s.host.irqEn k then sendMsi (BitVec.ofNat 8 (65 + k)) s else s

/-- MSIX_CAUSE_ACTIVE (R598): the cause of a vector from 65 to 79 becomes active. -/
def execMsixCauseActive (v : Byte) (s : State) : Out :=
  let k := v.toNat - 65
  done (if 65 ≤ v.toNat ∧ v.toNat ≤ 79 ∧ causeActive s k ∧ !bit s.host.irqStat k then causeSet k s else s)

/-- R598: a W1C of HOST_IRQ_STATUS; a cause that is still active sets again at once. -/
def irqStatusClear (m : BitVec 15) (s : State) : State :=
  let was := s.host.irqStat
  let s := { s with host := { s.host with irqStat := was &&& ~~~m } }
  (List.range 15).foldl (fun s k => if bit m k && bit was k && causeActive s k then causeSet k s else s) s

/-- HOST_IRQ_STATUS_CLEAR (R598). -/
def execHostIrqStatusClear (m : BitVec 15) (s : State) : Out := done (irqStatusClear m s)

/-- R599: one message on vector 80 + n for each bit n written as 1. -/
def swint (m : Byte) (s : State) : State :=
  (List.range 8).foldl (fun s n => if bit m n then sendMsi (BitVec.ofNat 8 (80 + n)) s else s) s

/-- HOST_SWINT (R599). -/
def execHostSwint (m : Byte) (s : State) : Out := done (swint m s)

/-- R600: on unmask a vector whose PBA bit is set sends one message. -/
def pbaSend (v : Nat) (s : State) : State :=
  if kget false s.host.pba v && !s.host.masked v then
    sendMsi (BitVec.ofNat 8 v) { s with host := { s.host with pba := kset false s.host.pba v false } }
  else s

/-- A write of word `i` of the MSI-X table. -/
def msixWrite (i : Nat) (w : W32) (s : State) : State :=
  pbaSend (i / 4) { s with host := { s.host with msix := kset (if i % 4 = 3 then 1 else 0) s.host.msix i w } }

/-- MSIX_UNMASK (R600): the host clears the mask bit of vector `v`. -/
def execMsixUnmask (v : Byte) (s : State) : Out :=
  done (msixWrite (4 * v.toNat + 3) (setBit (s.host.msixWord (4 * v.toNat + 3)) 0 false) s)

/-- BAR_ACCESS_ERROR (R588): a BAR0 or BAR2 access of a size, alignment or byte-enable pattern not allowed; in D3hot it gets
Unsupported Request (R586). -/
def execBarAccessError (bar : BitVec 3) (off : BitVec 37) (_wr : Bool) (s : State) : Out :=
  done (if s.host.d3hot then (if bar = 0 ∨ bar = 2 then ans agHost .err 0 s else s)
    else if bar = 0 then
      errRsp agHost (logErr .glb 0x0182 agHost (0x030000000000 + off.setWidth 48) s)
    else if bar = 2 then errRsp agHost (logErr .glb 0x0182 agHost (off.setWidth 48) s)
    else s)

/-- PCIE_LINK_UP (R569, R584). -/
def execPcieLinkUp (gen5 : Bool) (width : BitVec 5) (s : State) : Out :=
  done (if (width = 1 ∨ width = 4 ∨ width = 8 ∨ width = 16) ∧ s.domRun 40 ∧ !s.glb.perst then
    { s with host := { s.host with speed := if gen5 then 5 else 4, width := width } } else s)

/-- PCIE_D3HOT (R586). -/
def execPcieD3hot (v : Bool) (s : State) : Out := done { s with host := { s.host with d3hot := v } }

/-- The value a HOST register holds. -/
def hostRegRead (off : Nat) (s : State) : W32 :=
  let h := s.host
  if off < 0x1000 then h.msixWord (off / 4)
  else if off < 0x1020 then
    (List.range 32).foldl (fun w b => if kget false h.pba (8 * (off - 0x1000) + b) then setBit w b true else w) 0
  else if off = 0x2000 then h.speed.setWidth 32 ||| (h.width.setWidth 32 <<< 4)
  else if off = 0x2004 then h.bar4Base.setWidth 32
  else if off = 0x2008 then h.irqEn.setWidth 32
  else if off = 0x200C then h.irqStat.setWidth 32
  else if off = 0x2014 then h.errcnt.setWidth 32
  else 0

/-- What a read of a HOST register clears. -/
def hostRegClear (off : Nat) (s : State) : State :=
  if off = 0x2014 then { s with host := { s.host with errcnt := 0 } } else s

/-- A write of a HOST register. -/
def hostRegWrite (off : Nat) (v : W32) (s : State) : State :=
  if off < 0x1000 then msixWrite (off / 4) v s
  else if off = 0x2004 then { s with host := { s.host with bar4Base := fld v 0 18 } }
  else if off = 0x2008 then { s with host := { s.host with irqEn := fld v 0 15 } }
  else if off = 0x200C then irqStatusClear (fld v 0 15) s
  else if off = 0x2010 then swint (fld v 0 8) s
  else s

end Sys2Proof.Machine
end

