-- ==== Sys2Proof/Machine/Remote.lean ====
section
/-!
DEFINITION. What arrives over the Kysto links: LINK frames and lost links, packets at a hop, remote requests, and the
boundary exchange (R317 to R325, R328 to R334, R342 to R345).
-/
namespace Sys2Proof.Machine

-- The boundary exchange
/-- R342: one out-entry, and whether its other bits are 0. -/
def outEntry (nlq : Nat) (w : W32) : (Byte × BitVec 11 × Byte) × Bool :=
  ((fld w 0 8, fld w 8 11, fld w 24 8), fld w 19 5 == 0 && decide ((fld w 0 8).toNat < nlq))

/-- R342: one in-entry, and whether its other bits are 0. -/
def inEntry (nlq : Nat) (w : W32) : (Byte × Byte × BitVec 11) × Bool :=
  ((fld w 0 8, fld w 8 8, fld w 16 11), fld w 27 5 == 0 && decide ((fld w 8 8).toNat < nlq))

/-- R345: chip `c` is this chip or has no route. -/
def chipBad (s : State) (c : Nat) : Bool := c == chipNo s || chipCount s ≤ c || (nextLink s c).isNone

/-- R57, R66, R216, R345: the reasons that the fields of a boundary exchange give (log entry 99). -/
def bxReason (o : Owner) (c : Cmd) (s : State) : Option W16 :=
  let x := collOf c
  firstReason
    [(!payloadOk c collFields, 0x0311), (x.freex && !(s.ownAt o.toNat).fixedNat, 0x0205),
     (x.group ≠ 0 || x.dtype ≠ 0 || x.redop ≠ 0 || x.root ≠ 0 || x.dst % 64 ≠ 0 || 2048 < x.count, 0x0706),
     (match s.partAt { owner := o, pid := BitVec.ofNat 6 x.pid } with | some p => !p.resident | none => true, 0x0707),
     (ownTiming s o.toNat == .exact, 0x0201)]

/-- Table 09.10: the descriptor; none where it is invalid. -/
def bxDesc (o : Owner) (freex : Bool) (d : List Byte) (s : State) : Option (BxSt × Nat × Nat) :=
  let w : BitVec 512 := leWord 512 d
  let arrive : BitVec 17 := fld w 0 17
  let release : BitVec 17 := fld w 32 17
  let rounds : W32 := fld w 64 32
  let nin := (fld w 96 12).toNat
  let period : BitVec 20 := fld w 128 20
  let zero := fld w 17 15 == 0 && fld w 49 15 == 0 && fld w 108 20 == 0 && fld w 148 44 == 0 && fld w 232 280 == 0
  let ok :=
    if freex then arrive == 0 && release == 0 && rounds == 0 && decide (256 ≤ period.toNat) && decide (period.toNat % 32 = 0)
    else rounds != 0 && period == 0 && (s.syncAt arrive.toNat).owner == o && (s.syncAt release.toNat).owner == o
  if zero && ok && nin ≤ 2048 then
    some ({ arrive := arrive, release := release, rounds := rounds, period := period }, nin, (fld w 192 40).toNat)
  else none

/-- The words at model address `a`. -/
def lmaWords (c : Acc) (a n : Nat) (h : HostBytes) (s : State) : Except MemErr (List W32) × State :=
  if n = 0 then (.ok [], s) else
  match lmaRead c a (4 * n) h s with
  | (.error e, s) => (.error e, s)
  | (.ok bs, s) => (.ok ((chop 4 n bs).map (leWord 32)), s)

/-- A boundary exchange fails: its code is logged in the KL block. -/
def bxFail (d : Disp) (code : W16) (s : State) : State :=
  finish d.id { status := .fault, code := code } (logErr .kl code agColl 0 s)

/-- Change the boundary exchange of a command. -/
def modBx (id : CmdId) (f : BxSt → BxSt) (s : State) : State := modDisp id (fun d => { d with bx := d.bx.map f }) s

/-- R342: write one incoming entry, the `got`-th of its chip in the round; none: more than the in-list expects. -/
def bxWrite (d : Disp) (b : BxSt) (chip : Byte) (v : BitVec 256) (s : State) : Option State :=
  let mine := b.ins.filter (fun e => e.1 == chip)
  let k := kget 0 b.got chip.toNat
  let k := if b.period ≠ 0 ∧ mine.length ≤ k then 0 else k
  match mine[k]? with
  | none => none
  | some (_, l, off) =>
    let id : LqId := { part := { owner := d.id.owner, pid := b.pid }, l := l }
    let a := stBase + 32 * off.toNat
    let s := match (s.lqOf id).bind (·.place) with
      | some q => extWrite q.toNat a (wordBytes 32 v) agColl s
      | none => modStores id (fun t => t.write a (wordBytes 32 v)) s
    some (modBx d.id (fun b => { b with got := kset 0 b.got chip.toNat (k + 1) }) s)

/-- The command as it stands now. -/
def dispNow (id : CmdId) (s : State) : Option Disp := s.sched.disp.find? (fun d => d.id == id && !d.undisp && d.st == .running)

/-- R343, R345: one incoming entry of round `r` (modulo 2^16): written in its fired round, held before it fires. -/
def bxEntry (id : CmdId) (r : W16) (chip : Byte) (s : State) (v : BitVec 256) : State :=
  match dispNow id s with
  | none => s
  | some d =>
    match d.bx with
    | none => s
    | some b =>
      let cur : W16 := BitVec.ofNat 16 b.round
      let write := fun (_ : Unit) => match bxWrite d b chip v s with | some s => s | none => bxFail d 0x0787 s
      if b.period ≠ 0 ∨ (r = cur ∧ b.firedAt.isSome) then write ()
      else if r = cur ∨ r = cur + 1 then
        if 2048 ≤ b.held.length then bxFail d 0x0787 s
        else modBx id (fun b => { b with held := b.held ++ [(b.round + (if r = cur then 0 else 1), chip, v)] }) s
      else bxFail d 0x0787 s

/-- The boundary exchange that a COLL_DATA packet belongs to, by owner and PID (R342). -/
def bxOf (p : Pkt) (s : State) : Option CmdId :=
  (s.sched.disp.find? (fun d => !d.undisp && d.st == .running && d.id.owner == p.owner &&
    (match d.bx with | some b => b.pid == fld p.addr 0 6 | none => false))).map (·.id)

/-- A COLL_DATA packet of a boundary exchange is consumed. -/
def bxPacket (id : CmdId) (p : Pkt) (s : State) : State :=
  ((chop 32 p.len p.data).map (leWord 256)).foldl (bxEntry id (fld p.addr 6 16) (BitVec.ofNat 8 p.src)) s

/-- R342, R345: a boundary exchange starts. -/
def bxTake (d : Disp) (h : HostBytes) (s : State) : State :=
  let o := d.id.owner
  let x := collOf d.cmd
  match bxReason o d.cmd s with
  | some r => finish d.id (refusedOut r) (if r = 0x0311 ∨ r = 0x0205 ∨ r = 0x0201 then s else setReason .kl r s)
  | none =>
    if !hbmUp s then s else
    let acc := collAcc o agColl
    let fault := fun (e : MemErr) (s : State) => finish d.id (faultOut e) (logSort acc e s)
    let bad := fun (r : W16) (s : State) => finish d.id (refusedOut r) (setReason .kl r s)
    match lmaRead acc x.dst 64 h s with
    | (.error e, s) => fault e s
    | (.ok ds, s) =>
      match bxDesc o x.freex ds s with
      | none => bad 0x0706 s
      | some (b, nin, inlist) =>
        match lmaWords acc x.src x.count h s with
        | (.error e, s) => fault e s
        | (.ok ow, s) =>
          match lmaWords acc inlist nin h s with
          | (.error e, s) => fault e s
          | (.ok iw, s) =>
            let nlq := match s.partAt { owner := o, pid := BitVec.ofNat 6 x.pid } with | some p => p.nlq | none => 0
            let outs := ow.map (outEntry nlq)
            let ins := iw.map (inEntry nlq)
            if !outs.all (·.2) || !ins.all (·.2) then bad 0x0706 s
            else if outs.any (fun e => chipBad s e.1.2.2.toNat) || ins.any (fun e => chipBad s e.1.1.toNat) then bad 0x0705 s
            else
              let b := { b with pid := BitVec.ofNat 6 x.pid, outs := outs.map (·.1), ins := ins.map (·.1) }
              let s := modDisp d.id (fun d => { d with st := .running, bx := some b }) s
              let mine := fun (p : Pkt) => p.op == 4 && bxOf p s == some d.id
              let ps := s.kl.collIn.filter mine
              ps.foldl (fun s p => bxPacket d.id p s) { s with kl := { s.kl with collIn := s.kl.collIn.filter (fun p => !mine p) } }

/-- BOUNDARY_EXCHANGE (R57, R342, R345). -/
def execBoundaryExchange (o : Owner) (k : BitVec 3) (n : W32) (h : HostBytes) (s : State) : Out :=
  done (match takeDisp o k n 0x20 s with
    | some d => if d.got && (collOf d.cmd).op == 3 then bxTake d h s else s
    | none => s)

/-- R88, R89: the out-entries as read from the state stores, chip and data, up to the first word that cannot be read. -/
def bxRead (d : Disp) (b : BxSt) : List (Byte × BitVec 11 × Byte) → State → Except MemErr (List (Byte × List Byte)) × State
  | [], s => (.ok [], s)
  | e :: es, s =>
    match storeRead { part := { owner := d.id.owner, pid := b.pid }, l := e.1 } (stBase + 32 * e.2.1.toNat) 32 agColl s with
    | (.error x, s) => (.error x, s)
    | (.ok bs, s) =>
      match bxRead d b es s with
      | (.error x, s) => (.error x, s)
      | (.ok r, s) => (.ok ((e.2.2, bs) :: r), s)

/-- Each element once, in order of first appearance. -/
def distinct {α : Type} [DecidableEq α] (l : List α) : List α := (l.foldl (fun r x => if r.contains x then r else x :: r) []).reverse

/-- R342: send the out-entries: per chip, packets of up to 14 entries in out-list order. -/
def bxSend (d : Disp) (b : BxSt) (es : List (Byte × List Byte)) (s : State) : State :=
  let addr : W64 := BitVec.ofNat 64 (b.pid.toNat + 64 * (b.round % 65536))
  (distinct (es.map (·.1))).foldl (fun s c =>
    let ds := (es.filter (fun e => e.1 == c)).map (·.2)
    ((List.range ((ds.length + 13) / 14)).map (fun i => ((ds.drop (14 * i)).take 14).flatten)).foldl (fun s bs =>
      sendC2k true (mkPkt c.toNat (chipNo s) 4 (ownMetered s d.id.owner.toNat) d.id.owner 0 0 addr bs s.now) s) s) s

/-- Read and send every out-entry; an unreadable word, which the Quill's block has logged, ends the exchange (R89, R129). -/
def bxSendAll (d : Disp) (b : BxSt) (s : State) : State :=
  match bxRead d b b.outs s with
  | (.error e, s) => finish d.id (faultOut e) s
  | (.ok es, s) => bxSend d b es s

/-- R343: a round fires: out-entries leave, and the entries held for it are written. -/
def bxFire (d : Disp) (b : BxSt) (s : State) : State :=
  let now := b.held.filter (fun e => e.1 == b.round)
  let s := bxSendAll d b s
  let s := modBx d.id (fun b => { b with firedAt := some s.now, held := b.held.filter (fun e => e.1 != b.round) }) s
  now.foldl (fun s e => bxEntry d.id (BitVec.ofNat 16 b.round) e.2.1 s e.2.2) s

/-- BOUNDARY_ROUND (R343). -/
def execBoundaryRound (o : Owner) (k : BitVec 3) (n : W32) (s : State) : Out :=
  done (match runDisp o k n 0x20 s with
    | some d => match d.bx with | some b => if bxFires d b s then bxFire d b s else s | none => s
    | none => s)

/-- R343: all in-entries of the fired round have been written. -/
def bxComplete (b : BxSt) : Bool :=
  b.firedAt.isSome && decide ((b.got.map (·.2)).foldl (· + ·) 0 = b.ins.length)

/-- BOUNDARY_ROUND_DONE (R343, R345). -/
def execBoundaryRoundDone (o : Owner) (k : BitVec 3) (n : W32) (s : State) : Out :=
  done (match runDisp o k n 0x20 s with
    | some d =>
      match d.bx with
      | some b =>
        if bxComplete b then
          let s := modBx d.id (fun b => { b with round := b.round + 1, firedAt := none, got := [] }) (incrNow o b.release 1 agColl s)
          if b.round + 1 = b.rounds.toNat then finish d.id {} s else s
        else s
      | none => s
    | none => s)

/-- R69, R344: a batch of a free exchange is due: PERIOD ticks have passed since the launch tick or the batch before. -/
def batchDue (d : Disp) (b : BxSt) (s : State) : Bool :=
  match s.partAt { owner := d.id.owner, pid := b.pid } with
  | some p =>
    let dt := (s.now - p.launchAt).toNat
    b.period != 0 && p.st == .running && 0 < dt && dt % b.period.toNat == 0 && b.lastBatch != some s.now
  | none => false

/-- R344: the batch. -/
def freexBatch (d : Disp) (s : State) : State :=
  match d.bx with
  | some b => if batchDue d b s then bxSendAll d b (modBx d.id (fun b => { b with lastBatch := some s.now }) s) else s
  | none => s

/-- FREEX_BATCH (R69, R344). -/
def execFreexBatch (o : Owner) (k : BitVec 3) (n : W32) (s : State) : Out :=
  done (match runDisp o k n 0x20 s with
    | some d => freexBatch d s
    | none => s)

/-- BOUNDARY_ROUND_TIMEOUT (R345). -/
def execBoundaryRoundTimeout (o : Owner) (k : BitVec 3) (n : W32) (s : State) : Out :=
  done (match runDisp o k n 0x20 s with
    | some d =>
      match d.bx.bind (fun b => if bxComplete b then none else b.firedAt) with
      | some t => if (t + 1048576).ule s.now then bxFail d 0x0787 s else s
      | none => s
    | none => s)

-- Lost links (R325)
/-- A command has an outstanding packet that is routed over link `l`: a remote request, a member of its group, or a chip of
its boundary exchange. -/
def usesLink (l : Nat) (d : Disp) (s : State) : Bool :=
  let via := fun (c : Nat) => c != chipNo s && nextLink s c == some l
  s.kl.tag.any (fun e => e.2.cmd == d.id && via e.2.chip.toNat) ||
  (d.cmd.op == 0x20 && d.st == .running &&
    (match d.bx with
      | some b => b.outs.any (fun e => via e.2.2.toNat)
      | none => (grpMembers s (collOf d.cmd).group).any via))

/-- A command whose remote packet failed completes FAULT; a collective of chapter 10 lets its group go on (R359). -/
def remoteFault (d : Disp) (r : Outc) (s : State) : State :=
  if d.bx.isNone && d.cmd.op == 0x20 then collEnd d r s else finish d.id r s

/-- The same by the command's number. -/
def tagFault (id : CmdId) (r : Outc) (s : State) : State :=
  match dispNow id s with | some d => remoteFault d r s | none => s

/-- R325: link `l` is lost. -/
def linkLost (l : Nat) (s : State) : State :=
  let ds := s.sched.disp.filter (fun d => !d.undisp && usesLink l d s)
  let s := linkFail l (logErr .kl 0x0780 agColl (BitVec.ofNat 48 l) s)
  let s := { s with kl := { s.kl with tag := s.kl.tag.filter (fun e => !ds.any (fun d => d.id == e.2.cmd)) } }
  ds.foldl (fun s d => remoteFault d { status := .fault, code := 0x0780 } s) s

/-- LINK_FRAME (R309, R317, R323 to R325). -/
def execLinkFrame (l : BitVec 4) (f : BitVec 1088) (s : State) : Out :=
  let k := s.linkAt l.toNat
  done (if k.st = .up ∧ frGood f ∧ fld (frHdr f) 30 2 = 1 then
    match k.takeLink f s.now with
    | some k => fecSeen l.toNat (s.setLink l.toNat k)
    | none => linkLost l.toNat s
  else s)

/-- REPLAY_TIMEOUT (R324, R325). -/
def execReplayTimeout (l : BitVec 4) (s : State) : Out :=
  let k := s.linkAt l.toNat
  done (match k.replay with
    | r :: _ =>
      if k.st = .up ∧ (r.since + 2048).ule s.now then
        match k.resendFrom r.seq s.now with
        | some k => s.setLink l.toNat k
        | none => linkLost l.toNat s
      else s
    | [] => s)

/-- LANE_LOCK_LOST (R325). -/
def execLaneLockLost (l : BitVec 4) (s : State) : Out :=
  done (if (s.linkAt l.toNat).st = .up then linkLost l.toNat s else s)

-- Packets at a hop
/-- R331: every running command of a metered owner that had a packet released late. -/
def lateOwner (o : Owner) (s : State) : State :=
  if ownMetered s o.toNat then
    { s with sched := { s.sched with disp := s.sched.disp.map (fun d => if d.id.owner = o then { d with late := true } else d) } }
  else s

/-- R330: the tick on which a metered packet is released at this hop. -/
def Pkt.dueAt (p : Pkt) (now : W64) : W64 := extendStamp now p.hopStamp + 320

/-- R331: the packet arrived after its release tick: logged and counted. -/
def pktLate (l : Nat) (p : Pkt) (s : State) : State :=
  if p.metered && (p.dueAt p.stamp).ult p.stamp then
    let k := s.linkAt l
    lateOwner p.owner (logErr .kl 0x0786 agColl (fld p.addr 0 48) (s.setLink l { k with late := satInc k.late }))
  else s

/-- R330: a packet for this chip leaves the link layer for the collective engine. -/
def deliverPkt (l : Nat) (p : Pkt) (s : State) : State := sendC2k false { p with link := l } s

/-- R332: the collective engine has a packet. -/
def engineTake (p : Pkt) (s : State) : State :=
  let free := freeSpace p.link p.buf p.frames.length
  if p.op < 2 then { s with kl := { s.kl with reqIn := s.kl.reqIn ++ [p] } }
  else if p.op < 4 then { s with kl := { s.kl with rspIn := s.kl.rspIn ++ [p] } }
  else match (if p.op = 4 then bxOf p s else none) with
    | some id => bxPacket id p (free s)
    | none =>
      if p.op = 5 then free (ctlReceive (fld p.addr 0 4) (BitVec.ofNat 8 p.src) (leWord 64 p.data) s)
      else free { s with kl := { s.kl with collIn := s.kl.collIn ++ [p] } }

/-- PACKET_RELEASE (R328 to R331): the oldest packet of class `b` received on link `l`. -/
def execPacketRelease (l : BitVec 4) (b : BitVec 3) (s : State) : Out :=
  let n := l.toNat
  done (match (s.linkAt n).takeRx b.toNat with
    | none => s
    | some (p, k) =>
      if p.metered && s.now.ult (p.dueAt s.now) then s
      else
        let s := pktLate n p (s.setLink n k)
        let f := { p with link := n, held := some b }
        if 6 < p.op ∨ chipCount s ≤ p.dst then dropPkt f s
        else if p.dst = chipNo s then deliverPkt n p s
        else routePkt (some n) f s)

-- Remote memory (R318, R319, R332 to R334)
/-- R319: response slots in use: responses of this chip whose last frame has not left on a link. -/
def rspSlots (s : State) : Nat :=
  let mine := fun (p : Pkt) => (p.op == 2 || p.op == 3) && p.src == chipNo s
  let crossing := fun (x : XItem) => match x.pay with | .pkt true p => mine p | _ => false
  ((s.kl.link.map (fun e => ((e.2.txq ++ e.2.cur.map (·.1)).filter mine).length))).foldl (· + ·) 0 +
    ((s.latch ++ s.xing ++ s.inbox).filter crossing).length

/-- R332, R333: perform a request and send its response. -/
def remotePerform (p : Pkt) (s : State) : State :=
  let a := (fld p.addr 0 48).toNat
  let reply := fun (op : Nat) (err : Bool) (bs : List Byte) (s : State) =>
    sendC2k true (mkPkt p.src (chipNo s) op p.metered p.owner p.tag (if err then 1 else 0) p.addr bs s.now) s
  if p.op = 0 then
    match hbmRead p.owner agColl a (32 * p.len) s with
    | (.ok bs, s) => reply 2 false bs s
    | (.error _, s) => reply 2 true [] s
  else
    match hbmWrite (inkAt a) p.owner agColl a p.data s with
    | (none, s) => reply 3 false [] s
    | (some _, s) => reply 3 true [] s

/-- REMOTE_REQUEST (R319, R332, R333). -/
def execRemoteRequest (s : State) : Out :=
  done (match s.kl.reqIn with
    | p :: ps =>
      if !hbmUp s || 256 ≤ rspSlots s then s
      else remotePerform p (freeSpace p.link p.buf p.frames.length { s with kl := { s.kl with reqIn := ps } })
    | [] => s)

/-- REMOTE_RESPONSE (R318, R333, R334): a response for a tag no longer held is discarded. -/
def execRemoteResponse (s : State) : Out :=
  done (match s.kl.rspIn with
    | p :: ps =>
      let s := freeSpace p.link p.buf p.frames.length { s with kl := { s.kl with rspIn := ps } }
      match kfind s.kl.tag p.tag.toNat with
      | none => s
      | some t =>
        let s := { s with kl := { s.kl with tag := kdel s.kl.tag p.tag.toNat } }
        if p.status = 0 then s
        else tagFault t.cmd { status := .fault, code := 0x0782, errAddr := t.addr } (logErr .kl 0x0782 agColl t.addr s)
    | [] => s)

/-- REMOTE_REQUEST_TIMEOUT (R334). -/
def execRemoteRequestTimeout (tag : BitVec 10) (s : State) : Out :=
  done (match kfind s.kl.tag tag.toNat with
    | some t =>
      if (t.sentAt + 1048576).ule s.now then
        tagFault t.cmd { status := .fault, code := 0x0787, errAddr := t.addr }
          (logErr .kl 0x0787 agColl t.addr { s with kl := { s.kl with tag := kdel s.kl.tag tag.toNat } })
      else s
    | none => s)

end Sys2Proof.Machine
end

