-- ==== Sys2Proof/Machine/Time.lean ====
section
/-!
DEFINITION. Time: the tick, the crossings between islands, service windows, the tick block and lock-step (chapter 02).
-/
namespace Sys2Proof.Machine

-- Crossings (Table 02.2)
/-- The agent that sent an item (Table 17.9). -/
def XItem.agent (x : XItem) : Agent :=
  match x.pay with
  | .xt _ _ ag => ag
  | .regw ag _ _ => ag
  | .cpl _ => if x.src = 5 then agSort else if x.src = 6 then agColl else if x.src = 7 then agPlant else agInk (x.src - 1)
  | .pkt _ _ => agColl
  | _ =>
    match x.cls with
    | .mesh | .q2p | .q2s | .q2i => BitVec.ofNat 9 x.src
    | .p2q => agPlant
    | .i2q | .i2h => agInk x.src
    | .c2k => agColl
    | .m2q => agMad
    | .xtr => agDbg
    | .s2q | .s2e | .sep | .hst => agSched

/-- R45: the slot of a flit's channel; other items enter their crossing at once. -/
def XItem.slot (x : XItem) : Option Nat := match x.pay with | .flit _ _ _ _ sl _ _ => some sl.toNat | _ => none

/-- The mesh hops between two physical Quills, X first (R44). -/
def meshHops (a b : Nat) : Nat :=
  (a % 16 - b % 16) + (b % 16 - a % 16) + (a / 16 - b / 16) + (b / 16 - a / 16)

/-- A flit between resident Quills arrives after its slot wait, its hops and 4 ticks (R45, R48). -/
def XItem.meshTick (x : XItem) : Option W64 :=
  match x.slot with
  | some sl =>
    if x.dst < 256 then
      some (x.stamp + BitVec.ofNat 64 ((sl + 32 - x.stamp.toNat % 32) % 32 + meshHops x.src x.dst + 4))
    else none
  | none => none

/-- The earliest and the latest tick on which an item arrives: its mesh tick, or the range of its class in Table 02.2. -/
def XItem.earliest (x : XItem) : W64 := x.meshTick.getD (x.stamp + BitVec.ofNat 64 x.cls.lo)
def XItem.latest (x : XItem) : W64 := x.meshTick.getD (x.stamp + BitVec.ofNat 64 x.cls.hi)

/-- R41, R78: the item may arrive on tick `now`: within its range, or, by a fault, after T + M. -/
def XItem.arrives (now : W64) (x : XItem) : Bool :=
  !x.arrived && x.injected && x.earliest.ule now && (now.ule x.latest || x.dueAt.ult now)

/-- Release every item that satisfies `ok` and that no earlier item of its crossing holds back. -/
def releaseWhere (ok : XItem → Bool) (s : State) : State :=
  let r := releaseSplit s.now ok [] s.xing
  { s with xing := r.2, inbox := s.inbox ++ r.1 }

/-- R78: the item has come after its release tick. -/
def meterLate (x : XItem) (s : State) : State :=
  let s := logErrC .tk 0x0280 x.agent 0 (BitVec.ofNat 4 x.cls.num) s
  { s with sched := { s.sched with disp := s.sched.disp.map (fun d =>
      if d.st = .running ∧ ownMetered s d.id.owner.toNat then { d with late := true } else d) } }

/-- Change element `i` of a list. -/
def modAt {α : Type} (f : α → α) : Nat → List α → List α
  | _, [] => []
  | 0, x :: xs => f x :: xs
  | i + 1, x :: xs => x :: modAt f i xs

/-- R39, R41, R78: item `i` of the crossings arrives; an item that comes after tick T + M is released at once. -/
def arrive (i : Nat) (s : State) : State :=
  match s.xing[i]? with
  | none => s
  | some x =>
    if !x.arrives s.now then s
    else
      let late := x.dueAt.ult s.now
      let s := { s with xing := modAt (fun y => { y with arrived := true }) i s.xing }
      let s := if late then meterLate x s else s
      releaseWhere (fun y => y.cross == x.cross && y.arrived && (!y.metered || y.dueAt.ult s.now)) s

/-- R39: the order of placement among items that fell due on one tick: items of instructions, held increments first, then
exception reports, then END reports. -/
def XItem.rank (x : XItem) : Nat :=
  match x.pay with | .exn _ _ _ => 2 | .endRep _ => 3 | .incr _ _ _ _ _ => 0 | _ => 1

/-- `x` goes before `y` out of a send latch. -/
def XItem.before (x y : XItem) : Bool :=
  x.stamp.ult y.stamp || (x.stamp == y.stamp && decide (x.rank < y.rank))

/-- R39: item `i` of the send latches is the next of its crossing. -/
def nextInLatch (i : Nat) (x : XItem) (s : State) : Bool :=
  (s.latch.take i).all (fun y => y.cross != x.cross || x.before y) && (s.latch.drop (i + 1)).all (fun y => y.cross != x.cross || !y.before x)

/-- R39: the tick of placement replaces the stamp, and every later term is counted from it: a CLAMP's reply, and the 72 ticks
of R158 after the latest flit. -/
def placeItem (x : XItem) (s : State) : State :=
  let s := { s with placed := kput s.placed x.cross s.now }
  let put := fun (p : Payload) (s : State) => { s with xing := s.xing ++ [{ x with stamp := s.now, pay := p }] }
  match x.pay with
  | .clampReq id m t =>
    put (.clampReq id m s.now)
      (s.modLq id (fun l => { l with clamps := l.clamps.map (fun k => if k.t = t then { k with t := s.now } else k) }))
  | .flit _ src _ _ _ _ n =>
    put x.pay (s.modLq src (fun l => { l with
      xLast := if l.sent = n + 1 then some s.now else l.xLast
      sig := l.sig.map (fun g => if g.n = n + 1 then { g with x := some s.now } else g) }))
  | p => put p s

/-- R39: item `i` of the send latches is the next of a crossing that has taken none on this tick. -/
def latchTurn (i : Nat) (x : XItem) (s : State) : Bool := nextInLatch i x s && kfind s.placed x.cross != some s.now

/-- R39: it may be placed ahead of the tick's end: it has been held since an earlier tick. -/
def mayPlace (i : Nat) (x : XItem) (s : State) : Bool := latchTurn i x s && x.stamp != s.now

/-- R39: place item `i` of the send latches. -/
def latchPlace (i : Nat) (s : State) : State :=
  match s.latch[i]? with
  | none => s
  | some x =>
    if mayPlace i x s then placeItem x { s with latch := dropAt s.latch i } else s

/-- SEND_LATCH_PLACE (R36, R39). -/
def execSendLatchPlace (i : Nat) (s : State) : Out := done (latchPlace i s)

/-- R44, R45: the flit enters its injection link on a frame tick equal to its slot. -/
def XItem.inject (now : W64) (x : XItem) : XItem :=
  if x.slot = some (now.toNat % 32) then { x with injected := true } else x

/-- FLIT_INJECT (R45). -/
def execFlitInject (i : Nat) (s : State) : Out := done { s with xing := modAt (XItem.inject s.now) i s.xing }

-- Service windows (R54)
/-- The sequencers of EXACT and REPEAT partitions pause, or resume. -/
def pauseMetered (b : Bool) (s : State) : State :=
  { s with svc := b, pq := s.pq.map (fun e => (e.1, if residentMetered s e.1 then { e.2 with paused := b } else e.2)) }

/-- SERVICE_WINDOW_BEGIN (R54). -/
def execServiceWindowBegin (s : State) : Out := done (if inWindow s.now && !s.svc then pauseMetered true s else s)

/-- SERVICE_WINDOW_END (R54). -/
def execServiceWindowEnd (s : State) : Out := done (if !inWindow s.now && s.svc then pauseMetered false s else s)

-- The tick (R32)
/-- R578: the sequencer of `q` issues nothing on this tick and no unit is held. -/
def idleTick (s : State) (p : Pq) : Bool :=
  match p.res with
  | none => true
  | some id =>
    match s.lqOf id with
    | none => true
    | some l => l.board.next != l.xt + 1 && l.board.unit.all (fun e => e.2 ≤ l.xt)

/-- R55, R123, R578: a Quill at the end of a tick: a calibration uses the ticks of service windows, or idle ticks, and other
background work waits on; a pause of one tick is over. -/
def pqTick (s : State) (q : Nat) (p : Pq) : Pq :=
  let m := residentMetered s q
  let free := idleTick s p || p.paused
  { p with
    paused := p.paused && m
    bgWait := if !p.bgPend || m || free then 0 else p.bgWait + 1
    calTicks := if p.calRun && (if m then inWindow s.now else free) then p.calTicks + 1 else p.calTicks }

/-- R147: a logical Quill of a running partition on a new tick. -/
def lqTick (s : State) (p : Part) (l : Lq) : Lq :=
  let on := if p.metered then !inWindow s.now else match l.place with | some q => takesStep s q.toNat p | none => false
  if on then { l with xt := l.xt + 1 } else l

/-- R147: execution ticks of a partition. -/
def partTick (s : State) (p : Part) : Part :=
  if partRuns p then { p with lqs := p.lqs.map (fun e => (e.1, lqTick s p e.2)) } else p

/-- R32, R83: the count of the next tick. -/
def nextCount (s : State) : W64 := s.tk.pend.getD (s.now + 1)

/-- R83: a write of TICK_CTRL.LOAD. -/
def tickLoad (s : State) : State :=
  checked .tk [(anyCtx s || s.tk.syncEn, 0x020B)] (fun s => { s with tk := { s.tk with pend := some s.tk.load } }) s

/-- TICK_LOAD (R83). -/
def execTickLoad (s : State) : Out := done (tickLoad s)

/-- R335: this chip is the timing master. -/
def isMaster (s : State) : Bool := s.glb.surrEn && mapValid s && chipNo s == 0

/-- R340, Table 02.7: the check of SYNC_EN, against the link map and, on a follower, the parent. -/
def syncChecks (s : State) : List (Bool × W16) :=
  [(!s.glb.surrEn, 0x0701), (!mapValid s, 0x0702),
   (chipNo s ≠ 0 && (!parentUp s || (s.kl.heard && !s.kl.parLock && !s.kl.parMaster)), 0x0704)]

/-- R336, R337, R340: a write of SYNC_EN. -/
def syncEn (v : Bool) (s : State) : State :=
  if v && !s.tk.syncEn then
    checked .kl (syncChecks s) (fun s => { s with
      tk := { s.tk with syncEn := true, locked := s.tk.locked || chipNo s == 0 }
      kl := { s.kl with good := 0, bad := 0, missed := 0, t1 := none } }) s
  else if !v && s.tk.syncEn then { s with tk := { s.tk with syncEn := false, locked := false } }
  else s

/-- SYNC_EN (R336). -/
def execSyncEn (v : Bool) (s : State) : Out := done (syncEn v s)

-- Lock-step (R71 to R77)
/-- Table 02.11: LINK and TRIG_GROUP. -/
def LockStep.link (x : LockStep) : Nat := (fld x.ctrl 10 4).toNat
def LockStep.trig (x : LockStep) : Nat := (fld x.ctrl 21 3).toNat

/-- R71: the checks of LS_CTRL.ENABLE. -/
def lsChecks (s : State) : List (Bool × W16) :=
  let x := s.ownAt s.ls.ctx.toNat
  [(s.ls.ctx = 0 || 64 < s.ls.ctx.toNat || x.timing ≠ 0 || x.fixedNat || 16 < s.ls.log2, 0x0209),
   (!bit s.kl.enable s.ls.link || (s.linkAt s.ls.link).st != .up, 0x020A)]

/-- R71: a write of LS_CTRL.ENABLE. Of a clearing the spec says no more: records that await comparison and held replies stay as
they are (DESIGN CHOICE, log entry 149). -/
def lsEnable (v : Bool) (s : State) : State :=
  if v && !s.ls.on then
    checked .tk (lsChecks s) (fun s => { s with ls := { s.ls with
      ctrl := setBit s.ls.ctrl 0 true, epoch := 0, cCmd := 0, wait := [], got := [], failed := false, passAt := none } }) s
  else if v then s
  else { s with ls := { s.ls with ctrl := setBit s.ls.ctrl 0 false } }

/-- LS_ENABLE (R71). -/
def execLsEnable (v : Bool) (s : State) : Out := done (lsEnable v s)

/-- The lock-step partition: the running partition of the context (log entry 90). -/
def lsPart (s : State) : Option Part :=
  (s.part.find? (fun e => e.2.id.owner == s.ls.ctx && partRuns e.2)).map (·.2)

/-- R72: the barriers that every logical Quill has passed. -/
def Part.barriers (p : Part) : Nat := (List.range p.nlq).foldl (fun m l => min m (p.lqAt l).bars) (p.lqAt 0).bars

/-- R73, R74: this chip's record of the epoch that ends, with every region digest of every logical Quill. -/
def lsOwn (p : Part) (s : State) : LsRecord :=
  { epoch := s.ls.epoch, cCmd := s.ls.cCmd
    cQ := (List.range p.nlq).map (fun l => (p.lqAt l).digest)
    regions := (List.range p.nlq).flatMap (fun l => kread 0 (p.lqAt l).region 0 64) }

/-- R74, R75: words as LS_RECORD packets for the partner, 448 bytes to a packet, numbered from 0 (log entry 150). -/
def lsWords (ws : List W64) (s : State) : State :=
  let bytes := ws.flatMap (wordBytes 8)
  let dst := (s.linkAt s.ls.link).partner.toNat
  (List.range ((bytes.length + 447) / 448)).foldl (fun s i =>
    sendC2k true (mkPkt dst (chipNo s) 6 true s.ls.ctx 0 0 (BitVec.ofNat 64 i) ((bytes.drop (448 * i)).take 448) s.now) s) s

/-- R74: the record goes to the partner: the epoch number, C_cmd and every C_q. -/
def lsSend (r : LsRecord) (s : State) : State := lsWords (r.epoch :: r.cCmd :: r.cQ) s

/-- The first index below `n` at which `f` and `g` differ. -/
def firstDiff (f g : Nat → W64) (n : Nat) : Option Nat := (List.range n).find? (fun i => f i != g i)

/-- R75: the current 64-bit words of region `k` of the state store of logical Quill `q`. -/
def regionWords (p : Part) (q k : Nat) (s : State) : List W64 :=
  let t : Stores := match (p.lqAt q).place with
    | some x => (s.pqAt x.toNat).st
    | none => ((p.lqAt q).saved).getD {}
  (List.range 128).map (fun i => leWord 64 ((t.read (stBase + 1024 * k + 8 * i) 8).bytes))

/-- R75: the partition whose contents are compared: the lock-step partition, or, its launch complete, the resident one of the
context. -/
def lsHere (s : State) : Option Part :=
  match lsPart s with
  | some p => some p
  | none => (s.part.find? (fun e => e.2.id.owner == s.ls.ctx && e.2.resident)).map (·.2)

/-- R75: the address and HIST_ONLY for differing logical Quill `q`, of which this chip sends its region digests and the words
of the lowest differing region; where no region digest differs they are free. -/
def divAddr (own r : LsRecord) (q : Nat) (s : State) : (W16 × Bool) × State :=
  let ds := (List.range 64).map (fun k => own.regions.getD (64 * q + k) 0)
  let s := lsWords ds s
  match firstDiff (fun k => ds.getD k 0) (fun k => r.regions.getD k 0) 64 with
  | none => let d := draw s; ((BitVec.ofNat 16 d.1, d.1 / 65536 % 2 == 1), d.2)
  | some k =>
    let ws := match lsHere s with | some p => regionWords p q k s | none => []
    let s := lsWords ws s
    match firstDiff (fun i => ws.getD i 0) (fun i => r.words.getD i 0) 128 with
    | some i => ((BitVec.ofNat 16 (1024 * k + 8 * i), false), s)
    | none => ((BitVec.ofNat 16 (1024 * k), true), s)

/-- R75, R76: log a divergence and halt the trigger group. -/
def lsDiverge (code : W16) (epoch : W64) (lq : BitVec 9) (addr : W16) (cmd hist : Bool) (s : State) : State :=
  let s := { s with ls := { s.ls with
    divEpoch := epoch, divLq := lq, divAddr := addr, divCmd := cmd, divHist := hist, failed := true, passAt := none } }
  xtFire (1 <<< s.ls.trig) agColl (logErr .tk code agColl 0 s)

/-- R74, R75: compare the partner's record of an epoch with this chip's. -/
def lsCompare (own r : LsRecord) (s : State) : State :=
  let n := max own.cQ.length r.cQ.length
  let cmd := own.cCmd != r.cCmd
  match firstDiff (fun q => own.cQ.getD q 0) (fun q => r.cQ.getD q 0) n with
  | some q =>
    let a := divAddr own r q s
    lsDiverge 0x0282 own.epoch (BitVec.ofNat 9 q) a.1.1 cmd a.1.2 a.2
  | none =>
    if cmd then lsDiverge 0x0282 own.epoch 0x1FF 0 true false s
    else { s with ls := { s.ls with passAt := some s.now } }

/-- R74, R75: a record of the partner: it is compared when the local epoch has ended, and kept until then. -/
def lsReceive (r : LsRecord) (s : State) : State :=
  match s.ls.wait.find? (fun e => e.1.epoch == r.epoch) with
  | none => { s with ls := { s.ls with got := s.ls.got ++ [r] } }
  | some e => lsCompare e.1 r { s with ls := { s.ls with wait := s.ls.wait.filter (fun x => x.1.epoch != r.epoch) } }

/-- R72 to R74: the epoch ends: the record is sent, every digest starts again at 0. -/
def lsEpochEnd (p : Part) (s : State) : State :=
  let r := lsOwn p s
  let s := lsSend r s
  let s := s.setPart { p with lqs := p.lqs.map (fun e => (e.1, { e.2 with digest := 0, region := [] })) }
  let s := { s with ls := { s.ls with epoch := s.ls.epoch + 1, cCmd := 0, passAt := none, wait := s.ls.wait ++ [(r, s.now)] } }
  match s.ls.got.find? (fun g => g.epoch == r.epoch) with
  | some g => lsReceive g { s with ls := { s.ls with got := s.ls.got.filter (fun x => x.epoch != r.epoch) } }
  | none => s

/-- LS_EPOCH_END (R72, R74). -/
def lsEpochStep (s : State) : State :=
  match lsPart s with
  | some p => if s.ls.on ∧ s.ls.endOf ≤ p.barriers then lsEpochEnd p s else s
  | none => s

def execLsEpochEnd (s : State) : Out := done (lsEpochStep s)

/-- LS_RECORD_RECEIVE (R74, R75). -/
def execLsRecordReceive (r : LsRecord) (s : State) : Out :=
  done (if s.ls.on then
    lsReceive r { s with kl := { s.kl with collIn := s.kl.collIn.filter (fun p => p.op != 6) } } else s)

/-- LS_PARTNER_TIMEOUT (R76). -/
def lsTimeout (s : State) : State :=
  match s.ls.wait with
  | e :: es =>
    if (e.2 + 65536).ule s.now then
      lsDiverge 0x0283 e.1.epoch 0x1FE 0 false false { s with ls := { s.ls with wait := es } }
    else s
  | [] => s

def execLsPartnerTimeout (s : State) : Out := done (lsTimeout s)

/-- LS_HOLD_RELEASE (R77): 10 ticks after the comparison passed, the held replies are released at their Quills. -/
def lsRelease (s : State) : State :=
  match s.ls.passAt with
  | some t =>
    if (t + 10).ule s.now then
      { s with
        ls := { s.ls with held := [], passAt := none }
        inbox := s.inbox ++ s.ls.held.map (fun id =>
          { cls := .s2q, src := 0, dst := match s.lqOf id with | some l => l.at_ | none => 0xFFF
            stamp := t, metered := true, arrived := true, rel := s.now, pay := .reply id }) }
    else s
  | none => s

def execLsHoldRelease (s : State) : Out := done (lsRelease s)

-- Registers of the TICK block (Tables 02.5 to 02.13)
/-- The value a TICK register holds. -/
def tickRead (off : Nat) (s : State) : W32 :=
  if off = 0x000 ∨ off = 0x004 then half (off = 0x004) s.now
  else if off = 0x008 ∨ off = 0x00C then half (off = 0x00C) s.tk.load
  else if off = 0x010 then b2w s.tk.syncEn <<< 1
  else if off = 0x014 then
    (s.tk.offset.setWidth 32 <<< 8) ||| (b2w (isMaster s) <<< 2) ||| (b2w s.tk.resumed <<< 1) ||| b2w s.tk.locked
  else if off = 0x018 then s.tk.reason.setWidth 32
  else if 0x020 ≤ off ∧ off ≤ 0x028 then errWord s.tk.errlog ((off - 0x020) / 4)
  else if off = 0x040 then s.ls.ctrl
  else if off = 0x048 ∨ off = 0x04C then half (off = 0x04C) s.ls.epoch
  else if off = 0x050 ∨ off = 0x054 then half (off = 0x054) s.ls.divEpoch
  else if off = 0x058 then s.ls.divLq.setWidth 32 ||| (b2w s.ls.divHist <<< 9) ||| (b2w s.ls.divCmd <<< 10)
  else if off = 0x05C then s.ls.divAddr.setWidth 32
  else 0

/-- A write of LS_CTRL: its other fields are locked while ENABLE reads 1. -/
def lsWrite (v : W32) (s : State) : State :=
  if s.ls.on then lsEnable (bit v 0) s
  else lsEnable (bit v 0) { s with ls := { s.ls with ctrl := v &&& 0x0FFFFFE2 } }

/-- A write of a TICK register; LOAD is checked before SYNC_EN changes. -/
def tickWrite (off : Nat) (v : W32) (pair : W64) (s : State) : State :=
  if off = 0x00C then { s with tk := { s.tk with load := pair } }
  else if off = 0x010 then syncEn (bit v 1) (if bit v 0 then tickLoad s else s)
  else if off = 0x014 then (if bit v 1 then { s with tk := { s.tk with resumed := false } } else s)
  else if off = 0x040 then lsWrite v s
  else s

end Sys2Proof.Machine
end

