-- ==== Sys2Proof/Machine/Windows.lean ====
section
/-!
DEFINITION. The store windows of the Quills, the calibration of native noise, and the QCTL, SCHED and SYNC registers
(R87 to R93, R123 to R125, R243, R589).
-/
namespace Sys2Proof.Machine

/-- R553: a request has reached the gate of a domain that is not in RUN: DOMAIN_DOWN, logged with address and source. -/
def domainDownLog (ag : Agent) (a : Dpa) (s : State) : State := logErr .pwr 0x0C80 ag a s

/-- R601: an access that no region, block or enabled Quill answers. -/
def unassigned (ag : Agent) (a : Dpa) (s : State) : State := logErr .glb 0x0184 ag a s

/-- The owner that an agent acts for (R378, R446, R520); other agents act for none here. -/
def actsFor (ag : Agent) (s : State) : Owner :=
  if 0x100 ≤ ag.toNat ∧ ag.toNat < 0x108 then kget 0 s.sep.owner (ag.toNat - 0x100)
  else if ag = agVel then s.vel.mstOwner
  else if ag = agDbg then s.dbg.accOwner
  else 0x7F

-- Store windows
/-- The store windows (Table 17.5). -/
def winBase : Nat := 0x010000000000
def isWindow (a : Dpa) : Bool := winBase ≤ a.toNat && a.toNat < winBase + 0x10000000

/-- The physical Quill whose window holds `a`, and the offset in its store: each window takes 1 MiB, in index order. -/
def winQuill (a : Dpa) : Nat := a.toNat / 0x100000 % 0x100
def winOff (a : Dpa) : Nat := a.toNat % 0x100000

/-- R87, R93, R553, R601: the checks of an access to `n` bytes at a window address: the physical Quill and the offset, or
none after an error response has been logged. -/
def winGate (ag : Agent) (a : Dpa) (n : Nat) (s : State) : Option (Nat × Nat) × State :=
  let q := winQuill a
  let off := winOff a
  if bit s.glb.fusedOff q then (none, unassigned ag a s)
  else if !s.domRun (q % 16 + 1) then (none, domainDownLog ag a s)
  else if 0xE0000 < off + n then (none, logErr (.quill (BitVec.ofNat 8 q)) 0x0E84 ag a s)
  else
    let o := actsFor ag s
    let t := (s.pqAt q).st.tag
    if ag ≠ agDbg ∧ (t ≠ o ∨ t = 0x7F) then (none, logErr (.quill (BitVec.ofNat 8 q)) 0x0E81 ag a s)
    else (some (q, off), s)

/-- R88, R89, R92, R93: another agent reads `n` bytes of a store; none: an error response. -/
def winRead (ag : Agent) (a : Dpa) (n : Nat) (s : State) : Option (List Byte) × State :=
  match winGate ag a n s with
  | (none, s) => (none, s)
  | (some (q, off), s) =>
    match quillRead q off n s with
    | (.error b, s) => (none, logErr (.quill (BitVec.ofNat 8 q)) 0x0E80 ag b s)
    | (.ok bs, s) => (some bs, s)

/-- The runs of written bytes of a 64-bit word: first lane and bytes, ascending. -/
def maskRuns (mask : Byte) (d : W64) : List (Nat × List Byte) :=
  (List.range 8).foldr (fun i acc =>
    if bit mask i then
      match acc with
      | (j, bs) :: rest => if j = i + 1 then (i, fld d (8 * i) 8 :: bs) :: rest else (i, [fld d (8 * i) 8]) :: acc
      | [] => [(i, [fld d (8 * i) 8])]
    else acc) []

/-- R93, R520, R625: another agent writes the bytes of `mask` of the 64-bit word that holds `a`; false: an error response. -/
def winWrite (ag : Agent) (a : Dpa) (mask : Byte) (d : W64) (s : State) : Bool × State :=
  let a := alignDown 3 a
  match winGate ag a 8 s with
  | (none, s) => (false, s)
  | (some (q, off), s) => (true, (maskRuns mask d).foldl (fun s r => extWrite q (off + r.1) r.2 ag s) s)

/-- STORE_WINDOW_READ (R87 to R93): `len` bytes, at most 16, inside one 64-byte line. -/
def execStoreWindowRead (ag : Agent) (a : Dpa) (len : Nat) (s : State) : Out :=
  done (if isWindow a ∧ 0 < len ∧ len ≤ 16 ∧ a.toNat % 64 + len ≤ 64 then
    match winRead ag a len s with
    | (some bs, s) => ans ag .ok (leWord 512 bs) s
    | (none, s) => errRsp ag s
  else s)

/-- STORE_WINDOW_WRITE (R87, R93, R625). -/
def execStoreWindowWrite (ag : Agent) (a : Dpa) (mask : Byte) (d : W64) (s : State) : Out :=
  done (if isWindow a then
    match winWrite ag a mask d s with
    | (true, s) => ans ag .ok 0 s
    | (false, s) => errRsp ag s
  else s)

-- Native-noise calibration
/-- NN_CALIBRATION_START (R123): in the service windows of an EXACT or REPEAT partition, otherwise as background work on
idle ticks. When a period has passed is the command's to say. -/
def execNnCalibrationStart (q : Byte) (s : State) : Out :=
  let n := q.toNat
  let p := s.pqAt n
  let m := residentMetered s n
  done (if s.domRun (n % 16 + 1) ∧ !bit s.glb.fusedOff n ∧ !p.calRun ∧ (!m || inWindow s.now) then
    s.setPq n { p with calRun := true, calTicks := 0, bgPend := !m, bgWait := 0 }
  else s)

/-- R124: the proportion test. -/
def proportionOk (accepts : BitVec 13) : Bool := 1920 ≤ accepts.toNat && accepts.toNat ≤ 2176

/-- The address of QCTL_NN of Quill `q` (R125). -/
def qctlNnAddr (q : Nat) : BitVec 48 := BitVec.ofNat 48 (0x030002000020 + q * 0x10000)

/-- R123, R54, R55: the calibration of `q` has had its time: 16 service windows, or 512 idle ticks, the last of them this
tick. -/
def calReady (q : Nat) (s : State) : Bool :=
  let p := s.pqAt q
  p.calRun && decide (511 ≤ p.calTicks) && (if residentMetered s q then inWindow s.now else idleTick s p || p.paused)

/-- R125, R628: the native-noise logical Quill resident on `q`, whose calibration has failed, goes on with Woad. -/
def nnFail (q : Nat) (s : State) : State :=
  match (s.pqAt q).res with
  | none => s
  | some id => s.modPart id.part (fun p =>
      if p.nn && partRuns p then
        { p.setLq id.l.toNat { p.lqAt id.l.toNat with fallback := true } with nnFell := true }
      else p)

/-- NN_CALIBRATION_END (R123 to R125): the new trims take effect together. -/
def execNnCalibrationEnd (q : Byte) (trims : List Byte) (met : Bool) (accepts : BitVec 13) (s : State) : Out :=
  let n := q.toNat
  let p := s.pqAt n
  done (if calReady n s ∧ trims.length = 256 ∧ accepts.toNat ≤ 4096 then
    let ok := met && proportionOk accepts
    let s := s.setPq n { p with
      calRun := false, bgPend := false, bgWait := 0, calPass := ok, accepts := accepts, fallback := p.fallback || !ok
      trim := (List.range 256).foldl (fun m i => kset 0x80 m i (trims.getD i 0x80)) [] }
    if ok then s else nnFail n (logErr (.quill q) 0x0E82 (BitVec.ofNat 9 n) (qctlNnAddr n) s)
  else s)

-- QCTL registers (Tables 03.9 to 03.15)
/-- The logical Quill resident on `q`, with its partition. -/
def residentLq (q : Nat) (s : State) : Option (Part × Lq) :=
  match (s.pqAt q).res with
  | none => none
  | some id => (s.partAt id.part).map (fun p => (p, p.lqAt id.l.toNat))

/-- The value a QCTL register of Quill `q` holds; what shows a logical Quill reads 0 while none is resident (DESIGN CHOICE, log
entry 129). -/
def qctlRead (q off : Nat) (s : State) : W32 :=
  let p := s.pqAt q
  let r := residentLq q s
  let l : Lq := match r with | some (_, l) => l | none => {}
  if off = 0x0000 then
    let id : LqId := p.res.getD {}
    BitVec.ofNat 32 q ||| (id.l.setWidth 32 <<< 8) ||| (id.part.owner.setWidth 32 <<< 24) ||| (b2w p.running <<< 31)
  else if off = 0x0008 ∨ off = 0x000C then half (off = 0x000C) l.sweep
  else if off = 0x0010 then
    l.ptr.setWidth 32 ||| (b2w l.adv <<< 10) ||| (b2w l.wrap <<< 11) ||| ((kget 0 l.tabB l.ptr.toNat).setWidth 32 <<< 16)
  else if off = 0x0020 then
    let active := match r with | some (pt, l) => p.running && pt.nn && !l.fallback && p.calPass | none => false
    b2w active ||| (b2w p.calRun <<< 1) ||| (b2w p.calPass <<< 2) ||| (b2w p.fallback <<< 3)
  else if off = 0x0024 then p.accepts.setWidth 32
  else if off = 0x0030 then p.corrCnt ++ p.uncorrCnt
  else if off = 0x0034 then b2w p.fieldSat ||| (b2w p.maccSat <<< 1)
  else if 0x0040 ≤ off ∧ off ≤ 0x0048 then errWord p.errlog ((off - 0x0040) / 4)
  else if 0x1000 ≤ off ∧ off < 0x1400 then (kget 0 l.tabA ((off - 0x1000) / 4)).setWidth 32
  else if 0x1400 ≤ off ∧ off < 0x1800 then (kget 0 l.tabC ((off - 0x1400) / 4)).setWidth 32
  else if 0x2000 ≤ off ∧ off < 0x3000 then (kget 0 l.tabB ((off - 0x2000) / 4)).setWidth 32
  else if 0x3000 ≤ off ∧ off < 0x3400 then (kget 0x80 p.trim ((off - 0x3000) / 4)).setWidth 32
  else 0

/-- R90: the table entry behind a QCTL register has bad parity. -/
def qctlBad (q off : Nat) (s : State) : Bool :=
  let p := s.pqAt q
  if 0x1000 ≤ off ∧ off < 0x1400 then kget false p.parA ((off - 0x1000) / 4)
  else if 0x1400 ≤ off ∧ off < 0x1800 then kget false p.parC ((off - 0x1400) / 4)
  else if 0x2000 ≤ off ∧ off < 0x3000 then kget false p.parB ((off - 0x2000) / 4)
  else false

/-- What a read of a QCTL register clears. -/
def qctlClear (q off : Nat) (s : State) : State :=
  if off = 0x0030 then s.modPq q (fun p => { p with corrCnt := 0, uncorrCnt := 0 }) else s

/-- A write of a QCTL register. -/
def qctlWrite (q off : Nat) (v : W32) (s : State) : State :=
  if off = 0x0020 then (if bit v 3 then s.modPq q (fun p => { p with fallback := false }) else s)
  else if off = 0x0034 then
    s.modPq q (fun p => { p with fieldSat := p.fieldSat && !bit v 0, maccSat := p.maccSat && !bit v 1 })
  else s

-- SCHED registers (Tables 06.11 to 06.13)
/-- R240, Table 06.13: the head of a queue waits on an object. -/
def queueWaits (q : Queue) : Bool :=
  match q.slots with | x :: _ => x.checked && x.cmd.waitEn && !x.waited | [] => false

/-- A register of queue `k` of owner `o`. -/
def queueRead (o k r : Nat) (s : State) : W32 :=
  let q := s.queueAt o k
  if r = 0x00 ∨ r = 0x04 then half (r = 0x04) (q.base ||| b2w q.host)
  else if r = 0x08 then b2w q.enable ||| (q.size.setWidth 32 <<< 1) ||| (b2w q.stopOnErr <<< 6)
  else if r = 0x0C then q.head.setWidth 32
  else if r = 0x10 then q.tail.setWidth 32
  else if r = 0x14 then q.seq
  else if r = 0x18 then b2w q.stopped ||| (b2w q.fetchErr <<< 1) ||| (b2w (queueWaits q) <<< 2)
  else 0

/-- The register of partition `p` of owner `o`. -/
def partRead (o p : Nat) (s : State) : W32 :=
  match s.partAt { owner := BitVec.ofNat 7 o, pid := BitVec.ofNat 6 p } with
  | none => 0
  | some x =>
    b2w x.enabled ||| (b2w (partRuns x) <<< 1) ||| (b2w x.resident <<< 2) ||| (b2w x.demoted <<< 3) ||| (BitVec.ofNat 9 x.nlq).setWidth 32 <<< 4

/-- A register of the page of owner `o`. -/
def ownRead (o r : Nat) (s : State) : W32 :=
  let x := s.ownAt o
  if r = 0x000 then b2w x.enable ||| (x.timing.setWidth 32 <<< 1) ||| (b2w x.fixedNat <<< 3) ||| (x.priority.setWidth 32 <<< 4)
  else if r = 0x004 then
    b2w (x.enable && !x.draining) ||| (b2w x.draining <<< 1) ||| (b2w x.ended <<< 2) |||
    BitVec.ofNat 32 (0x100 * (s.part.filter (fun e => e.2.id.owner.toNat == o && partRuns e.2)).length)
  else if r = 0x008 then x.reason.setWidth 32
  else if r = 0x00C then x.quota.setWidth 32
  else if r = 0x010 then BitVec.ofNat 32 (syncUsed (BitVec.ofNat 7 o) s)
  else if r = 0x018 ∨ r = 0x01C then half (r = 0x01C) (x.ptbase.setWidth 64)
  else if r = 0x020 ∨ r = 0x024 then half (r = 0x024) (x.cplBase ||| b2w x.cplHost)
  else if r = 0x028 then x.cplSize.setWidth 32 ||| (b2w x.irqEn <<< 8) ||| (b2w x.overflow <<< 9)
  else if r = 0x02C then x.cplTail.setWidth 32
  else if r = 0x030 then x.cplHead.setWidth 32
  else if r = 0x034 then x.cplLost
  else if r = 0x080 then (syncAllocFor (BitVec.ofNat 7 o) s).1
  else if 0x100 ≤ r ∧ r < 0x200 then queueRead o ((r - 0x100) / 0x20) (r % 0x20) s
  else if 0x400 ≤ r ∧ r < 0x500 then partRead o ((r - 0x400) / 4) s
  else 0

/-- The owner whose page holds SCHED offset `off`. -/
def pageOf (off : Nat) : Option Nat :=
  if 0x1000 ≤ off ∧ off < 0x1000 + 0x1000 * 65 then some (off / 0x1000 - 1) else none

/-- The value a SCHED register holds. -/
def schedRead (off : Nat) (s : State) : W32 :=
  match pageOf off with
  | some o => ownRead o (off % 0x1000) s
  | none =>
    if off = 0x000 then BitVec.ofNat 32 ((s.sched.disp.filter (fun d => !d.undisp)).length)
    else if off = 0x004 then BitVec.ofNat 32 (syncCount - (s.sync.filter (fun e => e.2.owner != 0x7F)).length)
    else if 0x010 ≤ off ∧ off ≤ 0x018 then errWord s.sched.errlog ((off - 0x010) / 4)
    else 0

/-- What a read of a SCHED register changes: SYNC_ALLOC allocates (R234), CPL_LOST clears. -/
def schedClear (off : Nat) (s : State) : State :=
  match pageOf off with
  | some o =>
    if off % 0x1000 = 0x080 then (syncAllocFor (BitVec.ofNat 7 o) s).2
    else if off % 0x1000 = 0x034 then s.setOwn o { s.ownAt o with cplLost := 0 }
    else s
  | none => s

/-- A write of a register of a queue; BASE, SIZE and STOP_ON_ERR are locked while Q_ENABLE reads 1. Bits [11:1] of
BASE are no field and are dropped (DESIGN CHOICE, log entry 152). -/
def queueRegWrite (o k r : Nat) (v : W32) (pair : W64) (s : State) : State :=
  let q := s.queueAt o k
  if r = 0x04 then
    (if q.enable then s else s.setQueue o k { q with base := alignDown 12 pair, host := bit pair 0 })
  else if r = 0x08 then
    qEnable o k (bit v 0) (if q.enable then s else s.setQueue o k { q with size := fld v 1 5, stopOnErr := bit v 6 })
  else if r = 0x10 then doorbell o k v s
  else if r = 0x18 then
    s.setQueue o k { q with stopped := q.stopped && !bit v 0, fetchErr := q.fetchErr && !bit v 1, fetchHeld := q.fetchHeld && !bit v 0 }
  else s

/-- A write of a register of an owner's page; RWL fields are locked while CTX_ENABLE reads 1. Bits
[11:0] of PTBASE and [5:1] of CPL_BASE are no fields and are dropped (DESIGN CHOICE, log entry 152). -/
def ownWrite (o r : Nat) (v : W32) (pair : W64) (s : State) : State :=
  let x := s.ownAt o
  let open_ := fun (y : Own) => if x.enable then s else s.setOwn o y
  if r = 0x000 then
    let s := open_ { x with timing := fld v 1 2, fixedNat := bit v 3, priority := fld v 4 2 }
    if bit v 0 then ctxEnable o s else ctxDisable o s
  else if r = 0x004 then (if bit v 2 then s.setOwn o { x with ended := false } else s)
  else if r = 0x00C then open_ { x with quota := fld v 0 18 }
  else if r = 0x01C then open_ { x with ptbase := fld pair 0 48 &&& 0xFFFFFFFFF000 }
  else if r = 0x024 then open_ { x with cplBase := alignDown 6 pair, cplHost := bit pair 0 }
  else if r = 0x028 then
    s.setOwn o { x with
      cplSize := if x.enable then x.cplSize else fld v 0 5, irqEn := bit v 8, overflow := x.overflow && !bit v 9 }
  else if r = 0x030 then s.setOwn o { x with cplHead := fld v 0 16 }
  else if r = 0x084 then syncFreeFor (BitVec.ofNat 7 o) v.toNat s
  else if 0x100 ≤ r ∧ r < 0x200 then queueRegWrite o ((r - 0x100) / 0x20) (r % 0x20) v pair s
  else s

/-- A write of a SCHED register; a pair's whole value arrives with its high word. -/
def schedWrite (off : Nat) (v : W32) (pair : W64) (s : State) : State :=
  match pageOf off with | some o => ownWrite o (off % 0x1000) v pair s | none => s

-- SYNC registers (Table 06.14)
/-- The value a register of an object holds. -/
def syncRead (off : Nat) (s : State) : W32 :=
  let x := s.syncAt (off / 16)
  if off % 16 = 0 then x.count
  else if off % 16 = 4 then x.thresh
  else if off % 16 = 8 then x.owner.setWidth 32 ||| (x.bound.setWidth 32 <<< 8)
  else 0

/-- R233, R236: a write of a register of an object; an increment acts for the object's owner, and a free object logs. -/
def syncRegWrite (ag : Agent) (off : Nat) (v : W32) (s : State) : State :=
  let n := off / 16
  let o := (s.syncAt n).owner
  if off % 16 = 0 then syncWrite o ag (BitVec.ofNat 17 n) false v s
  else if off % 16 = 4 then syncWrite o ag (BitVec.ofNat 17 n) true v s
  else if off % 16 = 0xC then incrNow o (BitVec.ofNat 17 n) v ag s
  else s

end Sys2Proof.Machine
end

