-- ==== Sys2Proof/Machine/RegMap.lean ====
section
/-!
DEFINITION. The device physical address map: the register blocks with the latches of 64-bit pairs (R9 to R12, R601, R604),
accesses by cores, by the fabric master and over the debug wire.
-/
namespace Sys2Proof.Machine

/-- The register blocks of Table 17.6. -/
inductive RegBlk where
  | glb | tick | sched | sync | ink | sort | kl | mad | vel | plant | dbg | pwr | sep | host
  | qctl (q : Nat)
deriving DecidableEq, Repr

/-- Table 17.6: the block and the offset of an address; the ranges the blocks occupy are log entry 117. -/
def regHome (a : Dpa) : Option (RegBlk × Nat) :=
  let n := a.toNat
  if n < 0x030000000000 ∨ 0x030004000000 ≤ n then none
  else
    let r := n % 0x04000000
    let o := r % 0x100000
    match r / 0x100000 with
    | 0x00 => some (.glb, o)
    | 0x01 => some (.tick, o)
    | 0x02 | 0x03 => some (.sched, r - 0x200000)
    | 0x04 | 0x05 => some (.sync, r - 0x400000)
    | 0x08 => some (.ink, o)
    | 0x09 => some (.sort, o)
    | 0x0A => some (.kl, o)
    | 0x0B => some (.mad, o)
    | 0x0C => some (.vel, o)
    | 0x0D => some (.plant, o)
    | 0x0E => some (.dbg, o)
    | 0x0F => some (.pwr, o)
    | 0x10 => some (.sep, o)
    | 0x38 => some (.host, o)
    | k => if 0x20 ≤ k ∧ k < 0x30 then some (.qctl ((r - 0x2000000) / 0x10000), r % 0x10000) else none

/-- The power domain of a block (Table 16.1). -/
def RegBlk.dom : RegBlk → Nat
  | .qctl q => q % 16 + 1
  | .sep => 17
  | .vel => 18
  | _ => 40

/-- The error log of a block and the offset of its INFO register. -/
def RegBlk.log : RegBlk → Option (Blk × Nat)
  | .glb => some (.glb, 0x058) | .tick => some (.tk, 0x028) | .sched => some (.sched, 0x018) | .ink => some (.ink, 0x028)
  | .sort => some (.sort, 0x018) | .kl => some (.kl, 0x028) | .mad => some (.mad, 0x018) | .vel => some (.vel, 0x018)
  | .plant => some (.plant, 0x018) | .dbg => some (.dbg, 0x018) | .pwr => some (.pwr, 0x018) | .sep => some (.sep, 0x018)
  | .qctl q => some (.quill (BitVec.ofNat 8 q), 0x048)
  | .sync | .host => none

/-- How a pair is written. -/
inductive PairKind where
  | ro | rw | w1
deriving DecidableEq, Repr

/-- A 64-bit register whose _LO half lies at this offset of a block. -/
def pairAt (b : RegBlk) (off : Nat) : Option PairKind :=
  match b with
  | .tick => if off = 0x000 ∨ off = 0x048 ∨ off = 0x050 then some .ro else if off = 0x008 then some .rw else none
  | .sched =>
    match pageOf off with
    | some _ =>
      let r := off % 0x1000
      if r = 0x018 ∨ r = 0x020 ∨ (0x100 ≤ r ∧ r < 0x200 ∧ r % 0x20 = 0) then some .rw else none
    | none => none
  | .ink => if 0x400 ≤ off ∧ off < 0xC20 ∧ (off % 0x20 = 0 ∨ off % 0x20 = 8) then some .rw else none
  | .mad => if 0x100 ≤ off ∧ off < 0x240 ∧ off % 0x40 = 0x08 then some .ro else none
  | .plant =>
    if off = 0x028 ∨ off = 0x030 then some .ro else if off = 0x038 then some .w1 else if off = 0x040 then some .rw else none
  | .dbg => if off = 0x028 ∨ off = 0x90C then some .ro else none
  | .pwr => if off = 0x020 then some .rw else if off = 0x028 then some .ro else none
  | .sep => if 0x080 ≤ off ∧ off < 0x0C0 ∧ off % 8 = 0 then some .rw else none
  | .qctl _ => if off = 0x0008 then some .ro else none
  | _ => none

/-- The pair an offset belongs to: the offset of its _LO half, and its kind; the ERRLOG addresses are pairs. -/
def pairOf (b : RegBlk) (off : Nat) : Option (Nat × PairKind) :=
  match b.log with
  | some (_, i) => if off + 8 = i then some (off, .ro) else if off + 4 = i then some (off - 4, .ro) else go
  | none => go
where
  go : Option (Nat × PairKind) :=
    match pairAt b off with
    | some k => some (off, k)
    | none => if 4 ≤ off then (pairAt b (off - 4)).map (fun k => (off - 4, k)) else none

/-- The value a register holds, as `ag` reads it. -/
def regVal (ag : Agent) (b : RegBlk) (off : Nat) (s : State) : W32 :=
  match b with
  | .glb => glbRead off s | .tick => tickRead off s | .sched => schedRead off s | .sync => syncRead off s
  | .ink => inkRead off s | .sort => sortRead off s | .kl => klRead off s | .mad => madRead off s | .vel => velRead off s
  | .plant => plantRead off s | .dbg => dbgRead ag off s | .pwr => pwrRead off s | .sep => sepRead off s
  | .host => hostRegRead off s | .qctl q => qctlRead q off s

/-- R12: what a read changes: read-clear fields, and the registers whose read takes something. -/
def regClear (ag : Agent) (b : RegBlk) (off : Nat) (s : State) : State :=
  match b with
  | .sched => schedClear off s | .ink => inkClear off s | .kl => klClear off s | .mad => madClear off s
  | .vel => velClear off s | .plant => plantClear off s | .dbg => dbgClear ag off s | .sep => sepClear off s
  | .host => hostRegClear off s | .qctl q => qctlClear q off s
  | .glb | .tick | .sync | .sort | .pwr => s

/-- R11, R12: the effect of a write; `pair` is the whole value where the register is the high half of a pair. -/
def regPut (ag : Agent) (b : RegBlk) (off : Nat) (v : W32) (pair : W64) (s : State) : State :=
  match b with
  | .glb => glbWrite off v s | .tick => tickWrite off v pair s | .sched => schedWrite off v pair s
  | .sync => syncRegWrite ag off v s | .ink => inkWrite off v pair s | .sort => sortWrite off v s | .kl => klWrite off v s
  | .mad => madWrite off v s | .vel => velWrite off v s | .plant => plantWrite off v pair s | .dbg => dbgWrite ag off v s
  | .pwr => pwrWrite off v pair s | .sep => sepWrite off v pair s | .host => hostRegWrite off v s | .qctl q => qctlWrite q off v s

/-- The key of an agent's latch of the pair whose _LO half is at `a` (R9). -/
def latchKey (ag : Agent) (a : Nat) : Nat := ag.toNat * 0x1000000000000 + a

/-- How an access ends for the step that makes it. -/
inductive AccR where
  | ok (d : W32)
  | err
  /-- It is split: its response comes later (R445). -/
  | split
  /-- Its target is not ready for it: the step changes nothing. -/
  | hold

/-- R624: the read of CODE of block `b` clears it; Vellum's also lowers source VEL_CFG. -/
def codeClear (b : Blk) (s : State) : State :=
  let s := setErr b { getErr b s with code := 0 } s
  if b == .vel then { s with vel := { s.vel with cfgRaised := false } } else s

/-- R9, R12, R624: a 32-bit read of offset `off` of a block; `lo` is the address of the block's offset 0. -/
def blockRead (ag : Agent) (b : RegBlk) (lo off : Nat) (s : State) : W32 × State :=
  match pairOf b off with
  | some (l, _) =>
    let k := latchKey ag (lo + l)
    if off = l then (regVal ag b off s, { s with rdLatch := kset none s.rdLatch k (some (regVal ag b (l + 4) s)) })
    else match kget none s.rdLatch k with
      | some w => (w, { s with rdLatch := kset none s.rdLatch k none })
      | none => (regVal ag b off s, s)
  | none =>
    let v := regVal ag b off s
    match b.log with
    | some (e, i) =>
      if off = i then (v, codeClear e s) else (v, regClear ag b off s)
    | none => (v, regClear ag b off s)

/-- Table 00.2: the pair whose _LO half is at `l` is locked (RWL): its owner, queue or page cache is enabled. -/
def pairLocked (b : RegBlk) (l : Nat) (s : State) : Bool :=
  match b with
  | .sched =>
    match pageOf l with
    | some o =>
      let r := l % 0x1000
      if r = 0x018 ∨ r = 0x020 then (s.ownAt o).enable else (s.queueAt o ((r - 0x100) / 0x20)).enable
    | none => false
  | .ink => (s.hcAt ((l - 0x400) / 0x20)).enable
  | _ => false

/-- R9, R12: a 32-bit write; a write of half a pair that is locked is ignored. -/
def blockWrite (ag : Agent) (b : RegBlk) (lo off : Nat) (v : W32) (s : State) : State :=
  match pairOf b off with
  | some (l, .rw) =>
    let k := latchKey ag (lo + l)
    if pairLocked b l s then s
    else if off = l then { s with wrLatch := kput s.wrLatch k v }
    else
      let low := (kfind s.wrLatch k).getD (regVal ag b l s)
      regPut ag b off v (v ++ low) { s with wrLatch := kdel s.wrLatch k }
  | some (_, .ro) => s
  | _ => regPut ag b off v 0 s

/-- R36, Table 17.3: the class under which a register write of the host or of a core crosses to the scheduler. -/
def writeCross (ag : Agent) (b : RegBlk) : Option XCls :=
  if b = .sched ∨ b = .sync then
    if ag = agHost then some .hst else if 0x100 ≤ ag.toNat ∧ ag.toNat < 0x108 then some .sep else none
  else none

/-- R40: such a write is metered as the owner of its page or of its object is. -/
def writeMetered (b : RegBlk) (off : Nat) (s : State) : Bool :=
  match b with
  | .sync => ownMetered s (s.syncAt (off / 16)).owner.toNat
  | _ => match pageOf off with | some o => ownMetered s o | none => false

/-- A register write of `ag` is on its way to the scheduler. -/
def writesOut (ag : Agent) (s : State) : Bool := outstanding s (fun x => match x.pay with | .regw g _ _ => g == ag | _ => false)

/-- R36: a register write crosses to the scheduler. -/
def writeSend (c : XCls) (ag : Agent) (a : Dpa) (v : W32) (met : Bool) (s : State) : State :=
  sendX { cls := c, src := 1, dst := 0, stamp := s.now, metered := met, pay := .regw ag a v } s

/-- R593: a register write released at the scheduler takes effect. -/
def writeLand (ag : Agent) (a : Dpa) (v : W32) (s : State) : State :=
  match regHome a with
  | some (b, off) => blockWrite ag b (a.toNat - off) off v s
  | none => s

/-- R586: the function answers no host access. -/
def hostShut (ag : Agent) (s : State) : Bool := ag == agHost && s.host.d3hot

/-- The gate of a register access: the block and offset, or none after an error response has been logged (R553, R601). -/
def regGate (ag : Agent) (a : Dpa) (s : State) : Option (RegBlk × Nat) × State :=
  match regHome a with
  | none => (none, unassigned ag a s)
  | some (b, off) =>
    if !s.domRun 40 || !s.domRun b.dom then (none, domainDownLog ag a s)
    else match b with
      | .qctl q => if bit s.glb.fusedOff q then (none, unassigned ag a s) else (some (b, off), s)
      | _ => (some (b, off), s)

/-- R594: a 32-bit read of a register: after the reader's own writes have taken effect. -/
def regRead (ag : Agent) (a : Dpa) (s : State) : AccR × State :=
  match regGate ag a s with
  | (none, s) => (.err, s)
  | (some (b, off), s) =>
    if writesOut ag s then (.hold, s)
    else if b = .vel ∧ 0x80000 ≤ off then (.split, slaveAccess ag off false 0 s)
    else if b = .mad ∧ (off = 0x300 ∨ off = 0x310) then
      match swRead (off = 0x310) ag s with
      | (some w, s) => (.ok w, s)
      | (none, s) => (.err, s)
    else match b with
      | .qctl q =>
        if qctlBad q off s then
          (.err, logErr (.quill (BitVec.ofNat 8 q)) 0x0E80 ag a (s.modPq q (fun p => { p with uncorrCnt := satInc p.uncorrCnt })))
        else let r := blockRead ag b (a.toNat - off) off s; (.ok r.1, r.2)
      | _ => let r := blockRead ag b (a.toNat - off) off s; (.ok r.1, r.2)

/-- R593: a 32-bit write of a register: in order after the writer's own earlier writes. -/
def regWrite (ag : Agent) (a : Dpa) (v : W32) (s : State) : AccR × State :=
  match regGate ag a s with
  | (none, s) => (.err, s)
  | (some (b, off), s) =>
    match writeCross ag b with
    | some c => (.ok 0, writeSend c ag a v (writeMetered b off s) s)
    | none =>
      if writesOut ag s then (.hold, s)
      else if b = .vel ∧ 0x80000 ≤ off then (.split, slaveAccess ag off true v s)
      else (.ok 0, blockWrite ag b (a.toNat - off) off v s)

/-- The state after an access whose agent is answered at once. -/
def answer (ag : Agent) (s0 : State) (r : AccR × State) : State :=
  match r with
  | (.ok d, s) => ans ag .ok (d.setWidth 512) s
  | (.err, s) => errRsp ag s
  | (.split, s) => s
  | (.hold, _) => s0

/-- A register access as a step of its own: 4-byte aligned; a host access in D3hot gets Unsupported Request (R586). -/
def regStep (ag : Agent) (a : Dpa) (f : State → AccR × State) (s : State) : State :=
  if a.toNat % 4 ≠ 0 then s
  else if hostShut ag s then ans ag .err 0 s
  else answer ag s (f s)

/-- The address is half `hi` of a pair that satisfies `p`. -/
def isPairHalf (a : Dpa) (hi : Bool) (p : PairKind → Bool) : Bool :=
  match regHome a with
  | some (b, off) => match pairOf b off with | some (l, k) => p k && (if hi then off == l + 4 else off == l) | none => false
  | none => false

/-- PAIR_READ_LO (R9). -/
def execPairReadLo (ag : Agent) (a : Dpa) (s : State) : Out :=
  done (if isPairHalf a false (fun _ => true) then regStep ag a (regRead ag a) s else s)

/-- PAIR_READ_HI (R9). -/
def execPairReadHi (ag : Agent) (a : Dpa) (s : State) : Out :=
  done (if isPairHalf a true (fun _ => true) then regStep ag a (regRead ag a) s else s)

/-- PAIR_WRITE_LO (R9). -/
def execPairWriteLo (ag : Agent) (a : Dpa) (v : W32) (s : State) : Out :=
  done (if isPairHalf a false (fun k => k == .rw) then regStep ag a (regWrite ag a v) s else s)

/-- PAIR_WRITE_HI (R9). -/
def execPairWriteHi (ag : Agent) (a : Dpa) (v : W32) (s : State) : Out :=
  done (if isPairHalf a true (fun k => k == .rw) then regStep ag a (regWrite ag a v) s else s)

/-- The address is the INFO register of an ERRLOG. -/
def isErrInfo (a : Dpa) : Bool :=
  match regHome a with
  | some (b, off) => match b.log with | some (_, i) => off == i | none => false
  | none => false

/-- ERRLOG_CODE_READ (R624). -/
def execErrlogCodeRead (ag : Agent) (a : Dpa) (s : State) : Out :=
  done (if isErrInfo a then regStep ag a (regRead ag a) s else s)

/-- RC_REGISTER_READ (R12): the held value is answered, and what the register clears on a read is cleared. -/
def execRcRegisterRead (ag : Agent) (a : Dpa) (s : State) : Out :=
  done (regStep ag a (regRead ag a) s)

/-- REGISTER_WRITE (R11, R12, R601). -/
def execRegisterWrite (ag : Agent) (a : Dpa) (v : W32) (s : State) : Out :=
  done (regStep ag a (regWrite ag a v) s)

-- Every DPA (R601)
/-- The low `n` bytes of the result of reading words: lanes outside a narrow write are free (log entry 118). -/
def laneWord (a n : Nat) (v : W32) (s : State) : W32 × State :=
  if n = 4 then (v, s)
  else
    let sh := 8 * (a % 4)
    let m : W32 := BitVec.ofNat 32 ((2 ^ (8 * n) - 1) * 2 ^ sh)
    let d := draw s
    (((v <<< sh) &&& m) ||| (BitVec.ofNat 32 d.1 &&& ~~~m), d.2)

/-- HBM can be reached by an access outside BAR4, with a tag free at its Inkwell (R248): none when it can, else how the access
ends (log entry 119). -/
def hbmReach (ag : Agent) (a : Dpa) (s : State) : Option (AccR × State) :=
  if !s.ink.enable then some (.err, logErr .glb 0x0185 ag a s)
  else if !s.domRun 23 then some (.err, domainDownLog ag a s)
  else if !s.hbm.trained ∨ tagsFree (inkAt a.toNat) s = 0 then some (.hold, s)
  else none

/-- The bytes of a line access to Sepia memory. -/
def lineRead (ag : Agent) (a : Dpa) (n : Nat) (s : State) : Option (List Byte) × State :=
  if !s.domRun 17 then (none, domainDownLog ag a s)
  else match nrdNow ag (a.toNat / 64) s with
    | (some d, s) => (some (((wordBytes 64 d).drop (a.toNat % 64)).take n), s)
    | (none, s) => (none, s)

def lineWrite (ag : Agent) (a : Dpa) (d : List Byte) (s : State) : Bool × State :=
  if !s.domRun 17 then (false, domainDownLog ag a s)
  else
    let o := a.toNat % 64
    nwrNow ag (a.toNat / 64) (BitVec.ofNat 64 ((2 ^ d.length - 1) * 2 ^ o)) (leWord 512 (List.replicate o 0 ++ d)) s

/-- The address lies in control SRAM or boot flash. -/
def isSepiaMem (a : Dpa) : Bool := isSramLine (a.toNat / 64) || isBflLine (a.toNat / 64)

/-- R378, R446, R601: a read of `n` bytes (1, 2 or 4), naturally aligned, by a core or the fabric master. -/
def memRead (ag : Agent) (a : Dpa) (n : Nat) (s : State) : AccR × State :=
  if a.toNat < hbmTop then
    match hbmReach ag a s with
    | some r => r
    | none =>
      match hbmRead (actsFor ag s) ag a.toNat n s with
      | (.ok bs, s) => (.ok (leWord 32 bs), s)
      | (.error _, s) => (.err, s)
  else if isWindow a then
    match winRead ag a n s with
    | (some bs, s) => (.ok (leWord 32 bs), s)
    | (none, s) => (.err, s)
  else if isSepiaMem a then
    match lineRead ag a n s with
    | (some bs, s) => (.ok (leWord 32 bs), s)
    | (none, s) => (.err, s)
  else
    match regRead ag (alignDown 2 a) s with
    | (.ok d, s) => (.ok (d >>> (8 * (a.toNat % 4))), s)
    | r => r

/-- R378, R446, R601: a write of `n` bytes. -/
def memWrite (ag : Agent) (a : Dpa) (n : Nat) (v : W32) (s : State) : AccR × State :=
  let bs := wordBytes n v
  if a.toNat < hbmTop then
    match hbmReach ag a s with
    | some r => r
    | none =>
      match hbmWrite (inkAt a.toNat) (actsFor ag s) ag a.toNat bs s with
      | (none, s) => (.ok 0, s)
      | (some _, s) => (.err, s)
  else if isWindow a then
    let sh := a.toNat % 8
    match winWrite ag a (BitVec.ofNat 8 ((2 ^ n - 1) * 2 ^ sh)) (v.setWidth 64 <<< (8 * sh)) s with
    | (true, s) => (.ok 0, s)
    | (false, s) => (.err, s)
  else if isSepiaMem a then
    match lineWrite ag a bs s with
    | (true, s) => (.ok 0, s)
    | (false, s) => (.err, s)
  else
    let w := laneWord a.toNat n v s
    regWrite ag (alignDown 2 a) w.1 w.2

/-- The response of a split access that has been performed: it stands with the requester until it is taken. -/
def settle (ag : Agent) (s0 : State) (r : AccR × State) : State :=
  match r with
  | (.ok d, s) => respond ag false d s
  | (.err, s) => respond ag true 0 s
  | (.split, s) => s
  | (.hold, _) => s0

/-- UNCACHED_ACCESS (R376, R378, R384): the access that core `c` waits on goes out. -/
def execUncachedAccess (c : BitVec 3) (s : State) : Out :=
  let n := c.toNat
  let k := s.coreAt n
  done (match k.uncached with
    | none => s
    | some u =>
      if u.sent || !busUp s then s
      else
        let w := if u.funct3.toNat % 4 = 0 then 1 else if u.funct3.toNat % 4 = 1 then 2 else 4
        let s1 := s.setCore n { k with uncached := some { u with sent := true } }
        settle (agCore n) s (if u.wr then memWrite (agCore n) u.addr w u.v s1 else memRead (agCore n) u.addr w s1))

-- The fabric master port (R446)
/-- The funct5 of MST_OP 2 to 10. -/
def mstAmo (op : BitVec 4) : BitVec 5 :=
  match op.toNat with | 2 => 1 | 3 => 0 | 4 => 4 | 5 => 12 | 6 => 8 | 7 => 16 | 8 => 20 | 9 => 24 | _ => 28

/-- R446: an AMO in HBM. -/
def hbmAmo (a : Dpa) (op : BitVec 5) (v : W32) (s : State) : AccR × State :=
  match hbmReach agVel a s with
  | some r => r
  | none =>
    match hbmRead (actsFor agVel s) agVel a.toNat 4 s with
    | (.error _, s) => (.err, s)
    | (.ok bs, s) =>
      let old : W32 := leWord 32 bs
      match hbmWrite (inkAt a.toNat) (actsFor agVel s) agVel a.toNat (wordBytes 4 (amoOp op old v)) s with
      | (none, s) => (.ok old, s)
      | (some _, s) => (.err, s)

/-- R446: the access of the master port, the domain up. -/
def mstAccess (op : BitVec 4) (a : Dpa) (d : W32) (s : State) : AccR × State :=
  if 10 < op.toNat then (.err, s)
  else if isSepiaMem a then
    if !s.domRun 17 then (.err, domainDownLog agVel a s)
    else
      let o := a.toNat % 64
      let bop : BusOp := if op = 0 then .nrd
        else if op = 1 then .nwr (BitVec.ofNat 64 (15 * 2 ^ o)) (d.setWidth 512 <<< (8 * o))
        else .namo (mstAmo op) (BitVec.ofNat 4 (o / 4)) d
      (.split, busPost { ag := agVel, op := bop, line := a.toNat / 64 } s)
  else if op = 0 then memRead agVel a 4 s
  else if op = 1 then memWrite agVel a 4 d s
  else if a.toNat < hbmTop then hbmAmo a (mstAmo op) d s
  else (.err, s)

/-- MST_REQ (R446). -/
def execMstReq (op : BitVec 4) (a : Dpa) (d : W32) (s : State) : Out :=
  let a := alignDown 2 a
  done (if !s.vel.mstEn ∨ s.vel.stage ≠ 3 ∨ s.vel.mst.isSome then s
    else
      let s1 := { s with vel := { s.vel with mst := some { op := op, a := a, d := d } } }
      if s.sep.down || s.sep.resetting then respond agVel true 0 (logErr .sep 0x0D85 agVel a s1)
      else settle agVel s (mstAccess op a d s1))

-- The debug wire (R518, R520)
/-- R265, R268: an 8-byte debug read of HBM: exempt from the owner check, deciphered under the granule owner's key, or the
ciphertext where that owner holds none. -/
def dbgHbmRead (a : Dpa) (s : State) : Option (List Byte) × State :=
  let n := a.toNat
  let es := hbmChecks n 8 s.hbm
  let s := eccCount es s
  match es.find? (fun e => e.2 == .bad) with
  | some e => (none, logErr .ink 0x0581 agDbg (BitVec.ofNat 48 (8 * e.1)) s)
  | none => (some (hbmBytes (s.keyOf (s.granuleOwner (granuleOf n))) n 8 s.hbm), s)

/-- How a wire access ends: its 64 bits, an error response, or no answer yet. -/
inductive WireR where
  | ok (d : W64)
  | err
  | later

/-- Two 32-bit register accesses, _LO first (R588). -/
def regPairRead (a : Dpa) (s : State) : WireR × State :=
  match regRead agDbg a s with
  | (.ok lo, s) =>
    match regRead agDbg (a + 4) s with
    | (.ok hi, s) => (.ok (hi ++ lo), s)
    | (.err, s) => (.err, s)
    | (_, s) => (.later, s)
  | (.err, s) => (.err, s)
  | (_, s) => (.later, s)

def regPairWrite (a : Dpa) (v : W64) (s : State) : WireR × State :=
  match regWrite agDbg a (fld v 0 32) s with
  | (.ok _, s) =>
    match regWrite agDbg (a + 4) (fld v 32 32) s with
    | (.ok _, s) => (.ok 0, s)
    | (.err, s) => (.err, s)
    | (_, s) => (.later, s)
  | (.err, s) => (.err, s)
  | (_, s) => (.later, s)

/-- What bytes answer. -/
def wireBytes (r : Option (List Byte) × State) : WireR × State :=
  match r with
  | (some bs, s) => (.ok (leWord 64 bs), s)
  | (none, s) => (.err, s)
def wireDone (r : Bool × State) : WireR × State := if r.1 then (.ok 0, r.2) else (.err, r.2)

/-- R520: a 64-bit read at any DPA. -/
def wireMemRead (a : Dpa) (s : State) : WireR × State :=
  if a.toNat < hbmTop then
    match hbmReach agDbg a s with
    | some (.hold, s) => (.later, s)
    | some (_, s) => (.err, s)
    | none => wireBytes (dbgHbmRead a s)
  else if isWindow a then wireBytes (winRead agDbg a 8 s)
  else if isSepiaMem a then wireBytes (lineRead agDbg a 8 s)
  else regPairRead a s

/-- R520: a 64-bit write acting for DBG_ACC_OWNER. -/
def wireMemWrite (a : Dpa) (v : W64) (s : State) : WireR × State :=
  if a.toNat < hbmTop then
    match hbmReach agDbg a s with
    | some (.hold, s) => (.later, s)
    | some (_, s) => (.err, s)
    | none =>
      match hbmWrite (inkAt a.toNat) (actsFor agDbg s) agDbg a.toNat (wordBytes 8 v) s with
      | (none, s) => (.ok 0, s)
      | (some _, s) => (.err, s)
  else if isWindow a then wireDone (winWrite agDbg a 0xFF v s)
  else if isSepiaMem a then wireDone (lineWrite agDbg a (wordBytes 8 v) s)
  else regPairWrite a v s

/-- The response of a wire access; an access that has no answer yet leaves the line waiting (R518, R519). -/
def wireEnd (coll : Bool) (s0 : State) (r : WireR × State) : State :=
  match r with
  | (.ok d, s) => wireAns coll .ok (d.setWidth 512) s
  | (.err, s) => wireAns coll .err 0 s
  | (.later, s) => { s with dbg := { s.dbg with frames := satInc s0.dbg.frames } }

/-- A register access by the wire, as a wire result. -/
def wireReg (a : Dpa) (r : State → AccR × State) (s : State) : WireR × State :=
  if a.toNat % 4 ≠ 0 ∨ a.toNat < 0x030000000000 ∨ 0x030004000000 ≤ a.toNat then (.err, unassigned agDbg a s)
  else match r s with
    | (.ok d, s) => (.ok (d.setWidth 64), s)
    | (.err, s) => (.err, s)
    | (_, s) => (.later, s)

/-- RDREG (R518, R520). -/
def execRdreg (a : Dpa) (coll : Bool) (s : State) : Out :=
  done (if wireOk s then wireEnd coll s (wireReg a (regRead agDbg a) s) else s)

/-- WRREG (R518, R520). -/
def execWrreg (a : Dpa) (v : W32) (coll : Bool) (s : State) : Out :=
  done (if wireOk s then wireEnd coll s (wireReg a (regWrite agDbg a v) s) else s)

/-- RDMEM (R518, R520). -/
def execRdmem (a : Dpa) (coll : Bool) (s : State) : Out :=
  done (if wireOk s then
    wireEnd coll s (if a.toNat % 8 = 0 then wireMemRead a s else (.err, unassigned agDbg a s)) else s)

/-- WRMEM (R518, R520). -/
def execWrmem (a : Dpa) (v : W64) (coll : Bool) (s : State) : Out :=
  done (if wireOk s then
    wireEnd coll s (if a.toNat % 8 = 0 then wireMemWrite a v s else (.err, unassigned agDbg a s)) else s)

end Sys2Proof.Machine
end

