-- ==== Sys2Proof/Machine/Tick.lean ====
section
/-!
DEFINITION. The tick: what every paced island does on a tick (R35), so that all that the spec puts on the tick that ends has
happened before the counter moves on: releases, the plant island, the scheduler, the Inkwells, the Quills and their issues,
the link layer, lock-step, and the crossings' placements. The engines' own work that the spec gives no tick stays with its
rows (log entry 88).
-/
namespace Sys2Proof.Machine

-- Repeating steps
/-- The state a step leaves. -/
def ran (f : State → Out) (s : State) : State := match f s with | .next t => t | .fault _ | .refused _ => s

/-- A step `n` times. -/
def times (n : Nat) (f : State → State) (s : State) : State := match n with | 0 => s | n + 1 => times n f (f s)

/-- A step for every element of a list. -/
def forEach {α : Type} (l : List α) (f : α → State → Out) (s : State) : State := l.foldl (fun s a => ran (f a) s) s

-- Items that are taken as they are released (R42)
/-- The item is taken by its island on its release, with no row of its own. -/
def isDirect (x : XItem) : Bool :=
  match x.pay with
  | .cmd _ | .cpl _ | .seed _ | .regw _ _ _ | .toHost _ | .toSep _ | .pkt _ _ | .pageRep _ _ _ => true
  | _ => false

/-- What the island does with such an item: a command is at its engine, a completion at the scheduler, a register write takes
effect, a message goes out to the host, a source becomes pending, a packet is routed or taken, an answer about a page is
heard. -/
def landed (x : XItem) (s : State) : State :=
  match x.pay with
  | .cmd id => modDisp id (fun d => { d with got := true }) s
  | .cpl id => modDisp id (fun d => { d with back := true }) s
  | .regw ag a v => writeLand ag a v s
  | .toHost (.write a d) => hostWrite a d s
  | .toHost (.msi v) => sendMsi v s
  | .toSep n => srcPend n s
  | .pkt true p => routePkt none p s
  | .pkt false p => engineTake p s
  | .pageRep id p code => s.modLq id (pageTold p code)
  | _ => s

/-- R42: every such item in the inbox is taken. -/
def takeDirect (s : State) : State :=
  s.inbox.foldl (fun s x => if isDirect x then landed x s else s) { s with inbox := s.inbox.filter (fun x => !isDirect x) }

/-- CROSSING_ARRIVE (R41, R42, R78). -/
def execCrossingArrive (i : Nat) (s : State) : Out := done (takeDirect (arrive i s))

/-- CROSSING_RELEASE (R38, R40, R42): the crossing of item `i` releases what is due. -/
def execCrossingRelease (i : Nat) (s : State) : Out :=
  done (match s.xing[i]? with
    | none => s
    | some x => if x.ripe s.now then takeDirect (releaseWhere (fun y => y.cross == x.cross && y.ripe s.now) s) else s)

/-- R38, R40: everything due on this tick is released. -/
def releaseDue (s : State) : State := takeDirect (releaseWhere (XItem.ripe s.now) s)

-- The plant island
/-- R191, R498: the CLAMP requests and the POSTs released on this tick. -/
def plantWork (s : State) : State :=
  let s := if s.plant.tripAge = 3 then ran execTripSeen s else s
  times (s.inbox.filter isPost).length (ran execPostRelease) (times (s.inbox.filter isClampReq).length (ran execClampSample) s)

-- The scheduler island
/-- R215: every command that has finished completes. -/
def completions (s : State) : State :=
  forEach (s.sched.disp.filter (fun d => d.back)) (fun d s => execCommandCompletion d.id.owner d.id.queue
    (if d.undisp then (s.queueAt d.id.owner.toNat d.id.queue.toNat).seq else d.id.seq) s) s

/-- No SYNC_SET of an earlier tick's dispatch is left (R241). -/
def syncSetsDone (s : State) : Bool :=
  !s.sched.disp.any (fun d => !d.undisp && d.cmd.op == 0x01 && d.st == .queued && d.start.ult s.now)

/-- R236, R241: the register writes released before this tick take effect, after its SYNC_SETs. -/
def writesApply (s : State) : State :=
  if syncSetsDone s then
    (s.syncWr.filter (fun w => w.rel.ult s.now)).foldl (fun s w => syncApply w s)
      { s with syncWr := s.syncWr.filter (fun w => !w.rel.ult s.now) }
  else s

/-- The dispatched commands that satisfy `p`, in ascending order of (owner, queue). -/
def dispIds (p : Disp → Bool) (s : State) : List CmdId :=
  (s.sched.disp.filter (fun d => !d.undisp && p d)).foldl (fun l d =>
    let k := fun (i : CmdId) => 8 * i.owner.toNat + i.queue.toNat
    l.filter (fun i => k i ≤ k d.id) ++ [d.id] ++ l.filter (fun i => k d.id < k i)) []

/-- Run the row `f` for every dispatched command of opcode `op`. -/
def forOp (op : Nat) (f : Owner → BitVec 3 → W32 → State → Out) (s : State) : State :=
  forEach (dispIds (fun d => d.cmd.op == op) s) (fun i => f i.owner i.queue i.seq) s

/-- R241, steps 1 and 2: sets, then increments. -/
def syncWork (s : State) : State :=
  let s := completions (writesApply (forOp 0x01 execSyncSet s))
  times (s.inbox.filter isIncr).length (ran execSyncIncrementApply) s

/-- R241, step 3: the queries of WAITs, then the rounds of the engines (R222, R343 to R345). -/
def roundWork (s : State) : State :=
  let s := forEach (List.range s.inbox.length).reverse execWaitQuerySatisfied s
  let s := forOp 0x09 (fun o k n => execExchangeRound o k n []) s
  let s := forOp 0x20 execBoundaryRound s
  let s := forOp 0x20 execBoundaryRoundDone s
  let s := forOp 0x20 execFreexBatch s
  let s := forOp 0x20 execBarrier s
  forOp 0x20 execBoundaryRoundTimeout s

/-- A queue of the KMap by its key. -/
def forQueues (f : Owner → BitVec 3 → State → Out) (s : State) : State :=
  forEach (s.sched.queue.map (·.1)) (fun i => f (BitVec.ofNat 7 (i / 8)) (BitVec.ofNat 3 (i % 8))) s

/-- R209, R210, R213, R241, step 4: header checks, the waits of heads, and the tick's dispatch; a NOP completes at it. -/
def headWork (s : State) : State :=
  forOp 0x00 execNop (forQueues execCommandDispatch (forQueues execCommandWaitSatisfied (forQueues execHeaderCheck s)))

/-- R163, R176, R221, R224: ends, exceptions, STOP and RELEASE, and the commands of the plant engine. -/
def endWork (s : State) : State :=
  let s := times (s.inbox.filter isEndRep).length (ran execEndReportReceive) s
  let s := times (s.inbox.filter isExn).length (ran execQuillExceptionReport) s
  let s := forOp 0x0B execRelease (forOp 0x0A execStop s)
  let s := forOp 0x29 execPlantArm (forOp 0x28 execPlantBind s)
  forEach (s.part.map (·.2.id)) (fun p => execLaunchFaultDrained p.owner p.pid) s

/-- R53, R63, R232: the launches of this tick. -/
def launchWork (s : State) : State :=
  let s := forEach (s.part.map (·.2.id)) (fun p => execAgreedCountMissed p.owner p.pid) s
  forEach (s.part.map (·.2.id)) (fun p => execLaunchTick p.owner p.pid) s

/-- The scheduler's work of a tick; contexts whose key pairs wait come first (R292). -/
def schedWork (s : State) : State :=
  completions (launchWork (endWork (headWork (roundWork (syncWork (completions (enableWaiting s)))))))

-- The Inkwells
/-- R248, R257 to R262: requests, tags, the metered lines, and the metered fetches and swaps that end on this tick. -/
def inkWork (s : State) : State :=
  let s := (List.range 4).foldl (fun s k =>
    times ((s.inbox.filter (reqOf k)).length + s.ink.reqs.length) (pageFetch k) (times (s.wellAt k).tagWait (tagGrant k) s)) s
  let s := inkMetered s
  (s.pq.map (·.1)).foldl (fun s q =>
    match (s.pqAt q).swap with | some w => if s.partMetered w.next.part then swapEnd q s else s | none => s) s

-- The Quills
/-- The physical Quills that hold a logical Quill. -/
def residents (s : State) : List Byte := (s.pq.filter (fun e => e.2.res.isSome)).map (fun e => BitVec.ofNat 8 e.1)

/-- The first flit of the swap buffer whose logical Quill is there. -/
def bufNext (s : State) : Option Nat :=
  s.swapBuf.findIdx? (fun x => match x.pay with | .flit dst _ _ _ _ _ _ => !swappedOut dst s | _ => false)

/-- R42, R60, R159, R162, R191, R529: the Quills accept what this tick releases to them. -/
def inputWork (s : State) : State :=
  let s := times (s.inbox.filter isXt).length (ran execXtRelease) s
  let s := times s.swapBuf.length (fun s => match bufNext s with | some i => ran (execSwapBufferDeliver i) s | none => s) s
  let s := times (s.inbox.filter isFlit).length (ran execFlitRelease) s
  let s := forEach (residents s) execPartitionStop s
  let s := forEach (residents s) execWaitReplyRelease s
  times s.inbox.length (forEach (residents s) execClampReply) s

/-- The rows of a Quill's instructions. -/
def insRows : List (Byte → State → Out) :=
  [execAlu, execAlui, execCmp, execPred, execAddrAset, execAddrAhi, execAddrAadd, execAddrAget, execCtrlNop, execCtrlBr, execCtrlBrr,
   execCtrlEnd, execCtrlLcrd, execCtrlSrrd, execLoop, execLd, execSt, execTrace, execBrk] ++
  [execStrokeInit, execStrokePload, execStrokeDense, execStrokeSparse, execStrokeFactor, execMmaPass, execMmaClr, execMmaStore,
   execAcceptHb, execAcceptMh, execAcceptCat, execAcceptMask, execVar, execBetaAdv, execBetaSet, execBetaLda, execBetaLdc,
   execBetaLds, execBetaSweep] ++
  [execXsend, execXrecv, execPost, execClamp, execWait, execSignal, execPghint, execPcRangeFallThrough]

/-- R146, R148, R151: the instruction that is due on Quill `q` on this tick issues. -/
def issueOne (q : Byte) (s : State) : State := insRows.foldl (fun s f => ran (f q) s) s

/-- R165: a flit has met a full buffer of the logical Quill on `q` on this tick: the exception that an instruction due on the
tick raises is sent after it. -/
def overflowToo (q : Byte) (s : State) : State :=
  match (s.pqAt q.toNat).res with
  | none => s
  | some id =>
    match s.lqOf id with
    | none => s
    | some l =>
      if l.ovfAt = some s.now ∧ l.stopped then
        let t := issueOne q (s.modLq id (fun l => { l with stopped := false, ovfAt := none }))
        if ((t.lqOf id).map (·.stopped)).getD false then t else s
      else s

/-- R158, R176: held SIGNALs, then END reports. -/
def sendWork (s : State) : State :=
  let s := (residents s).foldl (fun s q =>
    match (s.resAt q.toNat).bind s.lqOf with | some l => times l.sig.length (ran (execSignalSend q)) s | none => s) s
  forEach (residents s) execEndReportSend s

/-- R231: the swaps of REPEAT partitions; those of LOOSE partitions are the row's. -/
def swapWork (s : State) : State :=
  (s.pq.map (·.1)).foldl (fun s q => if residentMetered s q then quillSwap q s else s) s

/-- The Quills' work of a tick. -/
def quillWork (s : State) : State :=
  let s := inputWork s
  let s := (residents s).foldl (fun s q => overflowToo q (issueOne q s)) s
  swapWork (sendWork s)

-- The link layer and the collective engine
/-- R315, R322 to R324, R330, R334, R336, R338: packets whose hop is over, tick requests, and the time limits that ticks
measure. -/
def linkWork (s : State) : State :=
  let s := ran execTickReplyMissing (tickReqNow s)
  let s := forEach (s.kl.link.map (·.1)) (fun l s =>
    done (forEach (List.range 6) (fun b s =>
      done (times (s.linkAt l).rx.length (ran (execPacketRelease (BitVec.ofNat 4 l) (BitVec.ofNat 3 b))) s)) s)) s
  let s := forEach (s.kl.link.map (·.1)) (fun l => execNakRepeat (BitVec.ofNat 4 l)) s
  let s := forEach (s.kl.link.map (·.1)) (fun l => execReplayTimeout (BitVec.ofNat 4 l)) s
  let s := (s.kl.link.map (·.1)).foldl (fun s l => if (s.linkAt l).reportDue s.now then linkSend l s else s) s
  forEach (s.kl.tag.map (·.1)) (fun t => execRemoteRequestTimeout (BitVec.ofNat 10 t)) s

/-- R72, R76, R77: lock-step. -/
def lsWork (s : State) : State := lsTimeout (lsEpochStep (lsRelease s))

-- The crossings
/-- R39: place every held item that its crossing takes on this tick, at most `n`. -/
def placeAll : Nat → State → State
  | 0, s => s
  | n + 1, s =>
    match s.latch.zipIdx.find? (fun e => latchTurn e.2 e.1 s) with
    | none => s
    | some e => placeAll n (placeItem e.1 { s with latch := dropAt s.latch e.2 })

/-- The writes of stores that fall on this tick are in the stores after it (R127, R148). -/
def storesSettle (s : State) : State :=
  { s with pq := s.pq.map (fun (e : Nat × Pq) =>
      (e.1, e.2.settleWr (match e.2.res.bind s.lqOf with | some l => l.xt | none => 0))) }

/-- What ends with the tick: writes and table changes settle, held items are placed, flits injected, and the fabric settles on
the plant port's new levels (R39, R45, R127, R267). -/
def endOfTick (s : State) : State :=
  let s := watchSettle (watchFires (ran execTraceDrain (ownSettle (storesSettle s))))
  let s := placeAll s.latch.length s
  let s := { s with xing := s.xing.map (XItem.inject s.now), sched := { s.sched with subs := [] } }
  let s := { s with ink := { s.ink with
    lineBy := [], busy := [], well := s.ink.well.map (fun (e : Nat × Inkwell) => (e.1, { e.2 with metered := 0, moved := 0 })) } }
  fabRun s

/-- R554: the domains in DRAIN that have nothing in flight enter GATED. -/
def drainWork (s : State) : State :=
  ((s.pwr.dom.filter (fun e => e.2.st == .drain && e.2.inflight == 0)).map (·.1)).foldl
    (fun s d => ran (execDomainDrained (BitVec.ofNat 6 d)) s) s

/-- R35: what the paced islands do on the tick that ends. -/
def tickWork (s : State) : State :=
  let s := ran execServiceWindowEnd (ran execServiceWindowBegin s)
  let s := plantWork (releaseDue s)
  let s := schedWork (lsRelease s)
  let s := inkWork s
  let s := quillWork s
  let s := linkWork (lsWork s)
  let s := patrolTick (forEach (s.pq.map (·.1)) (fun q => execBackgroundStarvation (BitVec.ofNat 8 q)) s)
  drainWork (endOfTick s)

/-- R32, R83: the counter takes its next count; what a new tick begins with: execution ticks, the plant port's update, and the
register writes of sync objects that no SYNC_SET precedes (R236, R241). -/
def nextTick (s : State) : State :=
  let s := { s with pq := s.pq.map (fun (e : Nat × Pq) => (e.1, pqTick s e.1 e.2)) }
  let s := { s with now := nextCount s, tk := { s.tk with pend := none } }
  let s := writesApply (klTick (plantTick { s with dbg := { s.dbg with trDone := false } }))
  { s with part := s.part.map (fun e => (e.1, partTick s e.2)) }

/-- TICK (R32, R35). -/
def execTick (s : State) : Out := done (if tickRuns s then nextTick (tickWork s) else s)

end Sys2Proof.Machine
end

