-- ==== Sys2Proof/Machine/Dispatch.lean ====
section
/-!
DEFINITION. exec: one arm per command, each one direct call of its meaning.
-/
namespace Sys2Proof.Machine

def exec (i : Instr) (s : State) : Host.Outcome State Fault Refusal :=
  match i with
  | .tick => Sys2Proof.Machine.execTick s
  | .pairReadLo ag a => Sys2Proof.Machine.execPairReadLo ag a s
  | .pairReadHi ag a => Sys2Proof.Machine.execPairReadHi ag a s
  | .pairWriteLo ag a v => Sys2Proof.Machine.execPairWriteLo ag a v s
  | .pairWriteHi ag a v => Sys2Proof.Machine.execPairWriteHi ag a v s
  | .errlogCodeRead ag a => Sys2Proof.Machine.execErrlogCodeRead ag a s
  | .rcRegisterRead ag a => Sys2Proof.Machine.execRcRegisterRead ag a s
  | .registerWrite ag a v => Sys2Proof.Machine.execRegisterWrite ag a v s
  | .crossingArrive j => Sys2Proof.Machine.execCrossingArrive j s
  | .crossingRelease j => Sys2Proof.Machine.execCrossingRelease j s
  | .sendLatchPlace j => Sys2Proof.Machine.execSendLatchPlace j s
  | .flitInject j => Sys2Proof.Machine.execFlitInject j s
  | .flitRelease => Sys2Proof.Machine.execFlitRelease s
  | .swapBufferDeliver j => Sys2Proof.Machine.execSwapBufferDeliver j s
  | .serviceWindowBegin => Sys2Proof.Machine.execServiceWindowBegin s
  | .serviceWindowEnd => Sys2Proof.Machine.execServiceWindowEnd s
  | .launchTick o pid => Sys2Proof.Machine.execLaunchTick o pid s
  | .agreedCountMissed o pid => Sys2Proof.Machine.execAgreedCountMissed o pid s
  | .tickLoad => Sys2Proof.Machine.execTickLoad s
  | .syncEn v => Sys2Proof.Machine.execSyncEn v s
  | .lsEnable v => Sys2Proof.Machine.execLsEnable v s
  | .lsEpochEnd => Sys2Proof.Machine.execLsEpochEnd s
  | .lsRecordReceive r => Sys2Proof.Machine.execLsRecordReceive r s
  | .lsPartnerTimeout => Sys2Proof.Machine.execLsPartnerTimeout s
  | .lsHoldRelease => Sys2Proof.Machine.execLsHoldRelease s
  | .storeWindowRead ag a len => Sys2Proof.Machine.execStoreWindowRead ag a len s
  | .storeWindowWrite ag a mask d => Sys2Proof.Machine.execStoreWindowWrite ag a mask d s
  | .nnCalibrationStart q => Sys2Proof.Machine.execNnCalibrationStart q s
  | .nnCalibrationEnd q trims met accepts => Sys2Proof.Machine.execNnCalibrationEnd q trims met accepts s
  | .alu q => Sys2Proof.Machine.execAlu q s
  | .alui q => Sys2Proof.Machine.execAlui q s
  | .cmp q => Sys2Proof.Machine.execCmp q s
  | .pred q => Sys2Proof.Machine.execPred q s
  | .addrAset q => Sys2Proof.Machine.execAddrAset q s
  | .addrAhi q => Sys2Proof.Machine.execAddrAhi q s
  | .addrAadd q => Sys2Proof.Machine.execAddrAadd q s
  | .addrAget q => Sys2Proof.Machine.execAddrAget q s
  | .ctrlNop q => Sys2Proof.Machine.execCtrlNop q s
  | .ctrlBr q => Sys2Proof.Machine.execCtrlBr q s
  | .ctrlBrr q => Sys2Proof.Machine.execCtrlBrr q s
  | .ctrlEnd q => Sys2Proof.Machine.execCtrlEnd q s
  | .ctrlLcrd q => Sys2Proof.Machine.execCtrlLcrd q s
  | .ctrlSrrd q => Sys2Proof.Machine.execCtrlSrrd q s
  | .loop q => Sys2Proof.Machine.execLoop q s
  | .pcRangeFallThrough q => Sys2Proof.Machine.execPcRangeFallThrough q s
  | .ld q => Sys2Proof.Machine.execLd q s
  | .st q => Sys2Proof.Machine.execSt q s
  | .strokeInit q => Sys2Proof.Machine.execStrokeInit q s
  | .strokePload q => Sys2Proof.Machine.execStrokePload q s
  | .strokeDense q => Sys2Proof.Machine.execStrokeDense q s
  | .strokeSparse q => Sys2Proof.Machine.execStrokeSparse q s
  | .strokeFactor q => Sys2Proof.Machine.execStrokeFactor q s
  | .mmaPass q => Sys2Proof.Machine.execMmaPass q s
  | .mmaClr q => Sys2Proof.Machine.execMmaClr q s
  | .mmaStore q => Sys2Proof.Machine.execMmaStore q s
  | .acceptHb q => Sys2Proof.Machine.execAcceptHb q s
  | .acceptMh q => Sys2Proof.Machine.execAcceptMh q s
  | .acceptCat q => Sys2Proof.Machine.execAcceptCat q s
  | .acceptMask q => Sys2Proof.Machine.execAcceptMask q s
  | .var q => Sys2Proof.Machine.execVar q s
  | .betaAdv q => Sys2Proof.Machine.execBetaAdv q s
  | .betaSet q => Sys2Proof.Machine.execBetaSet q s
  | .betaLda q => Sys2Proof.Machine.execBetaLda q s
  | .betaLdc q => Sys2Proof.Machine.execBetaLdc q s
  | .betaLds q => Sys2Proof.Machine.execBetaLds q s
  | .betaSweep q => Sys2Proof.Machine.execBetaSweep q s
  | .xsend q => Sys2Proof.Machine.execXsend q s
  | .xrecv q => Sys2Proof.Machine.execXrecv q s
  | .post q => Sys2Proof.Machine.execPost q s
  | .clamp q => Sys2Proof.Machine.execClamp q s
  | .clampSample => Sys2Proof.Machine.execClampSample s
  | .clampReply q => Sys2Proof.Machine.execClampReply q s
  | .wait q => Sys2Proof.Machine.execWait q s
  | .waitQuerySatisfied j => Sys2Proof.Machine.execWaitQuerySatisfied j s
  | .waitReplyRelease q => Sys2Proof.Machine.execWaitReplyRelease q s
  | .signal q => Sys2Proof.Machine.execSignal q s
  | .signalSend q => Sys2Proof.Machine.execSignalSend q s
  | .syncIncrementApply => Sys2Proof.Machine.execSyncIncrementApply s
  | .pghint q => Sys2Proof.Machine.execPghint q s
  | .trace q => Sys2Proof.Machine.execTrace q s
  | .brk q => Sys2Proof.Machine.execBrk q s
  | .endReportSend q => Sys2Proof.Machine.execEndReportSend q s
  | .endReportReceive => Sys2Proof.Machine.execEndReportReceive s
  | .quillExceptionReport => Sys2Proof.Machine.execQuillExceptionReport s
  | .partitionStop q => Sys2Proof.Machine.execPartitionStop q s
  | .launchFaultDrained o pid => Sys2Proof.Machine.execLaunchFaultDrained o pid s
  | .quillSwap q => Sys2Proof.Machine.execQuillSwap q s
  | .swapComplete q => Sys2Proof.Machine.execSwapComplete q s
  | .quillMove q q' => Sys2Proof.Machine.execQuillMove q q' s
  | .pageFetch k => Sys2Proof.Machine.execPageFetch k s
  | .pageWalkDone j => Sys2Proof.Machine.execPageWalkDone j s
  | .pageResident j h => Sys2Proof.Machine.execPageResident j h s
  | .ctxEnableSet o => Sys2Proof.Machine.execCtxEnableSet o s
  | .ctxEnableClear o => Sys2Proof.Machine.execCtxEnableClear o s
  | .contextDrainDone o => Sys2Proof.Machine.execContextDrainDone o s
  | .doorbell o k v => Sys2Proof.Machine.execDoorbell o k v s
  | .qEnable o k v => Sys2Proof.Machine.execQEnable o k v s
  | .ringSlotFetch o k h => Sys2Proof.Machine.execRingSlotFetch o k h s
  | .qStoppedClear o k => Sys2Proof.Machine.execQStoppedClear o k s
  | .headerCheck o k => Sys2Proof.Machine.execHeaderCheck o k s
  | .commandWaitSatisfied o k => Sys2Proof.Machine.execCommandWaitSatisfied o k s
  | .commandDispatch o k => Sys2Proof.Machine.execCommandDispatch o k s
  | .commandCompletion o k n => Sys2Proof.Machine.execCommandCompletion o k n s
  | .nop o k n => Sys2Proof.Machine.execNop o k n s
  | .syncSet o k n => Sys2Proof.Machine.execSyncSet o k n s
  | .launch o k n h => Sys2Proof.Machine.execLaunch o k n h s
  | .launchPlace o pid h => Sys2Proof.Machine.execLaunchPlace o pid h s
  | .exchange o k n h => Sys2Proof.Machine.execExchange o k n h s
  | .exchangeRound o k n h => Sys2Proof.Machine.execExchangeRound o k n h s
  | .stop o k n => Sys2Proof.Machine.execStop o k n s
  | .release o k n => Sys2Proof.Machine.execRelease o k n s
  | .copy o k n h => Sys2Proof.Machine.execCopy o k n h s
  | .pageInval o k n => Sys2Proof.Machine.execPageInval o k n s
  | .sort o k n h => Sys2Proof.Machine.execSort o k n h s
  | .allReduce o k n h peers => Sys2Proof.Machine.execAllReduce o k n h peers s
  | .allGather o k n h peers => Sys2Proof.Machine.execAllGather o k n h peers s
  | .broadcast o k n h peers => Sys2Proof.Machine.execBroadcast o k n h peers s
  | .boundaryExchange o k n h => Sys2Proof.Machine.execBoundaryExchange o k n h s
  | .barrier o k n => Sys2Proof.Machine.execBarrier o k n s
  | .sampleSort o k n h peers => Sys2Proof.Machine.execSampleSort o k n h peers s
  | .collCtlReceive g src fields => Sys2Proof.Machine.execCollCtlReceive g src fields s
  | .collGrpValid g v => Sys2Proof.Machine.execCollGrpValid g v s
  | .plantBind o k n => Sys2Proof.Machine.execPlantBind o k n s
  | .plantArm o k n => Sys2Proof.Machine.execPlantArm o k n s
  | .syncAlloc ag o => Sys2Proof.Machine.execSyncAlloc ag o s
  | .syncFree o n => Sys2Proof.Machine.execSyncFree o n s
  | .syncCountWrite o n thresh v => Sys2Proof.Machine.execSyncCountWrite o n thresh v s
  | .syncAdd o n v => Sys2Proof.Machine.execSyncAdd o n v s
  | .inkEnable v => Sys2Proof.Machine.execInkEnable v s
  | .bar4Access off wr len d => Sys2Proof.Machine.execBar4Access off wr len d s
  | .inkwellTagGrant k => Sys2Proof.Machine.execInkwellTagGrant k s
  | .hcEnable o v => Sys2Proof.Machine.execHcEnable o v s
  | .hcInitDone o => Sys2Proof.Machine.execHcInitDone o s
  | .pageOwnerWrite g v => Sys2Proof.Machine.execPageOwnerWrite g v s
  | .hbmRefresh stk => Sys2Proof.Machine.execHbmRefresh stk s
  | .patrolRead stk => Sys2Proof.Machine.execPatrolRead stk s
  | .rawBit r b => Sys2Proof.Machine.execRawBit r b s
  | .blockOffered => Sys2Proof.Machine.execBlockOffered s
  | .sourceRestartDone r => Sys2Proof.Machine.execSourceRestartDone r s
  | .startupTestDone r => Sys2Proof.Machine.execStartupTestDone r s
  | .fatalStartupTimeout => Sys2Proof.Machine.execFatalStartupTimeout s
  | .clearFatal => Sys2Proof.Machine.execClearFatal s
  | .instantiate j => Sys2Proof.Machine.execInstantiate j s
  | .reseed j => Sys2Proof.Machine.execReseed j s
  | .autoReseed j => Sys2Proof.Machine.execAutoReseed j s
  | .drbgOperationDone j => Sys2Proof.Machine.execDrbgOperationDone j s
  | .swPortGenerate host => Sys2Proof.Machine.execSwPortGenerate host s
  | .swSepiaData ag => Sys2Proof.Machine.execSwSepiaData ag s
  | .swHostData ag => Sys2Proof.Machine.execSwHostData ag s
  | .cipherMaskRefresh => Sys2Proof.Machine.execCipherMaskRefresh s
  | .klEnable v => Sys2Proof.Machine.execKlEnable v s
  | .linkTrained l ok chip link dim dir => Sys2Proof.Machine.execLinkTrained l ok chip link dim dir s
  | .frameOpportunity l => Sys2Proof.Machine.execFrameOpportunity l s
  | .dataFrame l f => Sys2Proof.Machine.execDataFrame l f s
  | .linkFrame l f => Sys2Proof.Machine.execLinkFrame l f s
  | .badFrame l why => Sys2Proof.Machine.execBadFrame l why s
  | .nakRepeat l => Sys2Proof.Machine.execNakRepeat l s
  | .replayTimeout l => Sys2Proof.Machine.execReplayTimeout l s
  | .packetRelease l b => Sys2Proof.Machine.execPacketRelease l b s
  | .remoteRequest => Sys2Proof.Machine.execRemoteRequest s
  | .remoteResponse => Sys2Proof.Machine.execRemoteResponse s
  | .remoteRequestTimeout tag => Sys2Proof.Machine.execRemoteRequestTimeout tag s
  | .tickReqSend phase => Sys2Proof.Machine.execTickReqSend phase s
  | .tickReqReceive l f t2 t3 => Sys2Proof.Machine.execTickReqReceive l f t2 t3 s
  | .tickReply f t4 => Sys2Proof.Machine.execTickReply f t4 s
  | .tickReplyMissing => Sys2Proof.Machine.execTickReplyMissing s
  | .acquire => Sys2Proof.Machine.execAcquire s
  | .syncOutPulse => Sys2Proof.Machine.execSyncOutPulse s
  | .syncInEdge t => Sys2Proof.Machine.execSyncInEdge t s
  | .boundaryRound o k n => Sys2Proof.Machine.execBoundaryRound o k n s
  | .boundaryRoundDone o k n => Sys2Proof.Machine.execBoundaryRoundDone o k n s
  | .freexBatch o k n => Sys2Proof.Machine.execFreexBatch o k n s
  | .boundaryRoundTimeout o k n => Sys2Proof.Machine.execBoundaryRoundTimeout o k n s
  | .coreInstruction c => Sys2Proof.Machine.execCoreInstruction c s
  | .busGrant => Sys2Proof.Machine.execBusGrant s
  | .busrd => Sys2Proof.Machine.execBusrd s
  | .busrdx => Sys2Proof.Machine.execBusrdx s
  | .busupgr => Sys2Proof.Machine.execBusupgr s
  | .evc => Sys2Proof.Machine.execEvc s
  | .wb => Sys2Proof.Machine.execWb s
  | .nrd => Sys2Proof.Machine.execNrd s
  | .nwr => Sys2Proof.Machine.execNwr s
  | .namo => Sys2Proof.Machine.execNamo s
  | .uncachedAccess c => Sys2Proof.Machine.execUncachedAccess c s
  | .reservationDeferExpiry c => Sys2Proof.Machine.execReservationDeferExpiry c s
  | .irqSourceActive src => Sys2Proof.Machine.execIrqSourceActive src s
  | .externalInterruptEntry c => Sys2Proof.Machine.execExternalInterruptEntry c s
  | .mtimecmpMatch c => Sys2Proof.Machine.execMtimecmpMatch c s
  | .sepClaim ag c => Sys2Proof.Machine.execSepClaim ag c s
  | .sepComplete c v => Sys2Proof.Machine.execSepComplete c v s
  | .snoopTimeout c => Sys2Proof.Machine.execSnoopTimeout c s
  | .sepDomrst => Sys2Proof.Machine.execSepDomrst s
  | .sepDomrstDone => Sys2Proof.Machine.execSepDomrstDone s
  | .sepRun v => Sys2Proof.Machine.execSepRun v s
  | .bflProgram => Sys2Proof.Machine.execBflProgram s
  | .bflErase => Sys2Proof.Machine.execBflErase s
  | .flashOperationDone f => Sys2Proof.Machine.execFlashOperationDone f s
  | .velReleaseSet => Sys2Proof.Machine.execVelReleaseSet s
  | .velReleaseClear => Sys2Proof.Machine.execVelReleaseClear s
  | .releaseStage => Sys2Proof.Machine.execReleaseStage s
  | .velDly p tap => Sys2Proof.Machine.execVelDly p tap s
  | .tapStep p => Sys2Proof.Machine.execTapStep p s
  | .uflFabricRead wa => Sys2Proof.Machine.execUflFabricRead wa s
  | .uflProgram fab wa => Sys2Proof.Machine.execUflProgram fab wa s
  | .uflErase fab wa => Sys2Proof.Machine.execUflErase fab wa s
  | .velUflData ag => Sys2Proof.Machine.execVelUflData ag s
  | .serialPortEn n v => Sys2Proof.Machine.execSerialPortEn n v s
  | .txdata n v => Sys2Proof.Machine.execTxdata n v s
  | .rxdata ag n => Sys2Proof.Machine.execRxdata ag n s
  | .serialRxWord n v => Sys2Proof.Machine.execSerialRxWord n v s
  | .velProbeEn n v => Sys2Proof.Machine.execVelProbeEn n v s
  | .slaveWindowAccess ag a wr v => Sys2Proof.Machine.execSlaveWindowAccess ag a wr v s
  | .slvAck rdata err => Sys2Proof.Machine.execSlvAck rdata err s
  | .slvAckTimeout => Sys2Proof.Machine.execSlvAckTimeout s
  | .mstReq op a d => Sys2Proof.Machine.execMstReq op a d s
  | .mstAck => Sys2Proof.Machine.execMstAck s
  | .bramCollision r words => Sys2Proof.Machine.execBramCollision r words s
  | .bootLoad stream => Sys2Proof.Machine.execBootLoad stream s
  | .loadDone => Sys2Proof.Machine.execLoadDone s
  | .cfgClkGapTimeout => Sys2Proof.Machine.execCfgClkGapTimeout s
  | .velCfgLoad stream => Sys2Proof.Machine.execVelCfgLoad stream s
  | .velCfgData v => Sys2Proof.Machine.execVelCfgData v s
  | .velRbFrame f => Sys2Proof.Machine.execVelRbFrame f s
  | .irpBegin fab w => Sys2Proof.Machine.execIrpBegin fab w s
  | .irpFrame fab w d crc => Sys2Proof.Machine.execIrpFrame fab w d crc s
  | .irpEnd fab w => Sys2Proof.Machine.execIrpEnd fab w s
  | .irpRead fab w => Sys2Proof.Machine.execIrpRead fab w s
  | .irpAbort fab w => Sys2Proof.Machine.execIrpAbort fab w s
  | .velLockSet v => Sys2Proof.Machine.execVelLockSet v s
  | .velLockClr v => Sys2Proof.Machine.execVelLockClr v s
  | .cflProgram => Sys2Proof.Machine.execCflProgram s
  | .cflErase => Sys2Proof.Machine.execCflErase s
  | .primaryGoldenWrite v => Sys2Proof.Machine.execPrimaryGoldenWrite v s
  | .scrubPass => Sys2Proof.Machine.execScrubPass s
  | .scrubFault vote rom => Sys2Proof.Machine.execScrubFault vote rom s
  | .postRelease => Sys2Proof.Machine.execPostRelease s
  | .disarmAll => Sys2Proof.Machine.execDisarmAll s
  | .evidenceWrite m v => Sys2Proof.Machine.execEvidenceWrite m v s
  | .plantEvWrData v => Sys2Proof.Machine.execPlantEvWrData v s
  | .tripAssert => Sys2Proof.Machine.execTripAssert s
  | .tripSeen => Sys2Proof.Machine.execTripSeen s
  | .tripDeassert => Sys2Proof.Machine.execTripDeassert s
  | .tripClr => Sys2Proof.Machine.execTripClr s
  | .wakePulse => Sys2Proof.Machine.execWakePulse s
  | .wake arg => Sys2Proof.Machine.execWake arg s
  | .sleep => Sys2Proof.Machine.execSleep s
  | .sessionTimeout => Sys2Proof.Machine.execSessionTimeout s
  | .wireFrameError => Sys2Proof.Machine.execWireFrameError s
  | .idcode coll => Sys2Proof.Machine.execIdcode coll s
  | .rdreg a coll => Sys2Proof.Machine.execRdreg a coll s
  | .wrreg a v coll => Sys2Proof.Machine.execWrreg a v coll s
  | .rdmem a coll => Sys2Proof.Machine.execRdmem a coll s
  | .wrmem a v coll => Sys2Proof.Machine.execWrmem a v coll s
  | .halt m coll => Sys2Proof.Machine.execHalt m coll s
  | .resume m coll => Sys2Proof.Machine.execResume m coll s
  | .step c coll => Sys2Proof.Machine.execStep c coll s
  | .vtrd coll => Sys2Proof.Machine.execVtrd coll s
  | .vtwr v coll => Sys2Proof.Machine.execVtwr v coll s
  | .wireAccessTimeout => Sys2Proof.Machine.execWireAccessTimeout s
  | .dbgXtFire ag m => Sys2Proof.Machine.execDbgXtFire ag m s
  | .dbgXtResume ag m => Sys2Proof.Machine.execDbgXtResume ag m s
  | .xtRelease => Sys2Proof.Machine.execXtRelease s
  | .dbgCoreHalt c => Sys2Proof.Machine.execDbgCoreHalt c s
  | .dbgCoreResume c => Sys2Proof.Machine.execDbgCoreResume c s
  | .dbgCoreStep c => Sys2Proof.Machine.execDbgCoreStep c s
  | .dbgCoreData ag c wr v => Sys2Proof.Machine.execDbgCoreData ag c wr v s
  | .dbgQwTgt v => Sys2Proof.Machine.execDbgQwTgt v s
  | .traceDrain => Sys2Proof.Machine.execTraceDrain s
  | .patchUnitWrite n v => Sys2Proof.Machine.execPatchUnitWrite n v s
  | .patchRamWrite n k v => Sys2Proof.Machine.execPatchRamWrite n k v s
  | .dbgVtTx ag wr v => Sys2Proof.Machine.execDbgVtTx ag wr v s
  | .dbgVtRx ag wr v => Sys2Proof.Machine.execDbgVtRx ag wr v s
  | .domainGateRequest d => Sys2Proof.Machine.execDomainGateRequest d s
  | .domainRunRequest d => Sys2Proof.Machine.execDomainRunRequest d s
  | .domainDrained d => Sys2Proof.Machine.execDomainDrained d s
  | .domainWakeDone d => Sys2Proof.Machine.execDomainWakeDone d s
  | .plantOnlyRequest => Sys2Proof.Machine.execPlantOnlyRequest s
  | .keepaliveRequest => Sys2Proof.Machine.execKeepaliveRequest s
  | .wakeEvent e wall => Sys2Proof.Machine.execWakeEvent e wall s
  | .powerOnReset => Sys2Proof.Machine.execPowerOnReset s
  | .externalReset => Sys2Proof.Machine.execExternalReset s
  | .externalResetRelease => Sys2Proof.Machine.execExternalResetRelease s
  | .longHold => Sys2Proof.Machine.execLongHold s
  | .hostReset hot => Sys2Proof.Machine.execHostReset hot s
  | .warm => Sys2Proof.Machine.execWarm s
  | .velFabric => Sys2Proof.Machine.execVelFabric s
  | .releasePoint => Sys2Proof.Machine.execReleasePoint s
  | .supplyFault doms => Sys2Proof.Machine.execSupplyFault doms s
  | .surrEnableSet => Sys2Proof.Machine.execSurrEnableSet s
  | .surrEnableClear => Sys2Proof.Machine.execSurrEnableClear s
  | .apply => Sys2Proof.Machine.execApply s
  | .glbOwnWrite v => Sys2Proof.Machine.execGlbOwnWrite v s
  | .telemetrySample power temps => Sys2Proof.Machine.execTelemetrySample power temps s
  | .backgroundStarvation q => Sys2Proof.Machine.execBackgroundStarvation q s
  | .hostSwint m => Sys2Proof.Machine.execHostSwint m s
  | .hostIrqStatusClear m => Sys2Proof.Machine.execHostIrqStatusClear m s
  | .msixCauseActive v => Sys2Proof.Machine.execMsixCauseActive v s
  | .msixUnmask v => Sys2Proof.Machine.execMsixUnmask v s
  | .outboundReadTimeout o k => Sys2Proof.Machine.execOutboundReadTimeout o k s
  | .barAccessError bar off wr => Sys2Proof.Machine.execBarAccessError bar off wr s
  | .vccioFault b => Sys2Proof.Machine.execVccioFault b s
  | .vccioRestored b => Sys2Proof.Machine.execVccioRestored b s
  | .hbmTrainingDone => Sys2Proof.Machine.execHbmTrainingDone s
  | .laneLockLost l => Sys2Proof.Machine.execLaneLockLost l s
  | .xtal32Start => Sys2Proof.Machine.execXtal32Start s
  | .uncachedAccessResponse c => Sys2Proof.Machine.execUncachedAccessResponse c s
  | .cfgClkRisingEdge din => Sys2Proof.Machine.execCfgClkRisingEdge din s
  | .serialTxWord n acked => Sys2Proof.Machine.execSerialTxWord n acked s
  | .pcieLinkUp gen5 width => Sys2Proof.Machine.execPcieLinkUp gen5 width s
  | .pcieD3hot v => Sys2Proof.Machine.execPcieD3hot v s
  | .restingLevelChange level => Sys2Proof.Machine.execRestingLevelChange level s

end Sys2Proof.Machine
end

