-- ==== Sys2Proof/WellFormed.lean ====
section
/-!
DEFINITION. Well-formed commands: each operand names something that the chip has. A command that is not well formed is no
step of the spec; its meaning leaves the state as it is (log entry 9) or treats the operand as the spec treats such a value.
-/
namespace Sys2Proof

/-- R201: an owner number: the device firmware or a context. -/
def ownerOk (o : Owner) : Bool := o.toNat ≤ 64

/-- R602, Table 17.9: an agent id. -/
def agentOk (ag : Agent) : Bool :=
  ag.toNat < 0x108 || ag == 0x110 || (0x120 ≤ ag.toNat && ag.toNat < 0x124) ||
  [0x130, 0x140, 0x150, 0x160, 0x170, 0x180, 0x190].contains ag.toNat

/-- What host memory answers: rising addresses. -/
def hostOk : HostBytes → Bool
  | [] => true
  | [_] => true
  | a :: b :: cs => a.1 < b.1 && hostOk (b :: cs)

/-- R588: a register access covers one aligned 32-bit word. -/
def wordAddrOk (a : Dpa) : Bool := a.toNat % 4 == 0

/-- R549, Table 16.1: a power domain. -/
def domainOk (d : BitVec 6) : Bool := d.toNat ≤ 40

/-- R75: the details of a lock-step record: all 64 digests of a Quill and all 128 words of a region, or none. -/
def recordOk (r : LsRecord) : Bool :=
  (r.regions.length == 0 || r.regions.length == 64) && (r.words.length == 0 || r.words.length == 128) && r.cQ.length ≤ 256

/-- The operands of a command name things that the chip has. -/
def Instr.wf (i : Instr) : Bool :=
  match i with
  | .pairReadLo ag a | .pairReadHi ag a | .errlogCodeRead ag a | .rcRegisterRead ag a => agentOk ag && wordAddrOk a
  | .pairWriteLo ag a _ | .pairWriteHi ag a _ | .registerWrite ag a _ | .slaveWindowAccess ag a _ _ => agentOk ag && wordAddrOk a
  | .storeWindowRead ag _ len => agentOk ag && 1 ≤ len && len ≤ 64
  | .storeWindowWrite ag a _ _ => agentOk ag && a.toNat % 8 == 0
  | .nnCalibrationEnd _ trims _ accepts => trims.length == 256 && accepts.toNat ≤ 4096
  | .launchTick o _ | .agreedCountMissed o _ | .launchFaultDrained o _ => ownerOk o
  | .lsRecordReceive r => recordOk r
  | .pageResident _ h => hostOk h
  | .ctxEnableSet o | .ctxEnableClear o | .contextDrainDone o | .hcInitDone o => ownerOk o
  | .doorbell o _ _ | .qEnable o _ _ | .qStoppedClear o _ | .headerCheck o _ | .commandWaitSatisfied o _
  | .commandDispatch o _ | .commandCompletion o _ _ | .outboundReadTimeout o _ => ownerOk o
  | .ringSlotFetch o _ h => ownerOk o && hostOk h
  | .nop o _ _ | .syncSet o _ _ | .stop o _ _ | .release o _ _ | .pageInval o _ _ | .barrier o _ _ | .plantBind o _ _
  | .plantArm o _ _ | .boundaryRound o _ _ | .boundaryRoundDone o _ _ | .freexBatch o _ _ | .boundaryRoundTimeout o _ _ => ownerOk o
  | .launch o _ _ h | .exchange o _ _ h | .exchangeRound o _ _ h | .copy o _ _ h | .sort o _ _ h | .boundaryExchange o _ _ h =>
    ownerOk o && hostOk h
  | .launchPlace o _ h => ownerOk o && hostOk h
  | .allReduce o _ _ h _ | .allGather o _ _ h _ | .broadcast o _ _ h _ | .sampleSort o _ _ h _ => ownerOk o && hostOk h
  | .syncAlloc ag o => agentOk ag && ownerOk o
  | .syncFree o _ | .syncCountWrite o _ _ _ | .syncAdd o _ _ | .hcEnable o _ => ownerOk o
  | .bar4Access off _ len _ => 1 ≤ len && len ≤ 64 && off.toNat % 64 + len ≤ 64
  | .pageOwnerWrite g _ => g.toNat < 49152
  | .hbmRefresh stk | .patrolRead stk => stk.toNat < 6
  | .instantiate j | .reseed j | .autoReseed j | .drbgOperationDone j => j.toNat < 5
  | .swSepiaData ag | .swHostData ag | .sepClaim ag _ | .velUflData ag | .dbgXtFire ag _ | .dbgXtResume ag _
  | .dbgVtTx ag _ _ | .dbgVtRx ag _ _ | .dbgCoreData ag _ _ _ => agentOk ag
  | .rxdata ag n => agentOk ag && n.toNat < 6
  | .serialPortEn n _ | .txdata n _ | .serialRxWord n _ | .serialTxWord n _ => n.toNat < 6
  | .velDly p _ | .tapStep p => p.toNat < 192
  | .irqSourceActive src => src.toNat ≤ 28
  | .flashOperationDone f => f.toNat < 3
  | .bramCollision r words => r.toNat < 16 && words.all (fun w => w.1 < 2 ^ 20)
  | .domainGateRequest d | .domainRunRequest d | .domainDrained d | .domainWakeDone d => domainOk d
  | .supplyFault ds => ds.all domainOk
  | .telemetrySample _ temps => temps.length == 8
  | .msixCauseActive v => 65 ≤ v.toNat && v.toNat < 80
  | .msixUnmask v => v.toNat < 80
  | .barAccessError bar _ _ => bar == 0 || bar == 2 || bar == 4
  | .vccioFault b | .vccioRestored b => b.toNat < 4
  | .pcieLinkUp _ width => [1, 2, 4, 8, 16].contains width.toNat
  | .tick | .crossingArrive _ | .crossingRelease _ | .sendLatchPlace _ | .flitInject _ | .flitRelease | .swapBufferDeliver _
  | .serviceWindowBegin | .serviceWindowEnd | .tickLoad | .syncEn _ | .lsEnable _ | .lsEpochEnd | .lsPartnerTimeout
  | .lsHoldRelease | .nnCalibrationStart _ => true
  | .alu _ | .alui _ | .cmp _ | .pred _ | .addrAset _ | .addrAhi _ | .addrAadd _ | .addrAget _ | .ctrlNop _ | .ctrlBr _
  | .ctrlBrr _ | .ctrlEnd _ | .ctrlLcrd _ | .ctrlSrrd _ | .loop _ | .pcRangeFallThrough _ | .ld _ | .st _ | .strokeInit _
  | .strokePload _ | .strokeDense _ | .strokeSparse _ | .strokeFactor _ | .mmaPass _ | .mmaClr _ | .mmaStore _
  | .acceptHb _ | .acceptMh _ | .acceptCat _ | .acceptMask _ | .var _ | .betaAdv _ | .betaSet _ | .betaLda _ | .betaLdc _
  | .betaLds _ | .betaSweep _ | .xsend _ | .xrecv _ | .post _ | .clamp _ | .clampSample | .clampReply _ | .wait _
  | .waitQuerySatisfied _ | .waitReplyRelease _ | .signal _ | .signalSend _ | .syncIncrementApply | .pghint _ | .trace _
  | .brk _ | .endReportSend _ | .endReportReceive | .quillExceptionReport | .partitionStop _ | .quillSwap _
  | .swapComplete _ | .quillMove _ _ | .pageFetch _ | .pageWalkDone _ => true
  | .collCtlReceive _ _ _ | .collGrpValid _ _ | .inkEnable _ | .inkwellTagGrant _ | .rawBit _ _ | .blockOffered
  | .sourceRestartDone _ | .startupTestDone _ | .fatalStartupTimeout | .clearFatal | .swPortGenerate _
  | .cipherMaskRefresh | .klEnable _ | .linkTrained _ _ _ _ _ _ | .frameOpportunity _ | .dataFrame _ _ | .linkFrame _ _
  | .badFrame _ _ | .nakRepeat _ | .replayTimeout _ | .packetRelease _ _ | .remoteRequest | .remoteResponse
  | .remoteRequestTimeout _ | .tickReqReceive _ _ _ _ | .tickReply _ _ | .tickReplyMissing | .acquire
  | .syncOutPulse | .syncInEdge _ | .tickReqSend _ => true
  | .coreInstruction _ | .busGrant | .busrd | .busrdx | .busupgr | .evc | .wb | .nrd | .nwr | .namo | .uncachedAccess _
  | .reservationDeferExpiry _ | .externalInterruptEntry _ | .mtimecmpMatch _ | .sepComplete _ _ | .snoopTimeout _
  | .sepDomrst | .sepDomrstDone | .sepRun _ | .bflProgram | .bflErase => true
  | .velReleaseSet | .velReleaseClear | .releaseStage | .uflFabricRead _ | .uflProgram _ _ | .uflErase _ _ | .velProbeEn _ _
  | .slvAck _ _ | .slvAckTimeout | .mstReq _ _ _ | .mstAck | .bootLoad _ | .loadDone | .cfgClkGapTimeout | .velCfgLoad _
  | .velCfgData _ | .velRbFrame _ | .irpBegin _ _ | .irpFrame _ _ _ _ | .irpEnd _ _ | .irpRead _ _ | .irpAbort _ _
  | .velLockSet _ | .velLockClr _ | .cflProgram | .cflErase | .primaryGoldenWrite _ | .scrubPass | .scrubFault _ _ => true
  | .postRelease | .disarmAll | .evidenceWrite _ _ | .plantEvWrData _ | .tripAssert | .tripSeen | .tripDeassert | .tripClr => true
  | .wakePulse | .wake _ | .sleep | .sessionTimeout | .wireFrameError | .idcode _ | .rdreg _ _ | .wrreg _ _ _ | .rdmem _ _
  | .wrmem _ _ _ | .halt _ _ | .resume _ _ | .step _ _ | .vtrd _ | .vtwr _ _ | .wireAccessTimeout | .xtRelease
  | .dbgCoreHalt _ | .dbgCoreResume _ | .dbgCoreStep _ | .dbgQwTgt _ | .traceDrain | .patchUnitWrite _ _ | .patchRamWrite _ _ _ => true
  | .plantOnlyRequest | .keepaliveRequest | .wakeEvent _ _ | .powerOnReset | .externalReset | .externalResetRelease | .longHold
  | .hostReset _ | .warm | .velFabric | .releasePoint | .surrEnableSet | .surrEnableClear | .apply | .glbOwnWrite _
  | .backgroundStarvation _ | .hostSwint _ | .hostIrqStatusClear _ | .hbmTrainingDone | .laneLockLost _ | .xtal32Start
  | .uncachedAccessResponse _ | .cfgClkRisingEdge _ | .pcieD3hot _ | .restingLevelChange _ => true

end Sys2Proof
end

