-- ==== Sys2Proof/Safety.lean ====
section
/-!
DEFINITION. The terms that the statements use: the canonical forms of memory, when the sequencer of a Quill issues a word,
and when an instruction meets no exception.
-/
namespace Sys2Proof.Machine

/-- A memory's bytes are in the canonical form: addresses strictly rising, no listed byte 0 (log entry 3). -/
def Memory.wf (m : KMap Byte) : Bool := kwf 0 m

/-- The sync objects are in the canonical form: numbers strictly rising, no listed object at its reset value. -/
def SyncOk (m : KMap SyncObj) : Prop := kwf {} m = true

/-- The invariant of every step: memory and the sync objects keep their canonical form. -/
def Inv (s : State) : Prop := Memory.wf s.hbm.mem = true ∧ SyncOk s.sync

/-- R142 to R148: the sequencer of Quill `q` issues the word `w`, an instruction of row `row`, with its guard at 1: it may
take an instruction, the image reaches that far, the fetch is clean, the word passes the encoding checks, and its issue tick
has come. `c` says what runs where. -/
structure Issues (row : Ins → Bool) (q : Byte) (w : W64) (c : QCtx) (s : State) : Prop where
  runs   : quillAt q.toNat s = some { c with i := insOf 0 }
  ins    : c.i = insOf w
  inside : c.lq.pc < c.lq.len
  fetch  : quillRead q.toNat (prBase + 8 * c.lq.pc) 8 s = (.ok (wordBytes 8 w), s)
  enc    : encOk (insOf w) c.lq.pc = true
  row    : row (insOf w) = true
  next   : c.lq.board.next ≤ c.lq.xt
  due    : c.lq.board.issueAt (tmOf (insOf w) c.lq) ≤ c.lq.xt
  guard  : c.lq.guard (insOf w) = true

/-- R148: the sequencer of Quill `q` reads the word `w` at its issue tick, whatever the word is. -/
structure AtIssue (q : Byte) (w : W64) (c : QCtx) (s : State) : Prop where
  runs   : quillAt q.toNat s = some { c with i := insOf 0 }
  ins    : c.i = insOf w
  inside : c.lq.pc < c.lq.len
  fetch  : quillRead q.toNat (prBase + 8 * c.lq.pc) 8 s = (.ok (wordBytes 8 w), s)
  next   : c.lq.board.next ≤ c.lq.xt
  due    : c.lq.board.issueAt (tmOf (insOf w) c.lq) ≤ c.lq.xt

/-- Table 05.3 in integers: the result of function `fn` before it wraps; none for an FN that the table does not define. -/
def aluInt (fn : Nat) (a b : W32) : Option Int :=
  match fn with
  | 0x00 => some (a.toNat + b.toNat)
  | 0x01 => some (a.toNat - b.toNat)
  | 0x02 => some (a.toNat &&& b.toNat : Nat)
  | 0x03 => some (a.toNat ||| b.toNat : Nat)
  | 0x04 => some (a.toNat ^^^ b.toNat : Nat)
  | 0x05 => some (a.toNat * 2 ^ (b.toNat % 32))
  | 0x06 => some (a.toNat / 2 ^ (b.toNat % 32))
  | 0x07 => some (a.toInt / 2 ^ (b.toNat % 32))
  | 0x08 => some (if a.toInt < b.toInt then 1 else 0)
  | 0x09 => some (if a.toNat < b.toNat then 1 else 0)
  | 0x0A => some (min a.toInt b.toInt)
  | 0x0B => some (max a.toInt b.toInt)
  | 0x0C => some (min a.toNat b.toNat)
  | 0x0D => some (max a.toNat b.toNat)
  | 0x10 => some (a.toNat * b.toNat)
  | 0x11 => some (a.toInt * b.toInt / 2 ^ 32)
  | 0x12 => some (a.toNat * b.toNat / 2 ^ 32)
  | _ => none

/-- R165: an instruction at issue meets none of the exceptions 0x0E85 (plane format), 0x0E8E, 0x0E8F, 0x0E8C, 0x0E86,
0x0E91, 0x0E87, 0x0E8B, 0x0E88, 0x0E89 and 0x0E8D, and no page-residency wait. -/
structure Clear (c : QCtx) (s : State) : Prop where
  plane  : planeBad c = false
  ctl    : ctlCheck c = none
  handle : c.i.op = 0x28 ∨ c.i.op = 0x29 → (handleObj s c.part (c.i.im 0 4)).isSome = true
  mem    : ∀ m ∈ memOps c.i c.lq, m.ok = true
  stroke : strokeAddr c.i c.lq = none
  pages  : ∀ p ∈ pagesOf c.i c.lq, (c.lq.frameOf p.1).isSome = true
  chan   : chanCheck c s = none
  box    : mailboxBad c s = false

/-- A read of `n` bytes at window offset `off` of the stores of Quill `q` meets no error and returns `bs` (R88, R89). -/
def Reads (q off n : Nat) (bs : List Byte) (s : State) : Prop := quillRead q off n s = (.ok bs, s)

/-- A read of several ranges of window offsets meets no error, returns `bs` and leaves `s`. -/
def ReadsAll (q : Nat) (rs : List (Nat × Nat)) (bs : List Byte) (s : State) : Prop :=
  ∀ f, withReads q rs s [] f = f bs s

/-- R99: the entries of the rows of the sparse list `bs`, weights other than 0. -/
def sparseRows (c : QCtx) (bs : List Byte) : List (List (Nat × Int)) :=
  (List.range 256).map (fun n => (sparseRow c.i ((bs.drop (n * rowBytes c.i)).take (rowBytes c.i))).filter (fun e => e.2 ≠ 0))

/-- R180: the variable of the region that index `idx` of a sparse list names. -/
def sparseVar (c : QCtx) (idx : Nat) : Nat := c.i.im 9 11 * 256 + idx

/-- The state-store byte of that variable. -/
def sparseByte (c : QCtx) (idx : Nat) : Nat := varByte c.i.cat (aOff (c.lq.aReg c.i.ra)) (sparseVar c idx)

/-- The value of that variable. -/
def sparseVal (c : QCtx) (s : State) (idx : Nat) : Nat :=
  varIn c.i.cat (sparseVar c idx) ((s.pqAt c.q).st.stByte (sparseByte c idx))

/-- R88, R89: the state-store words that the entries of `rows` name are free of errors. -/
def ScatterOk (c : QCtx) (rows : List (List (Nat × Int))) (s : State) : Prop :=
  ∀ f, withScatter c (rows.flatMap (fun r => r.map (fun e => sparseByte c e.1))) s f = f s

/-- The rows that the sequencer of Quill `q` issues: each command with the words it stands for. -/
def quillTable (q : Byte) : List (Instr × (Ins → Bool)) :=
  [(.alu q, isOp 0x01), (.alui q, isOp 0x02), (.cmp q, isOp 0x03), (.pred q, isOp 0x04), (.addrAset q, isAddr 0),
   (.addrAhi q, isAddr 1), (.addrAadd q, isAddr 2), (.addrAget q, isAddr 3), (.ctrlNop q, isCtrl 0), (.ctrlBr q, isCtrl 1),
   (.ctrlBrr q, isCtrl 2), (.ctrlEnd q, isCtrl 3), (.ctrlLcrd q, isCtrl 4), (.ctrlSrrd q, isCtrl 5), (.loop q, isOp 0x0D),
   (.ld q, isOp 0x10), (.st q, isOp 0x11), (.strokeInit q, isStroke 0), (.strokePload q, isStroke 1),
   (.strokeDense q, isStroke 2), (.strokeSparse q, isStroke 3), (.strokeFactor q, isStroke 4), (.mmaPass q, isMma 0),
   (.mmaClr q, isMma 1), (.mmaStore q, isMma 2), (.acceptHb q, isAccept 0), (.acceptMh q, isAccept 1),
   (.acceptCat q, isAccept 2), (.acceptMask q, isAccept 3), (.var q, isOp 0x1D), (.betaAdv q, isBeta 0),
   (.betaSet q, isBeta 1), (.betaLda q, isBeta 2), (.betaLdc q, isBeta 3), (.betaLds q, isBeta 4), (.betaSweep q, isBeta 5),
   (.xsend q, isOp 0x20), (.xrecv q, isOp 0x21), (.post q, isOp 0x24), (.clamp q, isOp 0x25), (.wait q, isOp 0x28),
   (.signal q, isOp 0x29), (.pghint q, isOp 0x2C), (.trace q, isOp 0x30), (.brk q, isOp 0x3F)]

/-- The rows whose instructions change registers, tables, accumulators and the sequencer of their logical Quill alone. -/
def registerRows (q : Byte) : List (Instr × (Ins → Bool)) :=
  (quillTable q).take 13 ++ [(.loop q, isOp 0x0D), (.mmaClr q, isMma 1), (.var q, isOp 0x1D),
   (.betaAdv q, isBeta 0), (.betaSet q, isBeta 1), (.betaSweep q, isBeta 5)]

/-- R12, R553, R601: a 32-bit access by `ag` reaches offset `off` of block `b` at address `a`. -/
structure Reaches (ag : Agent) (a : Dpa) (b : RegBlk) (off : Nat) (s : State) : Prop where
  home    : regHome a = some (b, off)
  word    : a.toNat % 4 = 0
  open_   : hostShut ag s = false
  power   : s.domRun 40 = true
  domain  : s.domRun b.dom = true
  enabled : ∀ q, b = .qctl q → bit s.glb.fusedOff q = false

/-- R87, R91, R93, R553, R601: an access by `ag` to `n` bytes at `a` reaches offset `off` of the store window of Quill `q`. -/
structure WinOpen (ag : Agent) (a : Dpa) (n q off : Nat) (s : State) : Prop where
  window  : isWindow a = true
  quill   : winQuill a = q
  offset  : winOff a = off
  enabled : bit s.glb.fusedOff q = false
  power   : s.domRun (q % 16 + 1) = true
  inside  : off + n ≤ 0xE0000
  owner   : ag = agDbg ∨ ((s.pqAt q).st.tag = actsFor ag s ∧ (s.pqAt q).st.tag ≠ 0x7F)

end Sys2Proof.Machine
end

