-- ==== Sys2Proof/Certificates/Slice0/Obligations.lean ====
section
/-!
DEFINITION. The statements for the provers.

Each is a whole statement about exec or step over all states. A clause of the form `exec c s = .next t` says that the command
completes with its own effect, and its right-hand side says everything it changes: what the right-hand side does not name is
as it was in `s`.
-/
open Sys2Proof Sys2Proof.Machine

-- Quill instructions
/-- R172 to R174: the scalar, predicate and address instructions write their result into the destination register (a write
of s0 or p0 changes nothing), and the sequencer goes on to the next index (R148). -/
def Obligations.QuillScalarResult : Prop :=
  ∀ (q : Byte) (w : W64) (c : QCtx) (s : State), Clear c s →
    (Issues (isOp 0x01) q w c s →
      exec (.alu q) s = .next (issued c .seq (c.mod (fun l => l.setS c.i.rd (aluFn c.i.fn (l.sReg c.i.ra) (l.sReg c.i.rb))) s))) ∧
    (Issues (isOp 0x02) q w c s →
      exec (.alui q) s = .next (issued c .seq (c.mod (fun l => l.setS c.i.rd (aluFn c.i.fn (l.sReg c.i.ra) c.i.imm)) s))) ∧
    (Issues (isOp 0x03) q w c s →
      exec (.cmp q) s = .next (issued c .seq (c.mod (fun l =>
        l.setP c.i.rd (cmpFn (c.i.fn % 8) (l.sReg c.i.ra) (if c.i.fn < 8 then l.sReg c.i.rb else c.i.imm))) s))) ∧
    (Issues (isOp 0x04) q w c s →
      exec (.pred q) s = .next (issued c .seq (c.mod (fun l => l.setP c.i.rd (predFn c.i.fn (l.pReg c.i.ra) (l.pReg c.i.rb))) s))) ∧
    (Issues (isAddr 0) q w c s →
      exec (.addrAset q) s = .next (issued c .seq (c.mod (fun l =>
        l.setA c.i.rd (mkA (c.i.im 28 4) ((l.sReg c.i.ra).setWidth 40 + (fld c.i.imm 0 28).setWidth 40))) s))) ∧
    (Issues (isAddr 1) q w c s →
      exec (.addrAhi q) s = .next (issued c .seq (c.mod (fun l => l.setA c.i.rd (setFld (l.aReg c.i.rd) 32 (fld c.i.imm 0 8))) s))) ∧
    (Issues (isAddr 2) q w c s →
      exec (.addrAadd q) s = .next (issued c .seq (c.mod (fun l => l.setA c.i.rd (mkA (aSpace (l.aReg c.i.ra))
        (fld (l.aReg c.i.ra) 0 40 + (l.sReg c.i.rb).signExtend 40 + c.i.imm.signExtend 40))) s))) ∧
    (Issues (isAddr 3) q w c s →
      exec (.addrAget q) s = .next (issued c .seq (c.mod (fun l => l.setS c.i.rd (fld (l.aReg c.i.ra) 0 32)) s)))

/-- R175 to R178: control: NOP changes nothing but the sequencer, BR and BRR go to their target, LOOP starts or skips its
body, END ends the logical Quill on its issue tick, LCRD and SRRD write a register (SRRD of the β word when its table entry
has good parity), and a PC past the image raises 0x0E8E with the image length as PC (R146). -/
def Obligations.QuillControl : Prop :=
  ∀ (q : Byte) (w : W64) (c : QCtx) (s : State),
    (Clear c s →
      (Issues (isCtrl 0) q w c s → exec (.ctrlNop q) s = .next (issued c .seq s)) ∧
      (Issues (isCtrl 1) q w c s → exec (.ctrlBr q) s = .next (issued c (.br (c.i.im 0 12)) s)) ∧
      (Issues (isCtrl 2) q w c s → exec (.ctrlBrr q) s = .next (issued c (.br (fld (c.lq.sReg c.i.ra) 0 12).toNat) s)) ∧
      (Issues (isCtrl 3) q w c s → exec (.ctrlEnd q) s = .next (issued c .seq (c.mod (fun l =>
        { l with ended := true }) s))) ∧
      (Issues (isCtrl 4) q w c s →
        exec (.ctrlLcrd q) s = .next (issued c .seq (c.mod (fun l => l.setS c.i.rd ((kget 0 l.lc c.i.rb).setWidth 32)) s))) ∧
      (Issues (isCtrl 5) q w c s → (c.i.rb = 4 → kget false c.pq.parB c.lq.ptr.toNat = false) →
        exec (.ctrlSrrd q) s = .next (issued c .seq (c.mod (fun l => l.setS c.i.rd (srRead c c.i.rb s)) s))) ∧
      (Issues (isOp 0x0D) q w c s →
        exec (.loop q) s = .next (issued c (.loop (if c.i.fn = 0 then fld c.i.imm 16 16 else fld (c.lq.sReg c.i.ra) 0 16) (c.i.im 0 12)) s))) ∧
    (quillAt q.toNat s = some c → c.lq.len ≤ c.lq.pc → c.lq.board.next ≤ c.lq.xt →
      exec (.pcRangeFallThrough q) s =
        .next (quillRaise q.toNat c.id c.part.metered 0x0E8E (insAddr q.toNat c.lq.len) c.lq.len s))

/-- R179, R194 to R196: LD writes the extended value it read, ST writes the low bytes of its register, TRACE records or
drops, PGHINT asks for its page and has no effect in EXACT timing, BRK raises 0x0E90 unless debug takes it (R539). -/
def Obligations.QuillAccess : Prop :=
  ∀ (q : Byte) (w : W64) (c : QCtx) (s : State), Clear c s →
    (∀ m bs, Issues (isOp 0x10) q w c s → memOps c.i c.lq = [m] → Reads c.q (m.loc c.lq) m.width bs (touchPages c s) →
      exec (.ld q) s = .next (issued c .seq (c.mod (fun l => l.setS c.i.rd (ldExt c.i.fn bs)) (touchPages c s)))) ∧
    (∀ m, Issues (isOp 0x11) q w c s → memOps c.i c.lq = [m] →
      exec (.st q) s = .next (issued c .seq (quillWrite c (m.loc c.lq) (wordBytes m.width (c.lq.sReg c.i.rb)) 2 (touchPages c s)))) ∧
    (Issues (isOp 0x30) q w c s → exec (.trace q) s = .next (issued c .seq (traceIns c s))) ∧
    (Issues (isOp 0x2C) q w c s → c.part.exact = true → exec (.pghint q) s = .next (issued c .seq s)) ∧
    (∀ p, Issues (isOp 0x2C) q w c s → c.part.exact = false → p = aOff (c.lq.aReg c.i.ra) / 0x10000 → c.lq.frameOf p = none →
      exec (.pghint q) s = .next (issued c .seq (pageAsk c p true (pageUsed c.id false p 0 s)))) ∧
    (Issues (isOp 0x3F) q w c s → s.dbg.qbrkEn = true → exec (.brk q) s = .next (issued c .seq (debugBrk c s))) ∧
    (Issues (isOp 0x3F) q w c s → s.dbg.qbrkEn = false → exec (.brk q) s = .next (c.raise 0x0E90 c.here s))

/-- R180 to R182: the STROKE forms. INIT loads the biases (or zeros under ZERO), PLOAD fills its plane and records the format,
DENSE, SPARSE and FACTOR add their contributions (R103, R104) to the field or the state accumulators; each goes on to the
next index and stores nothing. R99, R101 to R104, R180, R626: STROKE.SPARSE adds, for each nib, the sum over the entries of its row; STROKE.FACTOR adds
the slots' terms one after another. The accumulators, the sequencer and the pages' use change, and nothing else. -/
def Obligations.QuillStrokes : Prop :=
  (∀ (q : Byte) (w : W64) (c : QCtx) (s : State) (bs : List Byte), Clear c s →
     (Issues (isStroke 0) q w c s → c.i.im 8 1 = 1 →
       exec (.strokeInit q) s = .next (issued c .seq (c.mod (fun l =>
         if c.i.cat then { l with sacc := ksetAll 0 l.sacc ((List.range 256).flatMap (fun n =>
           (List.range c.i.states).map (fun st => (16 * n + st, 0)))) }
         else { l with acc := ksetAll 0 l.acc ((List.range 256).map (fun n => (n, 0))) }) (touchPages c s)))) ∧
     (Issues (isStroke 0) q w c s → c.i.im 8 1 ≠ 1 → c.i.cat = false →
       Reads c.q (storeOff (aSpace (c.lq.aReg c.i.ra)) (aOff (c.lq.aReg c.i.ra))) (512 * c.i.states) bs (touchPages c s) →
       exec (.strokeInit q) s = .next (issued c .seq (c.mod (fun l => { l with acc := ksetAll 0 l.acc ((List.range 256).map (fun n =>
         (n, BitVec.ofInt 32 ((if c.part.encPm then 2 else 1) * ((halves bs).getD n 0).toInt)))) }) (touchPages c s)))) ∧
     (Issues (isStroke 1) q w c s →
       ReadsAll c.q (couplingAt c.lq (aOff (c.lq.aReg c.i.rb)) (planeBytes (c.i.im 0 2))) bs (touchPages c s) →
       exec (.strokePload q) s = .next (issued c .seq (c.mod (fun l =>
         if c.i.im 2 1 = 1 then { l with plane1 := planeOf (BitVec.ofNat 2 (c.i.im 0 2)) bs }
         else { l with plane0 := planeOf (BitVec.ofNat 2 (c.i.im 0 2)) bs }) (touchPages c s)))) ∧
     (Issues (isStroke 2) q w c s → c.i.cat = false →
       Reads c.q (storeOff (aSpace (c.lq.aReg c.i.ra)) (aOff (c.lq.aReg c.i.ra))) 32 bs (touchPages c s) →
       exec (.strokeDense q) s = .next (issued c .seq (addF c false ((List.range 256).map (fun n =>
         [sumInt (((c.plane.row n).zip (binVars bs)).map (fun p => binContrib c.part.encPm p.1 p.2))])) (touchPages c s)))) ∧
     (Issues (isStroke 2) q w c s → c.i.cat = true →
       Reads c.q (storeOff (aSpace (c.lq.aReg c.i.ra)) (aOff (c.lq.aReg c.i.ra))) 128 bs (touchPages c s) →
       exec (.strokeDense q) s = .next (issued c .seq (addA c ((List.range 256).map (fun n =>
         [(List.range c.i.states).map (pottsSum (c.plane.row n) (catVars bs))])) (touchPages c s))))) ∧
  (∀ (q : Byte) (w : W64) (c : QCtx) (s : State) (bs : List Byte) (ts : List (List (List Int))), Clear c s →
     (Issues (isStroke 3) q w c s → c.i.cat = false →
       ReadsAll c.q (couplingAt c.lq (aOff (c.lq.aReg c.i.rb)) (256 * rowBytes c.i)) bs (touchPages c s) →
       ScatterOk c (sparseRows c bs) (touchPages c s) →
       exec (.strokeSparse q) s = .next (issued c .seq (addF c false ((sparseRows c bs).map (fun r =>
         [sumInt (r.map (fun e => binContrib c.part.encPm e.2 (sparseVal c (touchPages c s) e.1)))])) (touchPages c s)))) ∧
     (Issues (isStroke 3) q w c s → c.i.cat = true →
       ReadsAll c.q (couplingAt c.lq (aOff (c.lq.aReg c.i.rb)) (256 * rowBytes c.i)) bs (touchPages c s) →
       ScatterOk c (sparseRows c bs) (touchPages c s) →
       exec (.strokeSparse q) s = .next (issued c .seq (addA c ((sparseRows c bs).map (fun r =>
         [(List.range c.i.states).map (pottsSum (r.map (·.2)) (r.map (fun e => sparseVal c (touchPages c s) e.1)))])) (touchPages c s)))) ∧
     (Issues (isStroke 4) q w c s → c.i.cat = false →
       (∀ f, nibsRun c (List.range 256) [] (touchPages c s) f = f ts (touchPages c s)) →
       exec (.strokeFactor q) s =
         .next (issued c .seq (addF c false (ts.map (fun l => l.map (fun t => t.headD 0))) (touchPages c s)))) ∧
     (Issues (isStroke 4) q w c s → c.i.cat = true →
       (∀ f, nibsRun c (List.range 256) [] (touchPages c s) f = f ts (touchPages c s)) →
       exec (.strokeFactor q) s = .next (issued c .seq (addA c ts (touchPages c s)))))

/-- R117 to R119, R185, R627: MMA.PASS adds the dot products (integers, or bfloat16 products summed in a tree), MMA.CLR
clears the accumulators, MMA.STORE stores the 256 of them little-endian. R113, R188, R90: the BETA forms: ADV ends a sweep and moves the pointer, SET sets the pointer and its bits, LDA, LDC and
LDS load a table and make its parity good, SWEEP sets the sweep counter. -/
def Obligations.QuillMatrixAndBeta : Prop :=
  (∀ (q : Byte) (w : W64) (c : QCtx) (s : State) (bs : List Byte), Clear c s →
     (Issues (isMma 0) q w c s → c.i.sub ≠ 5 →
       Reads c.q (storeOff (aSpace (c.lq.aReg c.i.ra)) (aOff (c.lq.aReg c.i.ra))) (mmaBytes c.i.sub) bs (touchPages c s) →
       exec (.mmaPass q) s = .next (issued c .seq (addF c true ((List.range 256).map (fun n =>
         [sumInt (((c.plane.row n).zip (mmaIn c.i.sub bs)).map (fun p => p.1 * p.2))])) (touchPages c s)))) ∧
     (Issues (isMma 0) q w c s → c.i.sub = 5 →
       Reads c.q (storeOff (aSpace (c.lq.aReg c.i.ra)) (aOff (c.lq.aReg c.i.ra))) 512 bs (touchPages c s) →
       exec (.mmaPass q) s = .next (issued c .seq (c.mod (fun l => { l with acc := ksetAll 0 l.acc ((List.range 256).map (fun n =>
         (n, fpAdd (kget 0 c.lq.acc n) (fpTree 8 ((((halves (kread 0 c.plane.data (512 * n) 512)).map bf16).zip
           ((halves bs).map bf16)).map (fun p => fpMul p.1 p.2)))))) }) (touchPages c s)))) ∧
     (Issues (isMma 1) q w c s →
       exec (.mmaClr q) s = .next (issued c .seq (c.mod (fun l => { l with acc := [] }) (touchPages c s)))) ∧
     (Issues (isMma 2) q w c s →
       exec (.mmaStore q) s = .next (issued c .seq (quillWrite c (storeOff (aSpace (c.lq.aReg c.i.ra)) (aOff (c.lq.aReg c.i.ra)))
         (bytesOfWords c.lq.acc 256) 33 (touchPages c s))))) ∧
  (∀ (q : Byte) (w : W64) (c : QCtx) (s : State) (bs : List Byte), Clear c s →
     (Issues (isBeta 0) q w c s → exec (.betaAdv q) s = .next (issued c .seq (c.mod Lq.sweepEnd (touchPages c s)))) ∧
     (Issues (isBeta 1) q w c s → exec (.betaSet q) s = .next (issued c .seq (c.mod (fun l =>
       { l with ptr := fld c.i.imm 0 10, adv := bit c.i.imm 10, wrap := bit c.i.imm 11 }) (touchPages c s)))) ∧
     (Issues (isBeta 2) q w c s →
       Reads c.q (storeOff (aSpace (c.lq.aReg c.i.ra)) (aOff (c.lq.aReg c.i.ra))) 512 bs (touchPages c s) →
       exec (.betaLda q) s = .next (issued c .seq (c.mod (fun l => { l with tabA := tabOf bs, tshA := fld c.i.imm 0 5 })
         ((touchPages c s).modPq c.q (fun p => { p with parA := [] }))))) ∧
     (Issues (isBeta 3) q w c s →
       Reads c.q (storeOff (aSpace (c.lq.aReg c.i.ra)) (aOff (c.lq.aReg c.i.ra))) 512 bs (touchPages c s) →
       exec (.betaLdc q) s = .next (issued c .seq (c.mod (fun l => { l with tabC := tabOf bs, tshC := fld c.i.imm 0 5 })
         ((touchPages c s).modPq c.q (fun p => { p with parC := [] }))))) ∧
     (Issues (isBeta 4) q w c s →
       Reads c.q (storeOff (aSpace (c.lq.aReg c.i.ra)) (aOff (c.lq.aReg c.i.ra))) 2048 bs (touchPages c s) →
       exec (.betaLds q) s = .next (issued c .seq (c.mod (fun l => { l with tabB := tabOf bs })
         ((touchPages c s).modPq c.q (fun p => { p with parB := [] }))))) ∧
     (Issues (isBeta 5) q w c s → exec (.betaSweep q) s =
       .next (issued c .seq (c.mod (fun l => { l with sweep := l.sReg c.i.rb ++ l.sReg c.i.ra }) (touchPages c s)))))

/-- R97, R108, R121, R125, R186, R628: an ACCEPT of binary variables stores the new value of each active nib and the old
value of each masked one; a native-noise launch draws the comparators' answers, and falls back to Woad for good where
the calibration has not passed. R97, R109, R186, R187: ACCEPT.CAT stores, for each active nib, the state its variate draws; ACCEPT.MASK loads the mask;
VAR fills the variates from Woad. -/
def Obligations.QuillAccept : Prop :=
  (∀ (q : Byte) (w : W64) (c : QCtx) (s s1 s2 : State) (bs : List Byte) (nn : Bool) (xs : List Nat) (b : W16) (mh : Bool)
     (ks : List Nat), Clear c s →
     Issues (isAccept (if mh then 1 else 0)) q w c s →
     Reads c.q (storeOff (aSpace (c.lq.aReg c.i.ra)) (aOff (c.lq.aReg c.i.ra))) 32 bs (touchPages c s) →
     tabBad c.pq 2 [c.lq.ptr.toNat] = none → b = kget 0 c.lq.tabB c.lq.ptr.toNat →
     ks = ((binVars bs).zipIdx).map (fun e => tabIndex (deltaE mh (e.1 == 1) (kget 0 c.lq.acc e.2)) b c.lq.tshA.toNat) →
     tabBad c.pq 0 (((List.range 256).filter (kget true c.lq.mask)).map (fun n => ks.getD n 0)) = none →
     nnFall c (touchPages c s) = (nn, s1) → (if nn then drawN 256 s1 else ([], s1)) = (xs, s2) →
     exec (if mh then .acceptMh q else .acceptHb q) s = .next (issued c .seq (quillWrite c
       (storeOff 0 (aOff (c.lq.aReg c.i.ra))) (packBits (((binVars bs).zipIdx).map (fun e =>
         if kget true c.lq.mask e.2 then
           newBin mh (e.1 == 1) (decideBin (if nn then some (xs.getD e.2 0 % 2 == 1) else none)
             (kget 0 c.lq.tabA (ks.getD e.2 0)) (kget 0 c.lq.vr e.2))
         else e.1 == 1))) 6 s2))) ∧
  (∀ (q : Byte) (w : W64) (c : QCtx) (s : State) (bs : List Byte) (b : W16), Clear c s →
     (Issues (isAccept 2) q w c s →
       Reads c.q (storeOff (aSpace (c.lq.aReg c.i.ra)) (aOff (c.lq.aReg c.i.ra))) 128 bs (touchPages c s) →
       tabBad c.pq 2 [c.lq.ptr.toNat] = none → b = kget 0 c.lq.tabB c.lq.ptr.toNat →
       tabBad c.pq 1 (((List.range 256).filter (kget true c.lq.mask)).flatMap (fun n => catIndices c.lq c.i.states n b)) = none →
       exec (.acceptCat q) s = .next (issued c .seq (quillWrite c (storeOff 0 (aOff (c.lq.aReg c.i.ra)))
         (packNibs ((catVars bs).zipIdx.map (fun e =>
           if kget true c.lq.mask e.2 then
             drawCat ((catIndices c.lq c.i.states e.2 b).map (fun k => (kget 0 c.lq.tabC k).toNat)) (kget 0 c.lq.vr e.2) e.1
           else e.1))) (c.i.states + 6) (touchPages c s)))) ∧
     (Issues (isAccept 3) q w c s →
       Reads c.q (storeOff (aSpace (c.lq.aReg c.i.ra)) (aOff (c.lq.aReg c.i.ra))) 32 bs (touchPages c s) →
       exec (.acceptMask q) s = .next (issued c .seq (c.mod (fun l => { l with
         mask := ksetAll true l.mask ((binVars bs).zipIdx.map (fun e => (e.2, e.1 == 1))) }) (touchPages c s)))) ∧
     (Issues (isOp 0x1D) q w c s →
       exec (.var q) s = .next (issued c .seq (c.mod (fun l => { l with vr := ksetAll 0 [] ((List.range 256).map (fun n =>
         (n, variate c.part.key (l.sReg c.i.ra + BitVec.ofNat 32 n) l.sweep (fld c.i.imm 0 16)))) }) (touchPages c s)))))

/-- R153, R155, R158, R159, R189 to R193: XSEND sends a flit stamped with the issue tick, XRECV stores the oldest flit of its
buffer, POST sends a value, CLAMP records and sends its request, WAIT waits for its query, SIGNAL is held by the Quill. -/
def Obligations.QuillExchange : Prop :=
  ∀ (q : Byte) (w : W64) (c : QCtx) (s t : State) (bs : List Byte), Clear c s → t = touchPages c s →
    (∀ k, Issues (isOp 0x20) q w c s → c.part.outChan c.id.l (c.i.im 0 5) = some k →
      Reads c.q (storeOff (aSpace (c.lq.aReg c.i.ra)) (aOff (c.lq.aReg c.i.ra))) 32 bs t →
      exec (.xsend q) s = .next (issued c .seq (sendX
        { cls := .mesh, src := c.q, dst := (c.part.lqAt k.dst.toNat).at_, stamp := t.now, metered := c.part.metered, injected := false,
          pay := .flit { part := c.id.part, l := k.dst } c.id k.outCh k.inCh k.slot (leWord 256 bs) c.lq.sent }
        (c.mod (fun l => { l with chLast := kset none l.chLast (c.i.im 0 5) (some t.now), xLast := some t.now, sent := l.sent + 1 }) t)))) ∧
    (∀ d ds, Issues (isOp 0x21) q w c s → kget [] c.lq.chIn (c.i.im 0 5) = d :: ds →
      exec (.xrecv q) s = .next (issued c .seq (quillWrite c
        (storeOff (aSpace (c.lq.aReg c.i.ra)) (aOff (c.lq.aReg c.i.ra))) (wordBytes 32 d) 2
        (c.mod (fun l => { l with chIn := kset [] l.chIn (c.i.im 0 5) ds }) t)))) ∧
    (Issues (isOp 0x24) q w c s → c.i.fn = 4 →
      exec (.post q) s = .next (issued c .seq (sendX
        { cls := .q2p, src := c.q, dst := 0, stamp := t.now, metered := c.part.metered,
          pay := .post c.id (fld c.i.imm 26 6) (c.lq.sReg c.i.rb) } t))) ∧
    (∀ o os, Issues (isOp 0x24) q w c s → c.i.fn ≠ 4 → memOps c.i c.lq = o :: os → Reads c.q (o.loc c.lq) 4 bs t →
      exec (.post q) s = .next (issued c .seq (sendX
        { cls := .q2p, src := c.q, dst := 0, stamp := t.now, metered := c.part.metered,
          pay := .post c.id (fld c.i.imm 26 6)
            (BitVec.ofNat 32 ((leWord 32 bs).toNat / 2 ^ c.i.im 21 5 % 2 ^ plWidth c.i.fn)) } t))) ∧
    (Issues (isOp 0x25) q w c s →
      exec (.clamp q) s = .next (issued c .seq (sendX
        { cls := .q2p, src := c.q, dst := 0, stamp := t.now, metered := c.part.metered, pay := .clampReq c.id (fld c.i.imm 26 6) t.now }
        (c.mod (fun l => { l with clamps := l.clamps ++ [ClampOut.mk t.now (fld c.i.imm 26 6)
          ((memOps c.i c.lq).head?.map (fun o => (o.loc c.lq, c.i.im 21 5, plWidth c.i.fn)))
          (BitVec.ofNat 5 c.i.rd) (BitVec.ofNat 12 c.lq.pc) none] }) t)))) ∧
    (∀ n, Issues (isOp 0x28) q w c s → handleObj t c.part (c.i.im 0 4) = some n →
      exec (.wait q) s = .next (issued c .seq (sendX
        { cls := .q2s, src := c.q, dst := 0, stamp := t.now, metered := c.part.metered, pay := .query c.id n (c.i.syncVal c.lq) }
        (c.mod (fun l => { l with wait := some { obj := n, v := c.i.syncVal c.lq, t := t.now, handle := fld c.i.imm 0 4 } }) t)))) ∧
    (∀ n, Issues (isOp 0x29) q w c s → handleObj t c.part (c.i.im 0 4) = some n →
      exec (.signal q) s = .next (issued c .seq (c.mod (fun l =>
        { l with sig := l.sig ++ [{ obj := n, v := c.i.syncVal c.lq, t := t.now, n := l.sent, x := l.xLast }] }) t)))

-- Traffic of a Quill
/-- R60, R153, R154, R200: a released flit enters the buffer of its channel, is discarded after the END, raises 0x0E8A when
the buffer is full, and waits in the swap buffer while its logical Quill is swapped out; the swap buffer delivers in order. -/
def Obligations.FlitDelivery : Prop :=
  ∀ (s : State) (p : Part) (id src : LqId) (oc ch sl : BitVec 5) (d : BitVec 256) (n : Nat) (x : XItem),
    x.pay = .flit id src oc ch sl d n →
    (∀ s' u, inboxTake isFlit (fun x => x.rel.toNat) s = some (x, s') → u = (if x.metered then s' else signalsAfter src n x.rel s') →
      (swappedOut id u = true → exec .flitRelease s = .next { u with swapBuf := u.swapBuf ++ [x] }) ∧
      (swappedOut id u = false → u.partAt id.part = some p →
        ((p.lqAt id.l.toNat).ended = true → exec .flitRelease s = .next u) ∧
        ((p.lqAt id.l.toNat).ended = false → (kget [] (p.lqAt id.l.toNat).chIn ch.toNat).length < 4 →
          exec .flitRelease s = .next (u.modLq id (fun l =>
            { l with chIn := kset [] l.chIn ch.toNat (kget [] (p.lqAt id.l.toNat).chIn ch.toNat ++ [d]) }))) ∧
        ((p.lqAt id.l.toNat).ended = false → (p.lqAt id.l.toNat).stopped = false →
          4 ≤ (kget [] (p.lqAt id.l.toNat).chIn ch.toNat).length →
          exec .flitRelease s = .next (quillRaise (p.lqAt id.l.toNat).at_ id p.metered 0x0E8A (0xFE#8 ++ BitVec.ofNat 40 ch.toNat)
            (p.lqAt id.l.toNat).pc (u.modLq id (fun l => { l with ovfAt := some u.now })))))) ∧
    (∀ j, s.swapBuf[j]? = some x → swappedOut id s = false →
      (∀ y ∈ s.swapBuf.take j, ∀ id' ch' sl' d' n', y.pay ≠ .flit id' src oc ch' sl' d' n') →
      exec (.swapBufferDeliver j) s = .next (flitTake id ch.toNat d { s with swapBuf := dropAt s.swapBuf j }))

/-- R30, R191: a CLAMP's request samples its mailbox and the reply crosses back; on tick t + 12 or later the reply writes the
register, and the field where FN[2] is 0. R38 to R42, R45, R78: an item arrives (late ones are logged), is released when ripe, leaves its send latch when its turn
comes, and a flit enters its injection link on its slot's tick; the items of a crossing are released in their order, whatever the
test of release (R38). -/
def Obligations.ClampAndCrossings : Prop :=
  (∀ (s s' : State) (x : XItem) (id : LqId) (t : W64),
     (∀ m, inboxTake isClampReq (fun x => x.rel.toNat) s = some (x, s') → x.pay = .clampReq id m t →
       exec .clampSample s = .next (sendX { cls := .p2q, src := 0, dst := x.src, stamp := s'.now, metered := x.metered,
                                            pay := .clampRep id t (kget 0 s'.plant.evBase m.toNat) } s')) ∧
     (∀ q p v k c, s.resAt q.toNat = some id → s.partAt id.part = some p →
       inboxTake (isClampRep id) (fun x => x.rel.toNat) s = some (x, s') → x.pay = .clampRep id t v →
       s.now.ult (t + 12) = false → (p.lqAt id.l.toNat).clamps.find? (fun k => k.t == t) = some k →
       c = { q := q.toNat, id := id, part := p, lq := { p.lqAt id.l.toNat with pc := k.pc.toNat }, pq := s.pqAt q.toNat, i := insOf 0 } →
       (k.field = none → exec (.clampReply q) s = .next (s'.modLq id (fun l =>
         ({ l with clamps := l.clamps.filter (fun k' => k'.t != t) }).setS k.rd.toNat v))) ∧
       (∀ off pos w, k.field = some (off, pos, w) → exec (.clampReply q) s = .next (clampField c off pos w v (s'.modLq id (fun l =>
         ({ l with clamps := l.clamps.filter (fun k' => k'.t != t) }).setS k.rd.toNat v)))))) ∧
  (∀ (s : State) (j : Nat) (x : XItem),
     (s.xing[j]? = some x → x.arrives s.now = true →
       (x.dueAt.ult s.now = false →
         exec (.crossingArrive j) s = .next (takeDirect (releaseWhere
           (fun y => y.cross == x.cross && y.arrived && (!y.metered || y.dueAt.ult s.now))
           { s with xing := modAt (fun y => { y with arrived := true }) j s.xing }))) ∧
       (x.dueAt.ult s.now = true →
         exec (.crossingArrive j) s = .next (takeDirect (releaseWhere
           (fun y => y.cross == x.cross && y.arrived && (!y.metered || y.dueAt.ult s.now))
           (meterLate x { s with xing := modAt (fun y => { y with arrived := true }) j s.xing }))))) ∧
     (s.xing[j]? = some x → x.ripe s.now = true →
       exec (.crossingRelease j) s = .next (takeDirect (releaseWhere (fun y => y.cross == x.cross && y.ripe s.now) s))) ∧
     (s.latch[j]? = some x → mayPlace j x s = true →
       exec (.sendLatchPlace j) s = .next (placeItem x { s with latch := dropAt s.latch j })) ∧
     (s.xing[j]? = some x → exec (.flitInject j) s = .next { s with xing := s.xing.set j (x.inject s.now) })) ∧
  (∀ (now : W64) (xs : List XItem) (ok : XItem → Bool) (k : Nat),
     ((releaseSplit now ok [] xs).1 ++ (releaseSplit now ok [] xs).2).filterMap (fun x => if x.cross = k then some x.pay else none) =
       xs.filterMap (fun x => if x.cross = k then some x.pay else none))

/-- R72, R77, R158 to R160, R233, R241: a query whose value is reached leaves the scheduler, once the tick's sets and increments
are done, and its reply crosses back (or is held at an epoch end); a released reply ends the WAIT, a held SIGNAL is sent when due,
and a released increment adds to the object of its owner, or is logged where the object is not its owner's. -/
def Obligations.WaitAndSignalTraffic : Prop :=
  ∀ (s s' : State) (x : XItem) (id : LqId) (p : Part) (w : WaitSt) (n : BitVec 17) (v : W32) (q : Byte),
    (∀ j, s.inbox[j]? = some x → x.pay = .query id n v → s.partAt id.part = some p → (p.lqAt id.l.toNat).wait = some w →
      syncSettled s = true → reached (seenCount n.toNat s) v = true → s' = { s with inbox := dropAt s.inbox j } →
      (lsHolds s' id (p.lqAt id.l.toNat) w.handle = false → exec (.waitQuerySatisfied j) s = .next (sendReply id p s')) ∧
      (lsHolds s' id (p.lqAt id.l.toNat) w.handle = true →
        exec (.waitQuerySatisfied j) s = .next { s' with ls := { s'.ls with held := s'.ls.held ++ [id] } })) ∧
    (s.resAt q.toNat = some id → s.partAt id.part = some p → (p.lqAt id.l.toNat).wait = some w →
      (p.lqAt id.l.toNat).heldReply = false → inboxTake (isReply id) (fun x => x.rel.toNat) s = some (x, s') →
      exec (.waitReplyRelease q) s = .next (s'.modLq id (fun l => { l with
        wait := none, heldReply := false
        bars := match l.wait with | some w => if lsCounts s' id w.handle then l.bars + 1 else l.bars | none => l.bars
        board := { l.board with next := max l.board.next l.xt, unit := kset 0 l.board.unit QUnit.syn.num l.xt } }))) ∧
    (∀ g gs, s.resAt q.toNat = some id → s.partAt id.part = some p → (p.lqAt id.l.toNat).sig = g :: gs →
      (if p.metered then g.dueAt.ule s.now = true ∧ s.latch.any (earlierFlit id g.n) = false
       else g.t.ule s.now = true ∧ outstanding s (earlierFlit id g.n) = false) →
      exec (.signalSend q) s = .next (sendX
        { cls := .q2s, src := q.toNat, dst := 0, stamp := s.now, metered := p.metered,
          pay := .incr id.part.owner g.obj g.v (BitVec.ofNat 9 q.toNat) (some id) } (s.modLq id (fun l => { l with sig := gs })))) ∧
    (∀ o ag src, inboxTake isIncr (fun x => x.rel.toNat) s = some (x, s') → x.pay = .incr o n v ag src → setsDone s = true →
      ((s'.syncAt n.toNat).owner = o → o ≠ 0x7F →
        exec .syncIncrementApply s = .next (s'.setSync n.toNat { s'.syncAt n.toNat with count := (s'.syncAt n.toNat).count + v })) ∧
      ((s'.syncAt n.toNat).owner ≠ o → exec .syncIncrementApply s = .next (logErr .sched 0x0480 ag (BitVec.ofNat 48 n.toNat) s')))

-- Crossings and time
/-- R32, R35, R39, R83: TICK does what falls on the ending tick and then counts by one, or to the loaded value, which it consumes; where
the tick PLL stands still it changes nothing (R82). R54, R83, R336, R340: a service window pauses the sequencers of metered partitions
and its end resumes them; TICK_CTRL.LOAD sets the count of the next tick or is refused with 0x020B; SYNC_EN starts and stops the
follower. -/
def Obligations.TickCounter : Prop :=
  (∀ s t : State, t = tickWork s →
     (tickRuns s = true → exec .tick s = .next (nextTick t) ∧ (nextTick t).tk.pend = none ∧ (nextTick t).hbm = t.hbm ∧
       (t.tk.pend = none → (nextTick t).now = t.now + 1) ∧ (∀ v, t.tk.pend = some v → (nextTick t).now = v)) ∧
     (tickRuns s = false → exec .tick s = .next s)) ∧
  (∀ s : State,
     (inWindow s.now = true → s.svc = false → exec .serviceWindowBegin s = .next (pauseMetered true s)) ∧
     (inWindow s.now = false → s.svc = true → exec .serviceWindowEnd s = .next (pauseMetered false s)) ∧
     (anyCtx s = false → s.tk.syncEn = false → exec .tickLoad s = .next { s with tk := { s.tk with pend := some s.tk.load } }) ∧
     (anyCtx s = true ∨ s.tk.syncEn = true → exec .tickLoad s = .next { s with tk := { s.tk with reason := 0x020B } }) ∧
     (s.tk.syncEn = false → firstReason (syncChecks s) = none →
       exec (.syncEn true) s = .next { s with tk := { s.tk with syncEn := true, locked := s.tk.locked || chipNo s == 0 },
                                               kl := { s.kl with good := 0, bad := 0, missed := 0, t1 := none } }) ∧
     (∀ r, s.tk.syncEn = false → firstReason (syncChecks s) = some r → exec (.syncEn true) s = .next { s with kl := { s.kl with reason := r } }) ∧
     (s.tk.syncEn = true → exec (.syncEn false) s = .next { s with tk := { s.tk with syncEn := false, locked := false } }))

/-- R71 to R77: lock-step: ENABLE passes its checks and starts at epoch 0, or latches the reason; an epoch ends when every logical
Quill has passed its barriers: its record goes to the partner and awaits the partner's, every digest and C_cmd start again at 0. A
record of the partner waits for the local epoch's end; two equal records let the held replies go 10 ticks later; a difference, and
a partner that sends none for 65,536 ticks, are logged with epoch and logical Quill (the lowest that differs, 0x1FF for commands
alone, 0x1FE for the partner) and fire the channel of the trigger group. What clearing ENABLE leaves of an open comparison is the
model's choice (log entry 149). -/
def Obligations.LockStep : Prop :=
  (∀ s : State,
    (s.ls.on = false → firstReason (lsChecks s) = none → exec (.lsEnable true) s = .next { s with ls := { s.ls with
      ctrl := setBit s.ls.ctrl 0 true, epoch := 0, cCmd := 0, wait := [], got := [], failed := false, passAt := none } }) ∧
    (∀ r, s.ls.on = false → firstReason (lsChecks s) = some r → exec (.lsEnable true) s = .next { s with tk := { s.tk with reason := r } }) ∧
    (exec (.lsEnable false) s = .next { s with ls := { s.ls with ctrl := setBit s.ls.ctrl 0 false } }) ∧
    (∀ p t, lsPart s = some p → s.ls.on = true → s.ls.endOf ≤ p.barriers →
      t = (lsSend (lsOwn p s) s).setPart { p with lqs := p.lqs.map (fun e => (e.1, { e.2 with digest := 0, region := [] })) } →
      t.ls.got.find? (fun g => g.epoch == s.ls.epoch) = none →
      exec .lsEpochEnd s = .next { t with ls := { t.ls with
        epoch := t.ls.epoch + 1, cCmd := 0, passAt := none, wait := t.ls.wait ++ [(lsOwn p s, t.now)] } }) ∧
    (∀ e es, s.ls.wait = e :: es → (e.2 + 65536).ule s.now = true → exec .lsPartnerTimeout s =
      .next (lsDiverge 0x0283 e.1.epoch 0x1FE 0 false false { s with ls := { s.ls with wait := es } })) ∧
    (∀ t, s.ls.passAt = some t → (t + 10).ule s.now = true → exec .lsHoldRelease s = .next { s with
      ls := { s.ls with held := [], passAt := none },
      inbox := s.inbox ++ s.ls.held.map (fun id =>
        { cls := .s2q, src := 0, dst := match s.lqOf id with | some l => l.at_ | none => 0xFFF,
          stamp := t, metered := true, arrived := true, rel := s.now, pay := .reply id }) })) ∧
  (∀ (s u : State) (r : LsRecord) (e : LsRecord × W64), s.ls.on = true →
    (s.ls.wait.find? (fun e => e.1.epoch == r.epoch) = none → exec (.lsRecordReceive r) s = .next { s with
      kl := { s.kl with collIn := s.kl.collIn.filter (fun p => p.op != 6) }, ls := { s.ls with got := s.ls.got ++ [r] } }) ∧
    (s.ls.wait.find? (fun e => e.1.epoch == r.epoch) = some e →
      u = { s with kl := { s.kl with collIn := s.kl.collIn.filter (fun p => p.op != 6) },
                   ls := { s.ls with wait := s.ls.wait.filter (fun x => x.1.epoch != r.epoch) } } →
      ((∀ j, e.1.cQ.getD j 0 = r.cQ.getD j 0) → e.1.cCmd = r.cCmd → exec (.lsRecordReceive r) s = .next { u with ls := { u.ls with passAt := some s.now } }) ∧
      ((∀ j, e.1.cQ.getD j 0 = r.cQ.getD j 0) → e.1.cCmd ≠ r.cCmd →
        exec (.lsRecordReceive r) s = .next (lsDiverge 0x0282 e.1.epoch 0x1FF 0 true false u)) ∧
      (∀ q a, q < max e.1.cQ.length r.cQ.length → (∀ j < q, e.1.cQ.getD j 0 = r.cQ.getD j 0) → e.1.cQ.getD q 0 ≠ r.cQ.getD q 0 → a = divAddr e.1 r q u →
        exec (.lsRecordReceive r) s =
          .next (lsDiverge 0x0282 e.1.epoch (BitVec.ofNat 9 q) a.1.1 (e.1.cCmd != r.cCmd) a.1.2 a.2)))) ∧
  (∀ (s : State) (code : W16) (epoch : W64) (lq : BitVec 9) (addr : W16) (cmd hist : Bool), s.tk.errlog.code = 0 →
    lsDiverge code epoch lq addr cmd hist s = xtFire (1 <<< s.ls.trig) agColl { s with
      ls := { s.ls with divEpoch := epoch, divLq := lq, divAddr := addr, divCmd := cmd, divHist := hist, failed := true, passAt := none },
      tk := { s.tk with errlog := { addr := 0, agent := agColl, cls := 0, code := code } } })

-- Registers
/-- R9, R12, R36, R593: the halves of a pair. A read of the low half latches the high half for its agent; a read of the high half
returns what was latched, once; a write of the low half is kept; a write of the high half writes the whole pair; a write of half a
locked pair is answered and ignored, as is a write of a read-only half; a write of the host or of a core to the scheduler crosses
to it first, whatever half it names. -/
def Obligations.RegisterPairs : Prop :=
  ∀ (ag : Agent) (a : Dpa) (b : RegBlk) (off l k : Nat) (kind : PairKind) (v w : W32) (s : State),
    Reaches ag a b off s → pairOf b off = some (l, kind) → k = latchKey ag (a.toNat - off + l) →
    (writesOut ag s = false →
      (off = l → exec (.pairReadLo ag a) s = .next (ans ag .ok ((regVal ag b l s).setWidth 512)
        { s with rdLatch := kset none s.rdLatch k (some (regVal ag b (l + 4) s)) })) ∧
      (off = l + 4 → kget none s.rdLatch k = some w →
        exec (.pairReadHi ag a) s = .next (ans ag .ok (w.setWidth 512) { s with rdLatch := kset none s.rdLatch k none })) ∧
      (off = l + 4 → kget none s.rdLatch k = none →
        exec (.pairReadHi ag a) s = .next (ans ag .ok ((regVal ag b off s).setWidth 512) s))) ∧
    (writesOut ag s = false → writeCross ag b = none →
      (kind = .rw → pairLocked b l s = true →
        (off = l → exec (.pairWriteLo ag a v) s = .next (ans ag .ok 0 s)) ∧
        (off = l + 4 → exec (.pairWriteHi ag a v) s = .next (ans ag .ok 0 s))) ∧
      (kind = .rw → pairLocked b l s = false →
        (off = l → exec (.pairWriteLo ag a v) s = .next (ans ag .ok 0 { s with wrLatch := kput s.wrLatch k v })) ∧
        (off = l + 4 → exec (.pairWriteHi ag a v) s = .next (ans ag .ok 0
          (regPut ag b off v (v ++ (kfind s.wrLatch k).getD (regVal ag b l s)) { s with wrLatch := kdel s.wrLatch k })))) ∧
      (kind = .ro → exec (.registerWrite ag a v) s = .next (ans ag .ok 0 s))) ∧
    (∀ c, writeCross ag b = some c → kind = .rw →
      (off = l → exec (.pairWriteLo ag a v) s = .next (ans ag .ok 0 (writeSend c ag a v (writeMetered b off s) s))) ∧
      (off = l + 4 → exec (.pairWriteHi ag a v) s = .next (ans ag .ok 0 (writeSend c ag a v (writeMetered b off s) s))))

/-- R11, R12, R36, R90, R302, R445, R593, R624: other registers. A read answers the value the register holds and clears what a read
clears; a read of the INFO register of an ERRLOG answers it and sets CODE to 0, which re-arms the log; a read of a software random
port takes its word; an access to the slave window waits for the fabric; a table entry of bad parity answers an error; a write has
the register's effect, of the host or of a core at the scheduler once it has crossed. R87 to R93, R625: another agent reads up to
16 bytes inside a line of a store, and writes the bytes of a mask; an access by one that is not the owner is logged with 0x0E81 and
answered with an error. -/
def Obligations.RegisterAndStoreAccess : Prop :=
  (∀ (ag : Agent) (a : Dpa) (b : RegBlk) (off : Nat) (v : W32) (s : State), Reaches ag a b off s → writesOut ag s = false →
     (∀ e, b.log = some (e, off) →
       exec (.errlogCodeRead ag a) s = .next (ans ag .ok ((regVal ag b off s).setWidth 512) (codeClear e s)) ∧
       exec (.rcRegisterRead ag a) s = .next (ans ag .ok ((regVal ag b off s).setWidth 512) (codeClear e s)) ∧
       (getErr e (codeClear e s)).code = 0 ∧ (getErr e (codeClear e s)).addr = (getErr e s).addr) ∧
     (pairOf b off = none → (∀ e, b.log ≠ some (e, off)) → (b = .vel → off < 0x80000) → (b = .mad → off ≠ 0x300 ∧ off ≠ 0x310) →
       (∀ q, b = .qctl q → qctlBad q off s = false) →
       exec (.rcRegisterRead ag a) s = .next (ans ag .ok ((regVal ag b off s).setWidth 512) (regClear ag b off s))) ∧
     (∀ q, b = .qctl q → qctlBad q off s = true → exec (.rcRegisterRead ag a) s = .next (errRsp ag
       (logErr (.quill (BitVec.ofNat 8 q)) 0x0E80 ag a (s.modPq q (fun p => { p with uncorrCnt := satInc p.uncorrCnt }))))) ∧
     (∀ w t, b = .mad → off = 0x300 ∨ off = 0x310 → swRead (off = 0x310) ag s = (some w, t) →
       exec (.rcRegisterRead ag a) s = .next (ans ag .ok (w.setWidth 512) t)) ∧
     (b = .vel → 0x80000 ≤ off → exec (.rcRegisterRead ag a) s = .next (slaveAccess ag off false 0 s) ∧
       exec (.registerWrite ag a v) s = .next (slaveAccess ag off true v s)) ∧
     (pairOf b off = none → (b = .vel → off < 0x80000) → writeCross ag b = none →
       exec (.registerWrite ag a v) s = .next (ans ag .ok 0 (regPut ag b off v 0 s)))) ∧
  (∀ (ag : Agent) (a : Dpa) (b : RegBlk) (off : Nat) (v : W32) (s : State) (c : XCls), Reaches ag a b off s → writeCross ag b = some c →
     exec (.registerWrite ag a v) s = .next (ans ag .ok 0 (sendX
       { cls := c, src := 1, dst := 0, stamp := s.now, metered := writeMetered b off s, pay := .regw ag a v } s)) ∧
     (pairOf b off = none → writeLand ag a v s = regPut ag b off v 0 s)) ∧
  (∀ (ag : Agent) (a : Dpa) (q off n : Nat) (mask : Byte) (d : W64) (bs : List Byte) (s t : State),
     (WinOpen ag a n q off s → 0 < n → n ≤ 16 → a.toNat % 64 + n ≤ 64 → quillRead q off n s = (.ok bs, t) →
       exec (.storeWindowRead ag a n) s = .next (ans ag .ok (leWord 512 bs) t)) ∧
     (WinOpen ag (alignDown 3 a) 8 q off s →
       exec (.storeWindowWrite ag a mask d) s =
         .next (ans ag .ok 0 ((maskRuns mask d).foldl (fun s r => extWrite q (off + r.1) r.2 ag s) s))) ∧
     (isWindow a = true → bit s.glb.fusedOff (winQuill a) = false → s.domRun (winQuill a % 16 + 1) = true → winOff a + n ≤ 0xE0000 →
       ag ≠ agDbg → (s.pqAt (winQuill a)).st.tag ≠ actsFor ag s → 0 < n → n ≤ 16 → a.toNat % 64 + n ≤ 64 →
       exec (.storeWindowRead ag a n) s = .next (errRsp ag (logErr (.quill (BitVec.ofNat 8 (winQuill a))) 0x0E81 ag a s))))

/-- R54, R55, R123 to R125, R628: a calibration starts on a Quill that is enabled and powered, and its end, when it has had its time,
sets the trims, the counters and the verdict; a failure falls back and logs 0x0E82. R161 to R163, R176, R221: an END report is sent when every effect has completed and received at the scheduler; the last one
completes the launch; the first exception report stops the partition; a stop reaches its Quill and abandons its WAITs; a stopped partition that has
drained completes its launch. -/
def Obligations.CalibrationAndEnds : Prop :=
  (∀ (q : Byte) (trims : List Byte) (met : Bool) (acc : BitVec 13) (s t : State) (p : Pq), p = s.pqAt q.toNat →
     (s.domRun (q.toNat % 16 + 1) = true → bit s.glb.fusedOff q.toNat = false → p.calRun = false →
       (residentMetered s q.toNat = true → inWindow s.now = true) →
       exec (.nnCalibrationStart q) s =
         .next (s.setPq q.toNat { p with calRun := true, calTicks := 0, bgPend := !residentMetered s q.toNat, bgWait := 0 })) ∧
     (calReady q.toNat s = true → trims.length = 256 → acc.toNat ≤ 4096 →
       t = s.setPq q.toNat { p with
         calRun := false, bgPend := false, bgWait := 0, calPass := met && proportionOk acc, accepts := acc
         fallback := p.fallback || !(met && proportionOk acc)
         trim := (List.range 256).foldl (fun m i => kset 0x80 m i (trims.getD i 0x80)) [] } →
       ((met && proportionOk acc) = true → exec (.nnCalibrationEnd q trims met acc) s = .next t) ∧
       ((met && proportionOk acc) = false →
         exec (.nnCalibrationEnd q trims met acc) s =
           .next (nnFail q.toNat (logErr (.quill q) 0x0E82 (BitVec.ofNat 9 q.toNat) (qctlNnAddr q.toNat) t))))) ∧
  (∀ (s s' : State) (q : Byte) (id : LqId) (p : Part) (x : XItem),
     (s.resAt q.toNat = some id → s.partAt id.part = some p → (p.lqAt id.l.toNat).ended = true →
       (p.lqAt id.l.toNat).reported = false → (p.lqAt id.l.toNat).stopped = false → lqDrained id (p.lqAt id.l.toNat) s = true →
       exec (.endReportSend q) s = .next (sendX
         { cls := .q2s, src := q.toNat, dst := 0, stamp := s.now, metered := p.metered, pay := .endRep id }
         (s.modLq id (fun l => { l with reported := true })))) ∧
     (inboxTake isEndRep (fun x => x.rel.toNat) s = some (x, s') → x.pay = .endRep id → s'.partAt id.part = some p →
       ((p.st = .running ∧ (∀ l < p.nlq, (p.lqAt l).reported = true) ∧ outstanding s' (endRepOf p.id) = false) →
         exec .endReportReceive s = .next (completeLaunch p {} s')) ∧
       ((p.st ≠ .running ∨ outstanding s' (endRepOf p.id) = true) → exec .endReportReceive s = .next s')) ∧
     (∀ code pc, inboxTake isExn exnKey s = some (x, s') → x.pay = .exn id code pc → s'.partAt id.part = some p →
       p.exn = none → p.abort = none → exec .quillExceptionReport s = .next (stopOthers p (some id.l)
         (s'.modPart id.part (fun p => { p with exn := some { code := code, l := id.l, pc := pc }, st := .stopping })))) ∧
     (s.resAt q.toNat = some id → inboxTake (isStop id) (fun x => x.rel.toNat) s = some (x, s') →
       exec (.partitionStop q) s = .next (dropWaits (· == id) ((s'.modPq q.toNat (fun p => { p with running := false })).modLq id
         (fun l => if l.ended then l else { l with stopped := true, wait := none, pgWait := none })))) ∧
     (∀ o pid, s.partAt { owner := o, pid := pid } = some p → p.st = .stopping → partDrained p s = true →
       exec (.launchFaultDrained o pid) s = .next (completeLaunch p (stoppedOut p) s)))

-- Ends of launches, swaps and pages
/-- R133, R160, R199, R229, R231, R261 to R263: a resident logical Quill whose time is over is saved and the next of its rotation
comes; a free Quill takes a waiting one; the restore completes when its lines have moved (metered: after 32,768 ticks); a LOOSE
logical Quill moves. R140, R247, R248, R250 to R253, R256 to R261, R271, R276: a fetch starts with a tag for its walk; the walk ends
with a frame and a staging slot or with the unmapped answer; after the last line the page becomes resident, in REPEAT timing on the
tick R259 gives, and its Quill hears of it; the data of a stopped Quill is discarded. -/
def Obligations.SwapsAndPages : Prop :=
  (∀ (s u : State) (q : Byte) (id : LqId) (p : Part),
     (∀ i is, slotFree (inkOf q.toNat) s = true → s.resAt q.toNat = some id → s.partAt id.part = some p → p.st = .running →
       (s.pqAt q.toNat).swap = none → (p.lqAt id.l.toNat).stopped = false → lqQuiet (p.lqAt id.l.toNat) = true →
       turnOver (p.lqAt id.l.toNat) s.now = true → rotation p s = i :: is →
       exec (.quillSwap q) s = .next (swapOut q.toNat id { part := p.id, l := BitVec.ofNat 8 i } s)) ∧
     (slotFree (inkOf q.toNat) s = true → s.resAt q.toNat = none → quillFree s q.toNat = true → looseNext s = some id →
       exec (.quillSwap q) s = .next (swapBegin q.toNat id storeLines s)) ∧
     (∀ w, u = swapLines q.toNat 24 s → (u.pqAt q.toNat).swap = some w → w.lines = 0 →
       (u.partMetered w.next.part = true → u.now.ult (w.start + 32768) = false) →
       exec (.swapComplete q) s = .next (swapIn q.toNat w.next (slotGive (inkOf q.toNat) u))) ∧
     (∀ q' : Byte, s.resAt q.toNat = some id → s.partAt id.part = some p → p.st = .running → p.timing = .loose →
       (s.pqAt q.toNat).swap = none → lqQuiet (p.lqAt id.l.toNat) = true → quillFree s q'.toNat = true →
       exec (.quillMove q q') s = .next (((s.modPq q'.toNat (fun x => { x with
           st := (s.pqAt q.toNat).after, wr := [], res := some id, running := (s.pqAt q.toNat).running })).modPq q.toNat (fun x =>
           { x with st := {}, wr := [], res := none, running := false })).modLq id (fun l => { l with place := some q', home := q' })))) ∧
  (∀ (s s' u v w : State) (f : Fetch) (j : Nat) (h : HostBytes) (src : PageSrc),
     (∀ k : BitVec 2, s' = takeReq k.toNat s → s'.ink.reqs.find? (mayFetch k.toNat s') = some f →
       exec (.pageFetch k) s = .next (startFetch f s')) ∧
     (s.ink.fetches[j]? = some f → f.st = .walking → hbmUp s = true →
       (pageWalk f.k f.lq.part.owner f.page s = (none, s') →
         exec (.pageWalkDone j) s = .next (fetchEnd j f (pageAnswer f.k f.lq f.page 0x0E91 s'))) ∧
       (∀ e l fr xf, pageWalk f.k f.lq.part.owner f.page s = (some e, s') → u = f.xf.stop f.k s' → u.lqOf f.lq = some l → f.drop = false →
         (bit e 1 && (u.hcAt f.lq.part.owner.toNat).init) = false → frameFor u f.lq l = some fr → slotFree f.k u = true →
         pageSrc f.k f.lq.part.owner f.page e u = (src, v) →
         Xfer.start 1024 f.k (v.setWell f.k { v.wellAt f.k with pageUsed := (v.wellAt f.k).pageUsed + 1 }) = (xf, w) →
         exec (.pageWalkDone j) s = .next { (w.modLq f.lq (fun l => { l with frames := kset {} l.frames fr {} })) with
           ink := { (w.modLq f.lq (fun l => { l with frames := kset {} l.frames fr {} })).ink with
             fetches := (w.modLq f.lq (fun l => { l with frames := kset {} l.frames fr {} })).ink.fetches.set j
               { f with st := .moving src, frame := fr, xf := xf } } })) ∧
     (∀ p fr, hbmUp s = true → u = fetchLines j h 24 s → u.ink.fetches[j]? = some f → f.st = .moving src → 1024 ≤ f.xf.line →
       v = pageTag f.k f.lq.part.owner f.page src (!f.bad) u → v.partAt f.lq.part = some p →
       fr = { page := some f.page, last := f.last, pinned := (p.recs.getD f.lq.l.toNat {}).ws.contains f.page } →
       w = v.modLq f.lq (fun l => { l with frames := kset {} l.frames f.frame fr }) →
       (f.drop = false → (p.lqAt f.lq.l.toNat).stopped = false → p.st ≠ .stopping →
         (f.metered u = false → p.metered = false →
           exec (.pageResident j h) s = .next (fetchEnd j f (pageAnswer f.k f.lq f.page 0 w))) ∧
         (f.metered u = true → u.now.ult (f.since + 10240) = false →
           exec (.pageResident j h) s = .next (fetchEnd j f (w.modLq f.lq (pageHere f.page))))) ∧
       ((p.lqAt f.lq.l.toNat).stopped = true → p.metered = false → f.metered u = false →
         exec (.pageResident j h) s = .next (fetchEnd j f v))))

-- Contexts, queues and commands
/-- R202, R225, R238, R268, R292, R294: CTX_ENABLE draws a key pair, waits for it while KEYGEN serves no request, or latches the first
failing check's reason; clearing it drains the context: its queues stop, what they hold completes ABORTED, its partitions stop and
its collectives end; the drained context returns its partitions and objects and loses its key. -/
def Obligations.Contexts : Prop :=
  ∀ (s : State) (o : Owner), o.toNat ≤ 64 →
    ((s.ownAt o.toNat).draining = false → (s.ownAt o.toNat).enable = false → firstReason (ctxChecks o.toNat s) = none →
      (canGenerate 1 s = true → exec (.ctxEnableSet o) s = .next (ctxOn o.toNat s) ∧
        (ctxOn o.toNat s).sched.nextKey = s.sched.nextKey + 1 ∧
        (ctxOn o.toNat s).hbm.keys = kput s.hbm.keys s.sched.nextKey (keyPairOf (generate 1 s).1)) ∧
      (canGenerate 1 s = false →
        exec (.ctxEnableSet o) s = .next (s.setOwn o.toNat { s.ownAt o.toNat with enabling := true }))) ∧
    (∀ r, (s.ownAt o.toNat).draining = false → (s.ownAt o.toNat).enable = false → firstReason (ctxChecks o.toNat s) = some r →
      (r ≠ 0x0802 → exec (.ctxEnableSet o) s =
        .next (setCtxReason o.toNat r (s.setOwn o.toNat { s.ownAt o.toNat with enabling := false }))) ∧
      (r = 0x0802 → exec (.ctxEnableSet o) s = .next (setReason .mad 0x0802
        (setCtxReason o.toNat 0x0802 (s.setOwn o.toNat { s.ownAt o.toNat with enabling := false }))))) ∧
    ((s.ownAt o.toNat).draining = true →
      exec (.ctxEnableSet o) s = .next (s.setOwn o.toNat { s.ownAt o.toNat with reason := 0x0308 })) ∧
    (∀ u v, (s.ownAt o.toNat).enable = true → (s.ownAt o.toNat).draining = false →
      u = (List.range 8).foldl (fun s k =>
        (s.queueAt o.toNat k).slots.foldl (fun s c => undispatched o.toNat k c.cmd (abortedOut 0x0321) s)
          (s.setQueue o.toNat k { s.queueAt o.toNat k with enable := false, slots := [] }))
        (s.setOwn o.toNat { s.ownAt o.toNat with draining := true }) →
      v = ((u.part.filter (fun e => e.2.id.owner.toNat == o.toNat)).map (·.2)).foldl (fun s p => stopPart p 0x0321 s) u →
      exec (.ctxEnableClear o) s = .next ((v.sched.disp.filter (fun d => d.id.owner.toNat == o.toNat && d.cmd.op == 0x20 && !d.undisp)).foldl
        (fun s d => finish d.id (abortedOut 0x0321) s) v)) ∧
    ((s.ownAt o.toNat).enable = false →
      exec (.ctxEnableClear o) s = .next (s.setOwn o.toNat { s.ownAt o.toNat with enabling := false })) ∧
    ((s.ownAt o.toNat).draining = true → (∀ d ∈ s.sched.disp, d.id.owner ≠ o) → (∀ f ∈ s.ink.fetches, f.lq.part.owner ≠ o) →
      (∀ e ∈ s.part, e.2.id.owner = o → e.2.st = .idle) → exec (.contextDrainDone o) s = .next (drainDone o.toNat s))

/-- R205 to R208, R592: the ring of a queue: doorbells move the tail or latch 0x0307, Q_ENABLE starts an empty queue or latches
0x0306, a slot is fetched in order, a failed read stops the queue, and Q_STOPPED is cleared. -/
def Obligations.Queues : Prop :=
  ∀ (s s' : State) (o : Owner) (k : BitVec 3) (q : Queue), o.toNat ≤ 64 → q = s.queueAt o.toNat k.toNat →
    (∀ v, q.enable = true → v.toNat < 2 ^ q.size.toNat →
      exec (.doorbell o k v) s = .next (s.setQueue o.toNat k.toNat { q with tail := fld v 0 16 })) ∧
    (∀ v, q.enable = true → 2 ^ q.size.toNat ≤ v.toNat →
      exec (.doorbell o k v) s = .next (s.setOwn o.toNat { s.ownAt o.toNat with reason := 0x0307 })) ∧
    (∀ v, q.enable = false → exec (.doorbell o k v) s = .next s) ∧
    (q.enable = false → (s.ownAt o.toNat).enable = true → (s.ownAt o.toNat).draining = false → q.base.toNat % 4096 = 0 →
      4 ≤ q.size.toNat → q.size.toNat ≤ 16 →
      exec (.qEnable o k true) s = .next (s.setQueue o.toNat k.toNat { q with
        enable := true, head := 0, tail := 0, seq := 0, stopped := false, fetchErr := false, fetchHeld := false, gen := q.gen + 1 })) ∧
    (q.enable = false → ((s.ownAt o.toNat).enable = false ∨ (s.ownAt o.toNat).draining = true ∨ q.base.toNat % 4096 ≠ 0 ∨
      q.size.toNat < 4 ∨ 16 < q.size.toNat) →
      exec (.qEnable o k true) s = .next (s.setOwn o.toNat { s.ownAt o.toNat with reason := 0x0306 })) ∧
    (exec (.qEnable o k false) s = .next (s.setQueue o.toNat k.toNat { q with enable := false })) ∧
    (∀ h bs, mayFetchSlot q = true → (q.host = true ∨ hbmUp s = true) → slotRead_ o q h s = (some bs, s') →
      exec (.ringSlotFetch o k h) s = .next (s'.setQueue o.toNat k.toNat { q with
        head := BitVec.ofNat 16 ((q.head.toNat + 1) % 2 ^ q.size.toNat), slots := q.slots ++ [{ cmd := leWord 512 bs }] })) ∧
    (∀ h, mayFetchSlot q = true → (q.host = true ∨ hbmUp s = true) → slotRead_ o q h s = (none, s') →
      exec (.ringSlotFetch o k h) s = .next (fetchFail o.toNat k.toNat s')) ∧
    (mayFetchSlot q = true → q.host = true → exec (.outboundReadTimeout o k) s = .next (logErr .sched 0x0380 agSched
      (BitVec.ofNat 48 (q.base.toNat + 64 * q.head.toNat))
      (s.setQueue o.toNat k.toNat { q with stopped := true, fetchErr := true, fetchHeld := true }))) ∧
    (exec (.qStoppedClear o k) s = .next (s.setQueue o.toNat k.toNat { q with stopped := false, fetchHeld := false }))

/-- R209, R210, R213 to R215, R240, R241, R249, R630: the head of a queue is checked, waits for its object (whose COUNT a CONSUME
lowers by THRESH), and dispatches on its turn, to its engine; a finished command that has come back completes. -/
def Obligations.QueueHead : Prop :=
  ∀ (s u : State) (o : Owner) (k : BitVec 3) (q : Queue) (x : QSlot) (xs : List QSlot), q = s.queueAt o.toNat k.toNat →
    (q.slots = x :: xs → x.checked = false → q.stopped = false → headerReason o x.cmd s = none →
      exec (.headerCheck o k) s = .next (s.setQueue o.toNat k.toNat { q with slots := { x with checked := true } :: xs })) ∧
    (∀ r, q.slots = x :: xs → x.checked = false → q.stopped = false → headerReason o x.cmd s = some r →
      exec (.headerCheck o k) s = .next (undispatched o.toNat k.toNat x.cmd (refusedOut r)
        (s.setQueue o.toNat k.toNat { q with slots := xs, stopped := q.stopOnErr }))) ∧
    (q.slots = x :: xs → x.checked = true → x.cmd.waitEn = true → x.waited = false → syncSettled s = true →
      waitMet (s.syncAt x.cmd.waitObj) = true → waitBefore x.cmd.waitObj (8 * o.toNat + k.toNat) s = false →
      u = s.setQueue o.toNat k.toNat { q with slots := { x with waited := true } :: xs } →
      (x.cmd.consume = false → exec (.commandWaitSatisfied o k) s = .next u) ∧
      (x.cmd.consume = true → exec (.commandWaitSatisfied o k) s = .next (State.setSync { u with sched := { u.sched with
          subs := kset 0 u.sched.subs x.cmd.waitObj (kget 0 u.sched.subs x.cmd.waitObj + (s.syncAt x.cmd.waitObj).thresh) } } x.cmd.waitObj
          { s.syncAt x.cmd.waitObj with
            count := (s.syncAt x.cmd.waitObj).count - (s.syncAt x.cmd.waitObj).thresh }))) ∧
    (∀ c t d, readyHead o.toNat k.toNat s = some c → dispatchTurn (8 * o.toNat + k.toNat) s = (true, t) →
      u = s.setQueue o.toNat k.toNat { q with slots := q.slots.drop 1, seq := q.seq + 1 } →
      d = { id := { owner := o, queue := k, seq := q.seq, gen := q.gen }, cmd := c, start := s.now
            got := !crossesE c.op, ink := inkChoice o k c s : Disp } →
      exec (.commandDispatch o k) s = .next (sendCmd d { u with sched := { u.sched with
        disp := u.sched.disp ++ [d], lastDisp := some s.now, rr := if t then 8 * o.toNat + k.toNat else u.sched.rr } })) ∧
    (∀ n d rest r, pickFirst (isDone o k n q.seq) s.sched.disp = some (d, rest) → d.st = .done r →
      exec (.commandCompletion o k n) s =
        .next (complete o.toNat d r n { s with sched := { s.sched with disp := rest } }))

/-- R53, R57, R64, R66, R80, R125, R132, R216 to R220, R228 to R232, R256, R301: a LAUNCH is taken up (or refused, or aborted with its
context), placed and loaded (one with KEEP keeps its stores and asks for its pages), starts on its tick, and an agreed count that
was missed drops it. -/
def Obligations.Launches : Prop :=
  ∀ (s s' t : State) (o : Owner) (k : BitVec 3) (n : W32) (h : HostBytes) (pid : BitVec 6) (d : Disp) (p : Part),
    (takeDisp o k n 0x08 s = some d → d.got = true → earlierQueued d 0x08 s = false →
      ((s.ownAt d.id.owner.toNat).draining = true → exec (.launch o k n h) s = .next (finish d.id (abortedOut 0x0321) s)) ∧
      (∀ r, (s.ownAt d.id.owner.toNat).draining = false → launchReason d.id.owner d.cmd s = some r →
        exec (.launch o k n h) s = .next (refuse d.id r s)) ∧
      (∀ bs x key, (s.ownAt d.id.owner.toNat).draining = false → launchReason d.id.owner d.cmd s = none → hbmUp s = true →
        lmaRead { o := d.id.owner, ag := agSched, k := 0, unm := 0x0584 } (d.cmd.f 40 0 40)
          (64 + 64 * d.cmd.nlq + 4 * d.cmd.f 48 0 14) h s = (.ok bs, s') →
        launchDescOf d.id.owner d.cmd.nlq (d.cmd.f 48 0 14) (d.cmd.f 12 0 12) bs s = some x →
        launchKey d.cmd s' = some (.ok key, t) →
        exec (.launch o k n h) s = .next (modDisp d.id (fun d => { d with st := .running })
          (t.setPart (launchPart d (t.partAt (d.cmd.pid d.id.owner)) x key t))))) ∧
    (s.partAt { owner := o, pid := pid } = some p →
      (p.st = .placing → firstLaunch s = some p.cmd → hbmUp s = true → (∀ a, p.agreed = some a → a.ult s.now = false) →
        (p.keep = false → (if p.timing = .exact ∨ p.timing = .rept then min p.nlq (tilesEn s) else 1) ≤ (freeQuills s).length →
          loadLqs p (p.timing == .exact && p.nlq ≤ tilesEn s) h p.nlq 0 ((freeQuills s).take p.nlq) s = (.ok, t) →
          exec (.launchPlace o pid h) s = .next (setUpLaunch ((t.partAt p.id).getD p) t)) ∧
        (p.keep = true → (p.timing = .exact → p.nlq ≤ tilesEn s → keepResident p = true) →
          exec (.launchPlace o pid h) s = .next (setUpLaunch p ((List.range p.nlq).foldl (fun s l => keepPages p l s) s)))) ∧
      (mayLaunch p s = true → exec (.launchTick o pid) s = .next (nnStart p (lsLaunch p (setRunning p true (modDisp p.cmd (fun d =>
        { d with start := s.now }) (s.setPart { p with st := .running, launchAt := s.now })))))) ∧
      (∀ a, p.agreed = some a → a.ule s.now = true → (p.st = .placing ∨ (p.st = .ready ∧ keyHere p s = false)) →
        exec (.agreedCountMissed o pid) s = .next (dropLaunch p (refusedOut 0x0317) s)))

/-- R213, R216, R221 to R224, R227, R631: NOP, SYNC_SET, STOP, RELEASE, EXCHANGE and its rounds, taken up by their engines. -/
def Obligations.SweepCommands : Prop :=
  ∀ (s s' t : State) (o : Owner) (k : BitVec 3) (n : W32) (h : HostBytes) (d : Disp) (p : Part),
    (takeDisp o k n 0x00 s = some d →
      exec (.nop o k n) s = .next (finish d.id (if payloadOk d.cmd [] then {} else refusedOut 0x0311) s)) ∧
    (takeDisp o k n 0x01 s = some d → d.start.ult s.now = true → payloadOk d.cmd [(8, 0, 17), (8, 24, 3), (12, 0, 64)] = true →
      ((s.syncAt (d.cmd.f 8 0 17)).owner = o → exec (.syncSet o k n) s =
        .next (finish d.id { res0 := (syncSetTo d.cmd (s.syncAt (d.cmd.f 8 0 17))).count.setWidth 64 }
          (s.setSync (d.cmd.f 8 0 17) (syncSetTo d.cmd (s.syncAt (d.cmd.f 8 0 17)))))) ∧
      ((s.syncAt (d.cmd.f 8 0 17)).owner ≠ o → exec (.syncSet o k n) s = .next (finish d.id (refusedOut 0x0404) s))) ∧
    (takeDisp o k n 0x0A s = some d → d.got = true → payloadOk d.cmd [(8, 0, 6)] = true →
      (s.partAt (d.cmd.pid o) = some p → partRuns p = true →
        exec (.stop o k n) s = .next (stopPart p 0x0320 (modDisp d.id (fun d => { d with st := .running }) s))) ∧
      (s.partAt (d.cmd.pid o) = some p → partRuns p = false → exec (.stop o k n) s = .next (finish d.id {} s)) ∧
      (s.partAt (d.cmd.pid o) = none → exec (.stop o k n) s = .next (finish d.id {} s))) ∧
    (takeDisp o k n 0x0B s = some d → d.got = true → payloadOk d.cmd [(8, 0, 6)] = true → s.partAt (d.cmd.pid o) = some p →
      (p.st = .idle → exec (.release o k n) s = .next (finish d.id {} (returnPart p s))) ∧
      (p.st ≠ .idle → exec (.release o k n) s = .next (finish d.id (refusedOut 0x0316) s))) ∧
    (∀ bs rx es x, takeDisp o k n 0x09 s = some d → d.got = true → exchangeReason d.cmd = none → hbmUp s = true →
      lmaRead { o := d.id.owner, ag := agSched, k := 0, unm := 0x0584 } (d.cmd.f 16 0 40) (8 * d.cmd.f 8 0 7) h s = (.ok bs, s') →
      es = (chop 8 (d.cmd.f 8 0 7) bs).map (fun b => repOf (leWord 64 b)) → listBad d.id.owner es s' = false →
      lmaRead { o := d.id.owner, ag := agSched, k := 0, unm := 0x0584 } (d.cmd.f 24 0 40) 512 h s' = (.ok rx, t) →
      x = { reps := es.map (·.1), rounds := BitVec.ofNat 32 (d.cmd.f 12 0 32), round0 := BitVec.ofNat 32 (d.cmd.f 40 0 32)
            seed := BitVec.ofNat 64 (d.cmd.f 32 0 64), rxsh := d.cmd.f 44 0 5, rxt := (chop 2 256 rx).map (leWord 16) : ExSt } →
      exec (.exchange o k n h) s = .next (x.reps.zipIdx.foldl (fun s e =>
        setReplica { owner := d.id.owner, pid := e.1.1 } (BitVec.ofNat 6 e.2) s)
          (modDisp d.id (fun d => { d with st := .running, ex := some x }) t))) ∧
    (∀ x, runDisp o k n 0x09 s = some d → d.ex = some x → exFires o x s = true →
      exec (.exchangeRound o k n h) s = .next (exchangeRound d x ((exParts o x s).map (·.1)) s))

/-- R216, R224, R248, R249, R253, R254, R261, R263, R264, R266, R493 to R496: COPY takes a slot and moves lines as its tags and the
line slots allow, up to its last line or the first error, and later COPY commands move the rest; PAGE_INVAL forgets its pages, PLANT_BIND
binds or unbinds, PLANT_ARM arms or disarms, each under its checks. -/
def Obligations.InkwellAndPlantCommands : Prop :=
  (∀ (s u : State) (o : Owner) (k : BitVec 3) (n : W32) (h : HostBytes) (d : Disp) (id : PartId) (ev dec : W64),
    (∀ src dst, takeDisp o k n 0x10 s = some d → d.got = true → copyReason d.id.owner d.cmd s = none → hbmUp s = true →
      copySlot d.ink s = true → u = modDisp d.id (fun d => { d with st := .running })
        (s.setWell d.ink { s.wellAt d.ink with copyUsed := (s.wellAt d.ink).copyUsed + 1 }) →
      copyEnd d.id.owner (d.cmd.f 28 0 4) (d.cmd.f 8 0 64) (d.cmd.f 24 0 32) u = some src →
      copyEnd d.id.owner (d.cmd.f 28 4 4) (d.cmd.f 16 0 64) (d.cmd.f 24 0 32) u = some dst →
      exec (.copy o k n h) s = .next (copyLines d { o := d.id.owner, ag := agInk d.ink, k := d.ink, unm := 0x0584 } src dst
        (d.cmd.f 24 0 32 / 64) h 25 {} u)) ∧
    (takeDisp o k n 0x10 s = none → runDisp o k n 0x10 s = some d →
      exec (.copy o k n h) s = .next (copyGo d (d.cp.getD {}) h s)) ∧
    (takeDisp o k n 0x11 s = some d → d.got = true → payloadOk d.cmd [(8, 0, 24), (12, 0, 25)] = true →
      s.ink.enable = true → d.cmd.f 12 0 25 ≠ 0 → d.cmd.f 8 0 24 + d.cmd.f 12 0 25 ≤ 0x1000000 →
      ((s.hcAt o.toNat).enable = true → hbmUp s = true) → pagesWalked o (d.cmd.f 8 0 24) (d.cmd.f 12 0 25) s = false →
      (pageForget o (d.cmd.f 8 0 24) (d.cmd.f 12 0 25) s = (none, u) → exec (.pageInval o k n) s = .next (finish d.id {} u)) ∧
      (∀ e, pageForget o (d.cmd.f 8 0 24) (d.cmd.f 12 0 25) s = (some e, u) →
        exec (.pageInval o k n) s = .next (finish d.id (faultOut e) u))) ∧
    (takeDisp o k n 0x28 s = some d → d.got = true →
      payloadOk d.cmd [(8, 0, 6), (9, 0, 1), (16, 0, 64), (24, 0, 64)] = true → id = d.cmd.pid o →
      ev = BitVec.ofNat 64 (d.cmd.f 16 0 64) → dec = BitVec.ofNat 64 (d.cmd.f 24 0 64) →
      bindBad (d.cmd.bitAt 9 0) id ev s.plant.evBind = false → bindBad (d.cmd.bitAt 9 0) id dec s.plant.decBind = false →
      (∀ p, s.partAt id = some p → partRuns p = false) →
      exec (.plantBind o k n) s =
        .next (finish d.id {} (if d.cmd.bitAt 9 0 then unbindEv ev (unbindDec dec s) else bindMailboxes id ev dec s))) ∧
    (takeDisp o k n 0x29 s = some d → d.got = true → payloadOk d.cmd [(8, 0, 1)] = true →
      dec = boundMask s.plant.decBind (fun p => p.owner == o) →
      (d.cmd.bitAt 8 0 = false → exec (.plantArm o k n) s = .next (finish d.id {} (disarmMask dec s))) ∧
      (d.cmd.bitAt 8 0 = true → armReason dec s = none → exec (.plantArm o k n) s = .next (finish d.id {} (armMask dec s))) ∧
      (∀ r, d.cmd.bitAt 8 0 = true → armReason dec s = some r →
        exec (.plantArm o k n) s = .next (finish d.id (refusedOut r) { s with plant := { s.plant with reason := r } })))) ∧
  (∀ (s t : State) (d : Disp) (c : Acc) (src dst : CopyEnd) (n f : Nat) (h : HostBytes) (x : Xfer),
    (n ≤ x.line → copyLines d c src dst n h (f + 1) x s = copyEnds d x {} s) ∧
    (x.line < n → 0 < x.held → lineSlot d.ink s = true →
      (∀ e, copyLine c (src.plus (64 * x.line)) (dst.plus (64 * x.line)) h s = (some e, t) →
        copyLines d c src dst n h (f + 1) x s = copyEnds d x (faultOut e) t) ∧
      (copyLine c (src.plus (64 * x.line)) (dst.plus (64 * x.line)) h s = (none, t) →
        copyLines d c src dst n h (f + 1) x s = copyLines d c src dst n h f { x with line := x.line + 1, held := x.held - 1 }
          ((lineMoved d.ink false t).setWell d.ink { (lineMoved d.ink false t).wellAt d.ink with
            bytesOut := ((lineMoved d.ink false t).wellAt d.ink).bytesOut - 64 }))))

/-- R233 to R236, R241: the rows of the sync objects: a read of SYNC_ALLOC takes the lowest free object within the quota, SYNC_FREE
frees one that nothing binds, COUNT and THRESH are written on the tick after the release, ADD adds on the tick of the release, after
the tick's sets. -/
def Obligations.SyncRows : Prop :=
  ∀ (s : State) (o : Owner), o.toNat ≤ 64 →
    (∀ ag, (s.ownAt o.toNat).quota.toNat ≤ syncUsed o s → exec (.syncAlloc ag o) s = .next (ans ag .ok 0x80000401 s)) ∧
    (∀ ag, syncUsed o s < (s.ownAt o.toNat).quota.toNat → syncCount ≤ lowestFree 0 s.sync →
      exec (.syncAlloc ag o) s = .next (ans ag .ok 0x80000405 s)) ∧
    (∀ ag, syncUsed o s < (s.ownAt o.toNat).quota.toNat → lowestFree 0 s.sync < syncCount →
      exec (.syncAlloc ag o) s = .next (ans ag .ok (BitVec.ofNat 512 (lowestFree 0 s.sync)) (s.setSync (lowestFree 0 s.sync) { owner := o }))) ∧
    (∀ n : W32, n.toNat < syncCount → (s.syncAt n.toNat).owner = o → (s.syncAt n.toNat).bound = 0 → awaited n.toNat s = false →
      exec (.syncFree o n) s = .next (s.setSync n.toNat { s.syncAt n.toNat with owner := 0x7F })) ∧
    (∀ n : W32, n.toNat < syncCount → (s.syncAt n.toNat).owner = o → ((s.syncAt n.toNat).bound ≠ 0 ∨ awaited n.toNat s = true) →
      exec (.syncFree o n) s = .next (s.setOwn o.toNat { s.ownAt o.toNat with reason := 0x0403 })) ∧
    (∀ n : W32, (syncCount ≤ n.toNat ∨ (s.syncAt n.toNat).owner ≠ o) →
      exec (.syncFree o n) s = .next (s.setOwn o.toNat { s.ownAt o.toNat with reason := 0x0402 })) ∧
    (∀ n th v, exec (.syncCountWrite o n th v) s =
      .next { s with syncWr := s.syncWr ++ [{ owner := o, obj := n, thresh := th, v := v, ag := agHost, rel := s.now }] }) ∧
    (∀ n v, setsDone s = true → (s.syncAt n.toNat).owner = o → exec (.syncAdd o n v) s =
      .next (s.setSync n.toNat { s.syncAt n.toNat with count := (s.syncAt n.toNat).count + v })) ∧
    (∀ n v, setsDone s = true → (s.syncAt n.toNat).owner ≠ o →
      exec (.syncAdd o n v) s = .next (logErr .sched 0x0480 agHost (BitVec.ofNat 48 n.toNat) s)) ∧
    (∀ n v, setsDone s = false → exec (.syncAdd o n v) s = .next { s with inbox := s.inbox ++ [
      { cls := .q2s, src := 0xFFF, dst := 0, stamp := s.now, metered := true, arrived := true, rel := s.now, pay := .incr o n v agHost none }] })

-- Memory
/-- R244, R248, R256, R267: INK_ENABLE and HC_ENABLE pass their checks or latch their reasons, the tags of a page cache are
cleared, a waiting transaction of a fetch takes a free tag, and a granule changes its owner, for later ticks, unless the old owner's
context is enabled. -/
def Obligations.InkwellControl : Prop :=
  ∀ s : State,
    (s.ink.enable = false → firstReason (inkChecks s) = none → exec (.inkEnable true) s = .next { s with ink := { s.ink with enable := true } }) ∧
    (∀ r, s.ink.enable = false → firstReason (inkChecks s) = some r → exec (.inkEnable true) s = .next { s with ink := { s.ink with reason := r } }) ∧
    (exec (.inkEnable false) s = .next { s with ink := { s.ink with enable := false } }) ∧
    (∀ o : Owner, ∀ h, o.toNat ≤ 64 → h = s.hcAt o.toNat → h.enable = false → (s.ownAt o.toNat).enable = true → h.frames.toNat ≠ 0 →
      h.frames.toNat ≤ 0x1000000 → h.base.toNat % 0x200000 = 0 → h.tags.toNat % 64 = 0 →
      granulesOwned o h.base.toNat (h.frames.toNat * 0x10000) s = true → granulesOwned o h.tags.toNat (4 * h.frames.toNat) s = true →
      exec (.hcEnable o true) s = .next (s.setHc o.toNat { h with enable := true, init := true })) ∧
    (∀ o : Owner, o.toNat ≤ 64 → exec (.hcEnable o false) s = .next (s.setHc o.toNat { s.hcAt o.toNat with enable := false, init := false })) ∧
    (∀ o : Owner, ∀ a n, (s.hcAt o.toNat).init = true → hbmUp s = true → a = (s.hcAt o.toNat).tags.toNat →
      n = 4 * (s.hcAt o.toNat).frames.toNat →
      exec (.hcInitDone o) s = .next { s.setHc o.toNat { s.hcAt o.toNat with init := false } with hbm := { s.hbm with
        mem := kfilter (fun k _ => !(a ≤ k && k < a + n)) s.hbm.mem
        key := kbytes 0 s.hbm.key (a / 64) (List.replicate ((n + 63) / 64) (s.keyOf o))
        ecc := kfilter (fun w _ => !(a ≤ 8 * w && 8 * w < a + n)) s.hbm.ecc } }) ∧
    (∀ (k : BitVec 2) (u : State) (fs : List Fetch), 0 < (s.wellAt k.toNat).tagWait → (s.wellAt k.toNat).tagsUsed.toNat < 4096 →
      u = s.setWell k.toNat { s.wellAt k.toNat with
        tagWait := (s.wellAt k.toNat).tagWait - 1, tagsUsed := (s.wellAt k.toNat).tagsUsed + 1 } →
      modFirst (fun (f : Fetch) => f.k == k.toNat && 0 < f.xf.want) (fun f => { f with xf := f.xf.grant }) s.ink.fetches = some fs →
      exec (.inkwellTagGrant k) s = .next { u with ink := { u.ink with fetches := fs } }) ∧
    (∀ (g : W16) (v : W32), g.toNat < 49152 → ((fld v 0 7).toNat ≤ 64 ∨ fld v 0 7 = (0x7F : Owner)) →
      ((fld v 0 7 = (0x7F : Owner) ∨ s.granuleNext g.toNat = 0x7F ∨ (s.ownAt (s.granuleNext g.toNat).toNat).enable = false) →
        exec (.pageOwnerWrite g v) s = .next { s with ink := { s.ink with ownPend := kput s.ink.ownPend g.toNat (fld v 0 7) } }) ∧
      (fld v 0 7 ≠ (0x7F : Owner) → s.granuleNext g.toNat ≠ 0x7F → (s.ownAt (s.granuleNext g.toNat).toNat).enable = true →
        exec (.pageOwnerWrite g v) s = .next { s with ink := { s.ink with reason := 0x0504 } }))

/-- R247, R248, R272, R273, R577, R586, R590, R591: an access through BAR4 reaches HBM for the BAR4 owner or ends in an error
response with the register's code; refresh and patrol do their work in the background: a patrol read counts what it finds, writes
corrected words back and goes on to the next line. -/
def Obligations.HbmAccess : Prop :=
  ∀ (s s' : State) (off : BitVec 37) (len a : Nat) (d : BitVec 512) (wr : Bool),
    (s.domRun 40 = true → len ≠ 0 → a = bar4Dpa off.toNat s → a % 64 + len ≤ 64 →
      (s.host.d3hot = true → exec (.bar4Access off wr len d) s = .next { s with rsp := { st := .err, agent := agHost, data := 0 } }) ∧
      (s.host.d3hot = false → hbmTop ≤ a →
        exec (.bar4Access off wr len d) s = .next (errRsp agHost (logErr .glb 0x0183 agHost (BitVec.ofNat 48 a) s))) ∧
      (s.host.d3hot = false → a < hbmTop → s.ink.enable = false →
        exec (.bar4Access off wr len d) s = .next (errRsp agHost (logErr .glb 0x0185 agHost (BitVec.ofNat 48 a) s))) ∧
      (s.host.d3hot = false → a < hbmTop → hbmUp s = true → (s.wellAt (inkAt a)).tagsUsed.toNat < 4096 →
        (64 < s.ink.bar4Owner.toNat →
          exec (.bar4Access off wr len d) s = .next (errRsp agHost (logErr .ink 0x0580 agHost (BitVec.ofNat 48 a) s))) ∧
        (s.ink.bar4Owner.toNat ≤ 64 →
          (∀ bs, hbmRead s.ink.bar4Owner agHost a len s = (.ok bs, s') → exec (.bar4Access off false len d) s =
            .next { s' with rsp := { st := .ok, agent := agHost, data := leWord 512 bs } }) ∧
          (∀ e, hbmRead s.ink.bar4Owner agHost a len s = (.error e, s') →
            exec (.bar4Access off false len d) s = .next (errRsp agHost s')) ∧
          (hbmWrite (inkAt a) s.ink.bar4Owner agHost a (wordBytes len d) s = (none, s') →
            exec (.bar4Access off true len d) s = .next { s' with rsp := { st := .ok, agent := agHost, data := 0 } }) ∧
          (∀ e, hbmWrite (inkAt a) s.ink.bar4Owner agHost a (wordBytes len d) s = (some e, s') →
            exec (.bar4Access off true len d) s = .next (errRsp agHost s'))))) ∧
    (∀ stk : BitVec 3, stk.toNat < 6 → s.hbm.trained = true → s.domRun 23 = true →
      exec (.hbmRefresh stk) s = .next { s with hbm := { s.hbm with
        refresh := kset 0 s.hbm.refresh stk.toNat (kget 0 s.hbm.refresh stk.toNat + 1) } }) ∧
    (∀ (stk : BitVec 3) (es : List (Nat × Ecc)) (u : State),
      stk.toNat < 6 → s.ink.patrolEn = true → s.hbm.trained = true → s.domRun 23 = true →
      (∀ t, kfind s.hbm.patrolAt stk.toNat = some t → (t + 4096).ule s.now = true) →
      (kget false s.ink.busy stk.toNat = false ∨ 1024 ≤ kget 0 s.ink.patWait stk.toNat) →
      a = stackDpa stk.toNat (64 * kget 0 s.hbm.patrol stk.toNat) → es = hbmChecks a 64 s.hbm →
      (match es.find? (fun e => e.2 == .bad) with
        | some e => u = logErr .ink 0x0581 agSched (BitVec.ofNat 48 (8 * e.1)) (eccCount es s)
        | none => u = eccCount es s) →
      exec (.patrolRead stk) s = .next { u with
        hbm := { s.hbm with
          ecc := kfilter (fun w e => w / 8 != a / 64 || e != .corr) s.hbm.ecc
          patrol := kset 0 s.hbm.patrol stk.toNat ((kget 0 s.hbm.patrol stk.toNat + 1) % 0x10000000)
          patrolAt := kput s.hbm.patrolAt stk.toNat s.now }
        ink := { u.ink with patWait := kset 0 s.ink.patWait stk.toNat 0 } })

-- Collectives
/-- R350 to R355: the sort engine takes up a SORT that passes its checks when it is free, or refuses it, and from then on the
output ranges are undefined; run, the command writes its keys and indices in sorted order and completes; a failing read ends it with
its outputs undefined. The order of R350 is a permutation of the positions along which the keys rise (or fall). R356, R359: VALID of
a group passes its check or latches 0x0606, and the fields of a member are kept for the comparison. -/
def Obligations.SortAndGroups : Prop :=
  (∀ (s s1 s2 s3 s4 s5 : State) (o : Owner) (k : BitVec 3) (n : W32) (h : HostBytes) (d : Disp) (x : SortCmd) (c : Acc)
     (kb ib : List Byte) (seed : Nat), x = sortOf d.cmd → c = collAcc d.id.owner agSort →
     (takeDisp o k n 0x18 s = some d → d.got = true → earlierQueued d 0x18 s = false → sortBusy s = false →
       (∀ r, sortReason d.cmd = some r → r ≠ 0x0311 →
         exec (.sort o k n h) s = .next (finish d.id (refusedOut r) { s with coll := { s.coll with reason := r } })) ∧
       (sortReason d.cmd = some 0x0311 → exec (.sort o k n h) s = .next (finish d.id (refusedOut 0x0311) s)) ∧
       (sortReason d.cmd = none → hbmUp s = true → exec (.sort o k n h) s = .next (modDisp d.id (fun d => { d with st := .running })
         (scramble c x.iout (4 * x.outs) (scramble c x.kout (x.outs * x.w) s))))) ∧
     (takeDisp o k n 0x18 s = none → runDisp o k n 0x18 s = some d → hbmUp s = true →
       (lmaRead c x.kin (x.n * x.w) h s = (.ok kb, s1) →
         (if x.iin = 0 then (.ok [], s1) else lmaRead c x.iin (4 * x.n) h s1 : Except MemErr (List Byte) × State) = (.ok ib, s2) →
         tieSeed d.id.owner kb s2 = (seed, s3) → lmaWrite c x.kout (sortOut x seed kb ib).1 s3 = (none, s4) →
         lmaWrite c x.iout (sortOut x seed kb ib).2 s4 = (none, s5) →
         exec (.sort o k n h) s = .next (finish d.id { res0 := BitVec.ofNat 64 x.outs } s5)) ∧
       (∀ e, lmaRead c x.kin (x.n * x.w) h s = (.error e, s1) →
         exec (.sort o k n h) s = .next (sortFault d c e s1)))) ∧
  (∀ (desc : Bool) (seed : Nat) (keys : List Int),
     (sortOrder desc seed keys).Perm (List.range keys.length) ∧
     ((sortOrder desc seed keys).map (fun i => keys.getD i 0)).Pairwise (fun a b => if desc then b ≤ a else a ≤ b)) ∧
  (∀ (s : State) (g : BitVec 4) (x : Grp), x = s.grpAt g.toNat →
     (g ≠ 0 → x.valid = false → s.glb.surrEn = true → chipNo s ∈ grpMembers s g.toNat →
       (∀ c ∈ grpMembers s g.toNat, c < chipCount s) →
       exec (.collGrpValid g true) s = .next (s.setGrp g.toNat { x with valid := true })) ∧
     (g ≠ 0 → x.valid = false → (s.glb.surrEn = false ∨ chipNo s ∉ grpMembers s g.toNat ∨ ∃ c ∈ grpMembers s g.toNat, chipCount s ≤ c) →
       exec (.collGrpValid g true) s = .next { s with coll := { s.coll with reason := 0x0606 } }) ∧
     (g ≠ 0 → exec (.collGrpValid g false) s = .next (s.setGrp g.toNat { x with valid := false })) ∧
     (exec (.collGrpValid 0 true) s = .next s) ∧
     (∀ src f, grpValid s g.toNat = true → src.toNat ∈ grpMembers s g.toNat → src.toNat ≠ chipNo s → x.ctl.length < 65536 →
       exec (.collCtlReceive g src f) s = .next (s.setGrp g.toNat { x with ctl := x.ctl ++ [(src, f)] })))

/-- R355, R358 to R367: a collective is refused with the code of its first failing check, or taken up, and its fields go to rank 0; once
the members agree and their data is there it completes with its result (reduction, gathering, broadcast, barrier or sample-sort);
where they differ it ends with 0x0681. -/
def Obligations.Collectives : Prop :=
  ∀ (s s' t : State) (o : Owner) (k : BitVec 3) (n : W32) (h : HostBytes) (peers vs : List (List Byte)) (d : Disp) (x : CollCmd) (c : Acc)
    (mine : List Byte) (i : Instr),
    collDisp o k n s = some d → x = collOf d.cmd → c = collAcc d.id.owner agColl →
    (x.op, i) ∈ [(0, Instr.allReduce o k n h peers), (1, .allGather o k n h peers), (2, .broadcast o k n h peers), (4, .barrier o k n),
      (5, .sampleSort o k n h peers)] →
    (∀ r, collReason d.id.owner d.cmd s = some r → r ≠ 0x0311 → r ≠ 0x0205 →
      exec i s = .next (finish d.id (refusedOut r) { s with coll := { s.coll with reason := r } })) ∧
    (collReason d.id.owner d.cmd s = none → groupBusy d s = false →
    (d.st = .queued → exec i s = .next (modDisp d.id (fun d => { d with st := .running }) (sendCtl d s))) ∧
    (d.st = .running → ctlVerdict x s = some false →
      exec i s = .next (collEnd d { status := .fault, code := 0x0681 } (logErr .sort 0x0681 agColl 0 s))) ∧
    (d.st = .running → ctlVerdict x s = some true →
      (x.op = 4 → exec i s = .next (collEnd d {} s)) ∧
      (hbmUp s = true → lmaRead c x.src (x.count * elemSize x.dtype) h s = (.ok mine, s') → rankData x mine peers s' = some vs →
        (x.op = 0 → lmaWrite c x.dst (reduceAll x.dtype x.redop x.count vs) s' = (none, t) → exec i s = .next (collEnd d {} t)) ∧
        (x.op = 1 → lmaWrite c x.dst vs.flatten s' = (none, t) → exec i s = .next (collEnd d {} t))) ∧
      (hbmUp s = true → x.op = 2 → x.root = chipNo s → lmaRead c x.src (x.count * elemSize x.dtype) h s = (.ok mine, s') →
        lmaWrite c x.dst mine s' = (none, t) → exec i s = .next (collEnd d {} t)) ∧
      (hbmUp s = true → x.op = 2 → x.root ≠ chipNo s → peers = [mine] → mine.length = x.count * elemSize x.dtype →
        lmaRead c x.src 0 h s = (.ok [], s') → lmaWrite c x.dst mine s' = (none, t) → exec i s = .next (collEnd d {} t)) ∧
      (x.op = 5 → sampleSort x c h peers s = some ({}, t) → exec i s = .next (collEnd d {} t))))

/-- R69, R342 to R345: the boundary exchange: an invalid command is refused, a valid one starts with the entries of its lists, a round
fires when its arrivals are there, a fired round that is complete ends and releases its waiters, the last one completes the command, a
FREEX batch leaves every PERIOD ticks, and a round that stays incomplete times out with 0x0787. -/
def Obligations.BoundaryExchange : Prop :=
  ∀ (s s1 s2 s3 : State) (o : Owner) (k : BitVec 3) (n : W32) (h : HostBytes) (d : Disp) (b : BxSt) (c : Acc) (x : CollCmd),
    x = collOf d.cmd → c = collAcc d.id.owner agColl →
    (takeDisp o k n 0x20 s = some d → d.got = true → x.op = 3 →
      (∀ r, bxReason d.id.owner d.cmd s = some r → r ∈ [(0x0706 : W16), 0x0707] →
        exec (.boundaryExchange o k n h) s = .next (finish d.id (refusedOut r) { s with kl := { s.kl with reason := r } })) ∧
      (∀ r, bxReason d.id.owner d.cmd s = some r → r ∈ [(0x0311 : W16), 0x0205, 0x0201] →
        exec (.boundaryExchange o k n h) s = .next (finish d.id (refusedOut r) s)) ∧
      (bxReason d.id.owner d.cmd s = none → hbmUp s = true →
        (∀ e, lmaRead c x.dst 64 h s = (.error e, s1) →
          exec (.boundaryExchange o k n h) s = .next (finish d.id (faultOut e) (logSort c e s1))) ∧
        (∀ ds, lmaRead c x.dst 64 h s = (.ok ds, s1) → bxDesc d.id.owner x.freex ds s1 = none →
          exec (.boundaryExchange o k n h) s = .next (finish d.id (refusedOut 0x0706) { s1 with kl := { s1.kl with reason := 0x0706 } })) ∧
        (∀ ds nin il ow iw p, lmaRead c x.dst 64 h s = (.ok ds, s1) → bxDesc d.id.owner x.freex ds s1 = some (b, nin, il) →
          lmaWords c x.src x.count h s1 = (.ok ow, s2) → lmaWords c il nin h s2 = (.ok iw, s3) →
          s3.partAt { owner := d.id.owner, pid := BitVec.ofNat 6 x.pid } = some p →
          (ow.all (fun w => (outEntry p.nlq w).2) = true ∧ iw.all (fun w => (inEntry p.nlq w).2) = true) →
          (∀ w ∈ ow, chipBad s3 (outEntry p.nlq w).1.2.2.toNat = false) → (∀ w ∈ iw, chipBad s3 (inEntry p.nlq w).1.1.toNat = false) →
          s3.kl.collIn = [] →
          exec (.boundaryExchange o k n h) s = .next (modDisp d.id (fun d => { d with
            st := .running
            bx := some { b with
              pid := BitVec.ofNat 6 x.pid, outs := ow.map (fun w => (outEntry p.nlq w).1), ins := iw.map (fun w => (inEntry p.nlq w).1) } })
            s3)))) ∧
    (runDisp o k n 0x20 s = some d → d.bx = some b →
      (bxFires d b s = true → exec (.boundaryRound o k n) s = .next ((b.held.filter (fun e => e.1 == b.round)).foldl
        (fun s e => bxEntry d.id (BitVec.ofNat 16 b.round) e.2.1 s e.2.2)
        (modBx d.id (fun b => { b with firedAt := some (bxSendAll d b s).now, held := b.held.filter (fun e => e.1 != b.round) })
          (bxSendAll d b s)))) ∧
      (bxComplete b = true → b.round + 1 ≠ b.rounds.toNat → exec (.boundaryRoundDone o k n) s =
        .next (modBx d.id (fun b => { b with round := b.round + 1, firedAt := none, got := [] }) (incrNow o b.release 1 agColl s))) ∧
      (bxComplete b = true → b.round + 1 = b.rounds.toNat → exec (.boundaryRoundDone o k n) s =
        .next (finish d.id {} (modBx d.id (fun b => { b with round := b.round + 1, firedAt := none, got := [] })
          (incrNow o b.release 1 agColl s)))) ∧
      (∀ p, s.partAt { owner := d.id.owner, pid := b.pid } = some p → b.period ≠ 0 → p.st = .running → 0 < (s.now - p.launchAt).toNat →
        (s.now - p.launchAt).toNat % b.period.toNat = 0 → b.lastBatch ≠ some s.now →
        exec (.freexBatch o k n) s = .next (bxSendAll d b (modBx d.id (fun b => { b with lastBatch := some s.now }) s))) ∧
      (∀ t, bxComplete b = false → b.firedAt = some t → (t + 1048576).ule s.now = true →
        exec (.boundaryRoundTimeout o k n) s =
          .next (finish d.id { status := .fault, code := 0x0787 } (logErr .kl 0x0787 agColl 0 s))))

-- Madder
/-- R281 to R288: the sources: a bit of a source in start-up is tested, a bit of a running source is tested and enters the conditioner
in its turn, the 1,024th bit offers a block, a failing test discards the block and restarts the source, a start-up test ends, a restart
begins the next test, the start-up timeout raises the fatal alarm, and CLEAR_FATAL restarts every enabled source. R286, R289 to R296:
the DRBG instances: a block goes to the instance that waits, INSTANTIATE and RESEED pass their checks, a full operation makes the
instance serve, words and masks count requests, and the two software ports answer their own agents. -/
def Obligations.MadderPorts : Prop :=
  (∀ (s : State) (n : BitVec 2) (b : Bool) (x y : Src) (run cnt : Nat), x = s.srcAt n.toNat → y = (x.test b).1 →
     run = (if 0 < x.runLen ∧ x.last = b then x.runLen + 1 else 1) →
     cnt = (if x.winPos = 0 then 1 else if x.winFirst = b then x.winCnt + 1 else x.winCnt) →
     ((x.test b).2.1 = decide (61 ≤ run) ∧ (x.test b).2.2 = decide (840 ≤ cnt)) ∧
     (x.on = true → x.restarting = false → x.starting = true → x.seen < 1024 → exec (.rawBit n b) s = .next (s.setSrc n.toNat
       { y with seen := x.seen + 1, bad := x.bad || decide (61 ≤ run) || decide (840 ≤ cnt) })) ∧
     (x.on = true → x.restarting = false → x.starting = false → run < 61 → cnt < 840 →
       exec (.rawBit n b) s = .next (condition n.toNat b (s.setSrc n.toNat y))) ∧
     (x.on = true → x.restarting = false → x.starting = false → 61 ≤ run → exec (.rawBit n b) s =
       .next (sourceFail n.toNat 0x0880 (s.setSrc n.toNat { y with rctFails := satInc x.rctFails }))) ∧
     (x.on = true → x.restarting = false → x.starting = false → run < 61 → 840 ≤ cnt → exec (.rawBit n b) s =
       .next (sourceFail n.toNat 0x0881 (s.setSrc n.toNat { y with aptFails := satInc x.aptFails }))) ∧
     (s.mad.fatal = false → s.mad.rota.filter (fun k => (s.srcAt k).healthy) = n.toNat :: s.mad.rota.tail →
       ((condition n.toNat b s).mad.s = (s.mad.s <<< 1) |||
          (if (((bit s.mad.s 255 ^^ bit s.mad.s 253) ^^ bit s.mad.s 250) ^^ bit s.mad.s 245) ^^ b then 1 else 0) ∧
        (condition n.toNat b s).mad.cnt = (if s.mad.cnt + 1 = 1024 then 0 else s.mad.cnt + 1))) ∧
     (x.starting = true → x.seen = 1024 → x.bad = true → exec (.startupTestDone n) s =
       .next (sourceFail n.toNat 0x0883 (s.setSrc n.toNat { x with startFails := satInc x.startFails }))) ∧
     (x.starting = true → x.seen = 1024 → x.bad = false → ∃ t, exec (.startupTestDone n) s = .next t ∧
       t.mad.src = (s.setSrc n.toNat { x with starting := false, healthy := true }).mad.src ∧
       t.mad.two = (s.mad.two || decide (2 ≤ (healthyList t).length)) ∧ t = { s with mad := t.mad }) ∧
     (x.restarting = true → exec (.sourceRestartDone n) s = .next (s.setSrc n.toNat
       (if bit s.mad.srcEn n.toNat then x.begin else { x with restarting := false, on := false }))) ∧
     (s.mad.started = true → s.mad.two = false → s.mad.fatal = false →
       exec .fatalStartupTimeout s = .next (logErr .mad 0x0882 agMad 0 { s with mad := { s.mad with fatal := true } })) ∧
     (∃ t, exec .clearFatal s = .next t ∧ t.mad.fatal = false ∧ t.mad.two = false ∧ t.mad.inst = s.mad.inst ∧ t.mad.errlog = s.mad.errlog ∧
       t = { s with mad := t.mad } ∧ (bit s.mad.srcEn n.toNat = true → (t.srcAt n.toNat).restarting = true ∧ (t.srcAt n.toNat).on = true ∧
         (t.srcAt n.toNat).healthy = false ∧ (t.srcAt n.toNat).consec = 0))) ∧
  (∀ (s s' : State) (j : BitVec 3) (d : Drbg) (bs : List Byte), d = s.instAt j.toNat →
     (s.mad.offer = none → exec .blockOffered s = .next s) ∧
     (∀ w c, s.mad.offer = some (w, c) → nextInst s = none →
       exec .blockOffered s = .next { s with mad := { s.mad with offer := none } }) ∧
     (∀ w c i, s.mad.offer = some (w, c) → nextInst s = some i → exec .blockOffered s = .next { s with mad := { s.mad with
       offer := none
       blocks := s.mad.blocks + 1
       inst := kset {} s.mad.inst i { s.instAt i with
         need := (s.instAt i).need - 1, full := (s.instAt i).need = 1, blocks := (s.instAt i).blocks ++ [w] }
       src := s.mad.src.map (fun e => (e.1, if 256 ≤ kget 0 c e.1 then { e.2 with consec := 0 } else e.2)) } }) ∧
     (j.toNat < 5 → d.len.toNat ≤ 48 → d.need = 0 → d.full = false →
       exec (.instantiate j) s = .next (s.setInst j.toNat { d with need := 3, isInst := true, blocks := [], extra := d.bytes }) ∧
       exec (.reseed j) s = .next (s.setInst j.toNat { d with need := 2, isInst := false, blocks := [], extra := d.bytes })) ∧
     (j.toNat < 5 → 48 < d.len.toNat → exec (.instantiate j) s = .next { s with mad := { s.mad with reason := 0x0803 } } ∧
       exec (.reseed j) s = .next { s with mad := { s.mad with reason := 0x0803 } }) ∧
     (j.toNat < 5 → d.len.toNat ≤ 48 → (d.need ≠ 0 ∨ d.full = true) →
       exec (.instantiate j) s = .next { s with mad := { s.mad with reason := 0x0804 } } ∧
       exec (.reseed j) s = .next { s with mad := { s.mad with reason := 0x0804 } }) ∧
     (j.toNat < 5 → d.ready = true → d.need = 0 → d.full = false → 65536 ≤ d.reqs.toNat → s.mad.fatal = false →
       exec (.autoReseed j) s = .next (s.setInst j.toNat { d with need := 2, isInst := false, blocks := [], extra := d.bytes })) ∧
     (d.full = true → (j ≠ 0 ∨ s.mad.wrap ≠ []) → exec (.drbgOperationDone j) s = .next (s.setInst j.toNat { d with
       full := false, ready := true, reqs := 0, stopped := false, st := d.next, blocks := [], extra := [] })) ∧
     (canGenerate 0 s = true → generate 0 s = (bs, s') → exec .cipherMaskRefresh s =
       .next { s' with mad := { s'.mad with masks := s'.mad.masks + 1, mask := bs } }) ∧
     (∀ host : Bool, ∀ i, i = (if host then 4 else 3) → (s.instAt i).out = [] → canGenerate i s = true → generate i s = (bs, s') →
       exec (.swPortGenerate host) s = .next (s'.setInst i { s'.instAt i with
         out := (s'.instAt i).out ++ (List.range 16).map (fun k => leWord 64 ((bs.drop (4 * k)).take 4).reverse) })) ∧
     (∀ ag w ws, 0x100 ≤ ag.toNat → ag.toNat < 0x108 → (s.instAt 3).out = w :: ws →
       exec (.swSepiaData ag) s = .next (ans ag .ok ((fld w 0 32).setWidth 512) (s.setInst 3 { s.instAt 3 with out := ws }))) ∧
     (∀ ag, (ag.toNat < 0x100 ∨ 0x108 ≤ ag.toNat) →
       exec (.swSepiaData ag) s = .next (errRsp ag (logErr .mad 0x0885 ag 0x030000B00300 s))) ∧
     (∀ w ws, (s.instAt 4).out = w :: ws → exec (.swHostData agHost) s =
       .next (ans agHost .ok ((fld w 0 32).setWidth 512) (s.setInst 4 { s.instAt 4 with out := ws }))) ∧
     ((s.instAt 4).out = [] → exec (.swHostData agHost) s =
       .next (ans agHost .ok 0 (logErr .mad 0x0884 agHost 0x030000B00310 { s with mad := { s.mad with hostUnder := true } }))) ∧
     (∀ ag, ag ≠ agHost → exec (.swHostData ag) s = .next (errRsp ag (logErr .mad 0x0885 ag 0x030000B00310 s))))

-- Kysto
/-- R306, R308, R309, R315, R317, R322 to R325: a link: enabling and training, a frame opportunity, accepted, LINK and bad frames, the
repeated NAK, the replay timeout and a lost lane lock. R318, R319, R328 to R334: packets: the oldest of a class is delivered here, routed
on, or dropped; a request is performed and answered; a response ends its tag, and with an error status its command; a tag that waits
too long faults with 0x0787. -/
def Obligations.KystoLinks : Prop :=
  (∀ (s : State) (l : BitVec 4) (k : Link) (f : BitVec 1088), k = s.linkAt l.toNat →
     (∀ v, exec (.klEnable v) s = .next ((List.range 16).foldl (klEnableBit v) s)) ∧
     (∀ v : W16, bit v l.toNat = true → bit s.kl.enable l.toNat = false → s.glb.surrEn = true → mapValid s = true →
       linkConn s l.toNat = true → s.domRun (24 + l.toNat) = true → ∃ t, klEnableBit v s l.toNat = t ∧
       t.kl.enable = setBit s.kl.enable l.toNat true ∧ (t.linkAt l.toNat).st = .training ∧ (t.linkAt l.toNat).txq = []) ∧
     (∀ v : W16, bit v l.toNat = true → bit s.kl.enable l.toNat = false → s.glb.surrEn = false →
       klEnableBit v s l.toNat = { s with kl := { s.kl with reason := 0x0701 } }) ∧
     (∀ chip lk dim dir, k.st = .training → chip.toNat = neighbour s l.toNat → dim.toNat = linkDim s l.toNat → dir ≠ linkDir s l.toNat →
       exec (.linkTrained l true chip lk dim dir) s = .next (s.setLink l.toNat { k with
         st := .up, partner := chip, idPend := true, ident := linkIdent l.toNat s })) ∧
     (∀ chip lk dim dir, k.st = .training →
       (chip.toNat ≠ neighbour s l.toNat ∨ dim.toNat ≠ linkDim s l.toNat ∨ dir = linkDir s l.toNat) →
       exec (.linkTrained l true chip lk dim dir) s =
         .next (logErr .kl 0x0781 agColl (l.setWidth 48) (s.setLink l.toNat { k with st := .failed, partner := chip }))) ∧
     (∀ chip lk dim dir, k.st = .training → exec (.linkTrained l false chip lk dim dir) s =
       .next (logErr .kl 0x0781 agColl (l.setWidth 48) (s.setLink l.toNat { k with st := .failed }))) ∧
     (k.st = .up → k.fwd = [] → (k.opportunity s.now).fwd = [] →
       exec (.frameOpportunity l) s = .next (s.setLink l.toNat (k.opportunity s.now))) ∧
     (k.st = .up → frGood f = true → fld (frHdr f) 30 2 = (0 : BitVec 2) → fld (frHdr f) 17 10 = k.rxSeq → fld (frHdr f) 27 3 ≠ (6 : BitVec 3) →
       fld (frHdr f) 27 3 ≠ (7 : BitVec 3) →
       exec (.dataFrame l f) s = .next (fecSeen l.toNat (s.setLink l.toNat ((k.takeAck (frHdr f)).accept f l.toNat s.now)))) ∧
     (k.st = .up → frGood f = true → fld (frHdr f) 30 2 = (1 : BitVec 2) →
       (∀ k', k.takeLink f s.now = some k' →
         exec (.linkFrame l f) s = .next (fecSeen l.toNat (s.setLink l.toNat k'))) ∧
       (k.takeLink f s.now = none → exec (.linkFrame l f) s = .next (linkLost l.toNat s))) ∧
     (fecSeen l.toNat s = { (s.setLink l.toNat { k with
         fecCorr := if Config.freeValue s.fresh % 2 = 1 then satInc k.fecCorr else k.fecCorr }) with fresh := s.fresh + 1 }) ∧
     (k.st = .up → k.nakAt = none →
       exec (.badFrame l .crc) s = .next (s.setLink l.toNat { k with crcErr := satInc k.crcErr, nakAt := some s.now, nakPend := true }) ∧
       exec (.badFrame l .fec) s = .next (s.setLink l.toNat { k with fecUncorr := satInc k.fecUncorr, nakAt := some s.now, nakPend := true }) ∧
       exec (.badFrame l .sequence) s = .next (s.setLink l.toNat { k with nakAt := some s.now, nakPend := true })) ∧
     (∀ t, k.st = .up → k.nakAt = some t →
       exec (.badFrame l .crc) s = .next (s.setLink l.toNat { k with crcErr := satInc k.crcErr }) ∧
       ((t + 1024).ule s.now = true →
         exec (.nakRepeat l) s = .next (s.setLink l.toNat { k with nakAt := some s.now, nakPend := true }))) ∧
     (∀ r rs, k.replay = r :: rs → k.st = .up → (r.since + 2048).ule s.now = true →
       (k.stuck < 8 → exec (.replayTimeout l) s = .next (s.setLink l.toNat { k with
         resend := r :: rs, replay := (r :: rs).map (fun r => { r with since := s.now }), stuck := k.stuck + 1
         replays := satInc k.replays })) ∧
       (8 ≤ k.stuck → exec (.replayTimeout l) s = .next (linkLost l.toNat s))) ∧
     (k.st = .up → ∃ t, exec (.laneLockLost l) s = .next t ∧ t = linkLost l.toNat s) ∧
     ((∀ d ∈ s.sched.disp, usesLink l.toNat d s = false) → k.txq = [] → k.cur = [] →
       ((linkLost l.toNat s).linkAt l.toNat).st = .failed ∧ ((linkLost l.toNat s).linkAt l.toNat).partner = k.partner)) ∧
  (∀ (s : State) (l : BitVec 4) (b : BitVec 3) (p q : Pkt) (ps : List Pkt) (k : Link) (t v : State) (x : RTag) (d : Disp) (r : Outc),
     ((s.linkAt l.toNat).takeRx b.toNat = some (p, k) → (p.metered && s.now.ult (p.dueAt s.now)) = false →
       t = pktLate l.toNat p (s.setLink l.toNat k) → q = { p with link := l.toNat, held := some b } →
       (p.op ≤ 6 → p.dst < chipCount t → p.dst = chipNo t → exec (.packetRelease l b) s = .next (deliverPkt l.toNat p t)) ∧
       (p.op ≤ 6 → p.dst < chipCount t → p.dst ≠ chipNo t →
         exec (.packetRelease l b) s = .next (routePkt (some l.toNat) q t)) ∧
       ((6 < p.op ∨ chipCount t ≤ p.dst) → exec (.packetRelease l b) s = .next (freeSpace l.toNat b p.frames.length
         (logErr .kl 0x0785 agColl (fld p.addr 0 48) { t with kl := { t.kl with dropped := t.kl.dropped + 1 } })))) ∧
     (s.kl.reqIn = p :: ps → hbmUp s = true → rspSlots s < 256 →
       t = freeSpace p.link p.buf p.frames.length { s with kl := { s.kl with reqIn := ps } } →
       (p.op = 0 → ∀ bs u, hbmRead p.owner agColl (fld p.addr 0 48 : BitVec 48).toNat (32 * p.len) t = (.ok bs, u) →
         exec .remoteRequest s = .next (sendC2k true (mkPkt p.src (chipNo u) 2 p.metered p.owner p.tag 0 p.addr bs u.now) u)) ∧
       (p.op ≠ 0 → ∀ u, hbmWrite (inkAt (fld p.addr 0 48 : BitVec 48).toNat) p.owner agColl (fld p.addr 0 48 : BitVec 48).toNat p.data t =
           (none, u) →
         exec .remoteRequest s = .next (sendC2k true (mkPkt p.src (chipNo u) 3 p.metered p.owner p.tag 0 p.addr [] u.now) u))) ∧
     (s.kl.rspIn = p :: ps → t = freeSpace p.link p.buf p.frames.length { s with kl := { s.kl with rspIn := ps } } →
       (kfind t.kl.tag p.tag.toNat = none → exec .remoteResponse s = .next t) ∧
       (kfind t.kl.tag p.tag.toNat = some x → p.status = 0 →
         exec .remoteResponse s = .next { t with kl := { t.kl with tag := kdel t.kl.tag p.tag.toNat } }) ∧
       (kfind t.kl.tag p.tag.toNat = some x → p.status ≠ 0 → dispNow x.cmd t = some d →
         r = { status := .fault, code := 0x0782, errAddr := x.addr } →
         v = logErr .kl 0x0782 agColl x.addr { t with kl := { t.kl with tag := kdel t.kl.tag p.tag.toNat } } →
         exec .remoteResponse s = .next (if d.bx = none ∧ d.cmd.op = 0x20 then collEnd d r v else finish d.id r v))) ∧
     (∀ tag : BitVec 10, kfind s.kl.tag tag.toNat = some x → (x.sentAt + 1048576).ule s.now = true →
       dispNow x.cmd s = some d → r = { status := .fault, code := 0x0787, errAddr := x.addr } →
       v = logErr .kl 0x0787 agColl x.addr { s with kl := { s.kl with tag := kdel s.kl.tag tag.toNat } } →
       exec (.remoteRequestTimeout tag) s = .next (if d.bx = none ∧ d.cmd.op = 0x20 then collEnd d r v else finish d.id r v)))

/-- R81, R336 to R341: tick synchronisation: requests and replies, the steering with its limits, LOCKED after 16 good exchanges, a drift
above 3 ticks, eight missing replies, ACQUIRE and its end, and the pulses of SYNC_OUT and SYNC_IN. -/
def Obligations.TickSynchronisation : Prop :=
  ∀ (s u : State) (f : BitVec 1088) (t2 t3 t4 t : W64) (l : BitVec 4) (k : Link),
    (∀ (ph : BitVec 5) n, parentLink s = some n → exchanging s = true → s.now.toNat % 2048 = 0 → s.kl.reqAt ≠ some s.now →
      k = s.linkAt n → k.st = .up →
      u = s.setLink n { k with tickq := k.tickq ++
        [mkFrame (k.head 2 0 0 false 0) (tickPayload s false ((s.now <<< 5) + ph.setWidth 64) 0 0 0 0)] } →
      exec (.tickReqSend ph) s = .next { u with kl := { u.kl with
        missed := if s.kl.t1 = none then s.kl.missed else s.kl.missed + 1
        t1 := some ((s.now <<< 5) + ph.setWidth 64), reqAt := some s.now } }) ∧
    (s.tk.syncEn = true → frGood f = true → fld (frHdr f) 30 2 = (2 : BitVec 2) → fld (frPay f) 0 8 = (0 : Byte) →
      k = s.linkAt l.toNat → k.st = .up →
      exec (.tickReqReceive l f t2 t3) s = .next (s.setLink l.toNat { k with tickq := k.tickq ++
        [mkFrame (k.head 2 0 0 false 0) (tickPayload s true (fld (frPay f) 96 64) t2 t3
          (if chipNo s = 0 then 0 else BitVec.ofInt 64 s.kl.offm) (t3 >>> 5))] })) ∧
    (∀ offp offm : Int, exchanging s = true → frGood f = true → fld (frHdr f) 30 2 = (2 : BitVec 2) →
      fld (frPay f) 0 8 = (1 : Byte) → s.kl.t1 = some (fld (frPay f) 96 64) →
      offp = (((fld (frPay f) 160 64 - fld (frPay f) 96 64) - (t4 - fld (frPay f) 224 64) : W64).toInt).tdiv 2 →
      offm = offp + (fld (frPay f) 288 64 : W64).toInt →
      u = steer offp offm (bit (frPay f) 16)
        { s with kl := { s.kl with heard := true, parLock := bit (frPay f) 16, parMaster := bit (frPay f) 24 } } →
      (s.kl.acqBusy = false → exec (.tickReply f t4) s = .next u) ∧
      (s.kl.acqBusy = true → bit (frPay f) 16 = false → bit (frPay f) 24 = false →
        exec (.tickReply f t4) s = .next { u with kl := { u.kl with acqBusy := false, reason := 0x0704 } }) ∧
      (s.kl.acqBusy = true → (bit (frPay f) 16 || bit (frPay f) 24) = true →
        exec (.tickReply f t4) s = .next { u with
          tk := { u.tk with
            load := u.now + 1 + BitVec.ofInt 64 ((offm + 16) / 32), pend := some (u.now + 1 + BitVec.ofInt 64 ((offm + 16) / 32)) }
          kl := { u.kl with acqBusy := false } })) ∧
    (∀ (a b : Int) (p : Bool),
      (steer a b p s).kl.ppm = BitVec.ofInt 10 (clampI (-300) 300 ((40 * b + 4 * clampI (-1048576) 1048576 (s.kl.acc + b)).tdiv 32)) ∧
      (-48 ≤ b → b ≤ 48 → p = true → (steer a b p s).kl.good = s.kl.good + 1 ∧
        (steer a b p s).tk.locked = (s.tk.locked || (s.tk.syncEn && decide (16 ≤ s.kl.good + 1)))) ∧
      ((b < -96 ∨ 96 < b) → (steer a b p s).tk.locked = false) ∧
      (p = false → (steer a b p s).tk.locked = false)) ∧
    (exchanging s = true → 8 ≤ s.kl.missed → s.kl.acqBusy = false → s.tk.locked = true →
      exec .tickReplyMissing s = .next (logErr .kl 0x0784 agColl 0 { s with
        tk := { s.tk with locked := false, irq := true }
        kl := { s.kl with missed := 0, t1 := none, good := 0, bad := 0 } })) ∧
    (s.tk.syncEn = false → anyCtx s = false → parentUp s = true →
      exec .acquire s = .next { s with kl := { s.kl with acqBusy := true, missed := 0, t1 := none, inEdges := [] } }) ∧
    ((s.tk.syncEn = true ∨ anyCtx s = true) → exec .acquire s = .next { s with kl := { s.kl with reason := 0x020B } }) ∧
    (s.tk.syncEn = false → anyCtx s = false → parentUp s = false →
      exec .acquire s = .next { s with kl := { s.kl with reason := 0x0704 } }) ∧
    (s.kl.syncOutEn = true → s.now.toNat % 8192 = 0 → exec .syncOutPulse s =
      .next { s with kl := { s.kl with syncOut := true, syncOutEnd := s.now + BitVec.ofNat 64 (pulseWidth s.now) } }) ∧
    (s.kl.src = true → s.kl.acqBusy = true → s.kl.inEdges.length ≠ 63 →
      exec (.syncInEdge t) s = .next { s with kl := { s.kl with inEdges := t :: s.kl.inEdges } })

-- Sepia
/-- R379, R382 to R393, Table 11.4: the bus grants a port in turn and performs the granted request: each of the eight kinds has
its own effect, unless a snoop of it is deferred; a deferral expires; a snoop without an answer takes the domain down. -/
def Obligations.SepiaBus : Prop :=
  ∀ (s t : State) (r : BusReq), t = { s with sep := { s.sep with cur := none } } →
    (∀ p rs, busUp s = true → s.sep.cur = none → p < 10 →
      ((List.range 10).map (fun i => (s.sep.lastPort.toNat + 1 + i) % 10)).find? (fun p => (kget [] s.sep.port p) ≠ []) = some p →
      kget [] s.sep.port p = r :: rs → exec .busGrant s = .next { s with sep := { s.sep with
        cur := some r, lastPort := BitVec.ofNat 4 p, port := kset [] s.sep.port p rs } }) ∧
    (s.sep.cur = some r → busUp s = true →
      (r.op = .busRd → defers s r.line (holders s r.line (portOf r.ag)) = false → exec .busrd s = .next (doBusRd r t)) ∧
      (r.op = .busRdX → defers s r.line (holders s r.line (portOf r.ag)) = false → exec .busrdx s = .next (doBusRdX r t)) ∧
      (r.op = .busUpgr → defers s r.line (holders s r.line (portOf r.ag)) = false → exec .busupgr s = .next (doBusUpgr r t)) ∧
      (r.op = .evc → exec .evc s =
        .next (setFilt r.line (portOf r.ag) none (t.setCore (portOf r.ag) ((t.coreAt (portOf r.ag)).dropD r.line)))) ∧
      (r.op = .wb → exec .wb s = .next (crossWb r.line (portOf r.ag) none t)) ∧
      (r.op = .nrd → exec .nrd s = .next (doNrd r t)) ∧
      (∀ m d, r.op = .nwr m d → exec .nwr s = .next (doNwr r m d t)) ∧
      (∀ f w v, r.op = .namo f w v → exec .namo s = .next (doNamo r f w.toNat v t)) ∧
      (∀ c : BitVec 3, c.toNat ∈ holders s r.line (portOf r.ag) → exec (.snoopTimeout c) s =
        .next (domainDown 1 0x0D80 (agCore c.toNat) (lineAddr r.line) s))) ∧
    (∀ c : BitVec 3, exec (.reservationDeferExpiry c) s = .next (s.setCore c.toNat { s.coreAt c.toNat with defer := false }))

/-- R372 to R378, R384, R397, R404: a core runs the instruction at its pc: one that retires leaves what it computes, with the pc it
goes on at; an interrupt enters its handler; an uncached access goes out once and its response completes the load or store; the
timer comparison and the external interrupt. -/
def Obligations.SepiaCores : Prop :=
  ∀ (s s0 s1 s2 t : State) (c : BitVec 3) (k : Core), k = s.coreAt c.toNat →
    (coreRuns s c.toNat = true → k.uncached = none → k.wfi = false → s0 = s.setCore c.toNat k →
      (∀ cause, softIrq s0 c.toNat = some cause → exec (.coreInstruction c) s = .next (trapTo c.toNat cause 0 s0)) ∧
      (∀ h h2, softIrq s0 c.toNat = none → fetch16 c.toNat k.pc s0 = .got h s1 → fld h 0 2 = (3 : BitVec 2) →
        fetch16 c.toNat (k.pc + 2) s1 = .got h2 s2 → exec (.coreInstruction c) s = .next (runWord c.toNat (h2 ++ h) 4 s2)) ∧
      (∀ h w, softIrq s0 c.toNat = none → fetch16 c.toNat k.pc s0 = .got h s1 → fld h 0 2 ≠ (3 : BitVec 2) → expand h = some w →
        exec (.coreInstruction c) s = .next (runWord c.toNat w 2 s1)) ∧
      (softIrq s0 c.toNat = none → fetch16 c.toNat k.pc s0 = .miss s1 → exec (.coreInstruction c) s = .next s1)) ∧
    (∀ w len pc, k.skipCmp = true → isEbreakDbg c.toNat w s = false → execRv c.toNat w len s = .ok pc t →
      (t.dcoreAt c.toNat).cause ≠ 7 → (t.coreAt c.toNat).stepping = false →
      ∀ u, u = t.setCore c.toNat { (t.coreAt c.toNat).retire pc with skipCmp := false } → (u.coreAt c.toNat).stepping = false →
        runWord c.toNat w len s = u) ∧
    (∀ u, k.uncached = some u → u.sent = false → busUp s = true →
      s1 = s.setCore c.toNat { k with uncached := some { u with sent := true } } →
      (∀ d, u.wr = false → u.funct3 = 2 → memRead (agCore c.toNat) u.addr 4 s1 = (.ok d, t) →
        exec (.uncachedAccess c) s = .next (respond (agCore c.toNat) false d t)) ∧
      (∀ d, u.wr = true → u.funct3 = 2 → memWrite (agCore c.toNat) u.addr 4 u.v s1 = (.ok d, t) →
        exec (.uncachedAccess c) s = .next (respond (agCore c.toNat) false d t))) ∧
    (∀ u d, k.uncached = some u → u.resp = some (true, d) → exec (.uncachedAccessResponse c) s =
      .next (debugWaiting c.toNat (afterInstr c.toNat 0 (trapTo c.toNat (if u.wr then 7 else 5) u.va
        (s.setCore c.toNat { k with uncached := none, skipCmp := false }))))) ∧
    (∀ u d, k.uncached = some u → u.resp = some (false, d) → s0 = s.setCore c.toNat { k with uncached := none, skipCmp := false } →
      exec (.uncachedAccessResponse c) s = .next (debugWaiting c.toNat (afterInstr c.toNat u.npc (afterAccess c.toNat
        (if u.wr then 2 else 1) u.va (if u.wr then u.v else d) (s0.setCore c.toNat ((if u.wr then s0.coreAt c.toNat
          else (s0.coreAt c.toNat).setReg u.rd.toNat (loadExt u.funct3.toNat d)).retire u.npc)))))) ∧
    (coreRuns s c.toNat = true → k.uncached = none → k.stepping = false → extLine s c.toNat = true → bit k.mie 11 = true →
      (k.mmode = true → bit k.mstatus 3 = true) → exec (.externalInterruptEntry c) s = .next (trapTo c.toNat 0x8000000B 0 s)) ∧
    ((mtimecmpOf s c.toNat).ule s.now = true → exec (.mtimecmpMatch c) s = .next (s.setCore c.toNat { k with mtip := true }))

/-- R377, R394 to R396, R402, R405, R406, R485, R487: the interrupt controller, the domain reset, SEP_RUN, boot-flash commands and
the end of a flash operation. -/
def Obligations.SepiaControl : Prop :=
  ∀ s : State,
    (∀ n : BitVec 7, srcActive s n.toNat = true → kget false s.sep.pend n.toNat = false →
      kget false s.sep.claimed n.toNat = false →
      exec (.irqSourceActive n) s = .next { s with sep := { s.sep with pend := kset false s.sep.pend n.toNat true } }) ∧
    (∀ ag (c : BitVec 3) n, bestSource s c.toNat = some n → exec (.sepClaim ag c) s =
      .next (ans ag .ok ((BitVec.ofNat 32 n ||| 0x80000000).setWidth 512) { s with sep := { s.sep with
        pend := kset false s.sep.pend n false, claimed := kset false s.sep.claimed n true } })) ∧
    (∀ ag (c : BitVec 3), bestSource s c.toNat = none → exec (.sepClaim ag c) s = .next (ans ag .ok 0 s)) ∧
    (∀ c v, exec (.sepComplete c v) s =
      .next { s with sep := { s.sep with claimed := kset false s.sep.claimed (fld v 0 7).toNat false } }) ∧
    (s.domRun 17 = true → exec .sepDomrst s = .next (portsFail (portsWaiting s) { s with sep := { s.sep with
      resetting := true, core := [], filt := [], port := [], cur := none } })) ∧
    (s.domRun 17 = false → exec .sepDomrst s = .next { s with sep := { s.sep with reason := 0x0D02 } }) ∧
    (s.sep.resetting = true → ∃ t, exec .sepDomrstDone s = .next t ∧ t.sep.resetting = false ∧ t.sep.down = false ∧ t.sep.run = 1 ∧
      t.sep.sram = [] ∧ t.sep.filt = [] ∧ t.hbm = s.hbm ∧ t.vel = s.vel) ∧
    (∀ v : Byte, v &&& ~~~s.sep.run = 0 → exec (.sepRun v) s = .next { s with sep := { s.sep with run := s.sep.run &&& v } }) ∧
    (∀ v : Byte, v &&& ~~~s.sep.run ≠ 0 → s.sep.down = true → exec (.sepRun v) s =
      .next { s with sep := { s.sep with run := s.sep.run &&& v, reason := 0x0D01 } }) ∧
    (∀ v : Byte, v &&& ~~~s.sep.run ≠ 0 → s.sep.down = false → s.sep.resetting = false → s.domRun 17 = true →
      (∃ c < 8, bit v c = true ∧ bit s.sep.run c = false ∧ 64 < (kget 0 s.sep.owner c).toNat) →
      exec (.sepRun v) s = .next { s with fresh := s.fresh + 1, sep := { s.sep with
        run := s.sep.run &&& v, reason := BitVec.ofNat 16 (Config.freeValue s.fresh) } }) ∧
    (∀ v : Byte, v &&& ~~~s.sep.run ≠ 0 → s.sep.down = false → s.sep.resetting = false → s.domRun 17 = true →
      (∀ c < 8, bit v c = true → bit s.sep.run c = false → (kget 0 s.sep.owner c).toNat ≤ 64) →
      exec (.sepRun v) s = .next ((List.range 8).foldl (fun u c => if bit v c && !bit s.sep.run c then coreLeavesReset c u else u)
        { s with sep := { s.sep with run := v } })) ∧
    (s.sep.down = false → s.sep.resetting = false → s.sep.bfl.op = none →
      (∀ d t, s.sep.bfl.refuses s.sep.bflPage.toNat = false → sramPage s.sep.bflSrc.toNat 4 s = (some d, t) → exec .bflProgram s =
        .next { t with sep := { t.sep with bfl := { t.sep.bfl with op := some (.program s.sep.bflPage.toNat d) } } }) ∧
      (∀ t, s.sep.bfl.refuses s.sep.bflPage.toNat = false → sramPage s.sep.bflSrc.toNat 4 s = (none, t) → exec .bflProgram s =
        .next { t with sep := { t.sep with bfl := { t.sep.bfl with err := true } } }) ∧
      (s.sep.bfl.refuses s.sep.bflPage.toNat = true →
        exec .bflProgram s = .next { s with sep := { s.sep with bfl := { s.sep.bfl with err := true } } }) ∧
      exec .bflErase s = .next { s with sep := { s.sep with bfl := { s.sep.bfl with op := some (.erase (s.sep.bflPage.toNat / 16)) } } }) ∧
    ((s.sep.down = true ∨ s.sep.resetting = true) → exec .bflProgram s = .next { s with sep := { s.sep with reason := 0x0D01 } } ∧
      exec .bflErase s = .next { s with sep := { s.sep with reason := 0x0D01 } }) ∧
    (∀ o, s.sep.down = false → s.sep.resetting = false → s.sep.bfl.op = some o →
      exec .bflProgram s = .next { s with sep := { s.sep with reason := 0x0D03 } } ∧
      exec .bflErase s = .next { s with sep := { s.sep with reason := 0x0D03 } }) ∧
    (exec (.flashOperationDone 0) s = .next { s with vel := { s.vel with cfl := s.vel.cfl.finish } } ∧
      exec (.flashOperationDone 1) s = .next (s.vel.uflWait.foldl (fun s a => uflFabric a s)
        { s with vel := { s.vel with ufl := s.vel.ufl.finish, uflWait := [] } }) ∧
      exec (.flashOperationDone 2) s = .next { s with sep := { s.sep with bfl := s.sep.bfl.finish } })

-- Vellum
/-- R422, R440 to R442, Table 12.6: the release check latches its first failing reason or starts the sequence, which goes up to stage 3
and back down to 0; a delay line steps one tap towards its target. -/
def Obligations.VellumRelease : Prop :=
  ∀ s : State,
    (∀ r, s.vel.release = false → firstReason (releaseChecks s) = some r →
      exec .velReleaseSet s = .next { s with vel := { s.vel with reason := r } }) ∧
    (s.vel.release = false → firstReason (releaseChecks s) = none →
      exec .velReleaseSet s = .next { s with vel := { s.vel with release := true, stage := 0, reversing := false } }) ∧
    (s.vel.release = true → s.vel.stage = 0 →
      exec .velReleaseClear s = .next { s with vel := { s.vel with release := false, reversing := false } }) ∧
    (s.vel.release = true → s.vel.stage ≠ 0 → exec .velReleaseClear s = .next { s with vel := { s.vel with reversing := true } }) ∧
    (s.vel.release = true → s.vel.reversing = false → s.vel.stage ≠ 3 → s.vel.stage ≠ 2 →
      exec .releaseStage s = .next (fabRun { s with vel := { s.vel with stage := s.vel.stage + 1 } })) ∧
    (s.vel.release = true → s.vel.reversing = false → s.vel.stage = 2 →
      exec .releaseStage s = .next (fabRun (sportsLive true { s with vel := { s.vel with stage := 3 } }))) ∧
    (s.vel.release = true → s.vel.reversing = true → s.vel.stage = 3 →
      exec .releaseStage s = .next (fabRun (sportsLive false { s with vel := { s.vel with stage := 2 } }))) ∧
    (s.vel.release = true → s.vel.reversing = true → s.vel.stage = 2 →
      exec .releaseStage s = .next (fabRun { s with vel := { s.vel with stage := 1 } })) ∧
    (s.vel.release = true → s.vel.reversing = true → s.vel.stage = 1 →
      exec .releaseStage s = .next (fabRun { s with vel := { s.vel with stage := 0, release := false, reversing := false } })) ∧
    (∀ (p : Byte) tap, p.toNat < 192 →
      exec (.velDly p tap) s = .next { s with vel := { s.vel with tap := kset 0 s.vel.tap p.toNat tap } }) ∧
    (∀ (p : Byte) x y, x = kget 0 s.vel.cur p.toNat → y = kget 0 s.vel.tap p.toNat → exec (.tapStep p) s =
      .next { s with vel := { s.vel with
        cur := kset 0 s.vel.cur p.toNat (if x.toNat < y.toNat then x + 1 else if y.toNat < x.toNat then x - 1 else x) } })

/-- R430 to R435, R485, R488: the user flash and the serial ports: a read waits for a running operation, a program or erase starts
for its owner or is refused, ports are enabled under the plan, and words are queued, taken, received and sent. -/
def Obligations.UserFlashAndSerial : Prop :=
  ∀ (s : State),
    (∀ wa, s.vel.ufl.op = none → exec (.uflFabricRead wa) s = .next (uflFabric wa s)) ∧
    (∀ wa o, s.vel.ufl.op = some o → exec (.uflFabricRead wa) s =
      .next { s with vel := { s.vel with uflWait := s.vel.uflWait ++ [wa], uflValid := false } }) ∧
    (∀ fab wa, uflMine fab s = true → (fab = true → 2 ≤ s.vel.stage.toNat) → s.vel.ufl.op = none →
      (s.vel.ufl.refuses (wa.toNat / 64) = false → exec (.uflProgram fab wa) s = .next { s with vel := { s.vel with
        ufl := { s.vel.ufl with op := some (.program (wa.toNat / 64) (pageOfBuf s.vel.uflBuf)) } } }) ∧
      (s.vel.ufl.refuses (wa.toNat / 64) = true → exec (.uflProgram fab wa) s = .next { s with vel := { s.vel with
        ufl := { s.vel.ufl with err := true }, reason := 0x090B } }) ∧
      exec (.uflErase fab wa) s = .next { s with vel := { s.vel with ufl := { s.vel.ufl with op := some (.erase (wa.toNat / 1024)) } } }) ∧
    (∀ fab wa, uflMine fab s = false → exec (.uflProgram fab wa) s = .next { s with vel := { s.vel with reason := 0x0110 } } ∧
      exec (.uflErase fab wa) s = .next { s with vel := { s.vel with reason := 0x0110 } }) ∧
    (∀ ag, s.vel.ufl.op = none → exec (.velUflData ag) s =
      .next (ans ag .ok ((uflRead s.vel.uflAddr s).1.setWidth 512) (uflRead s.vel.uflAddr s).2)) ∧
    (∀ (n : BitVec 3) p, n.toNat < 6 → p = s.sportAt n.toNat →
      (sportReg s n.toNat = true → pinsOk s n.toNat p.ctl = true → sportUndef n.toNat p.ctl = false →
        exec (.serialPortEn n true) s = .next (s.setSport n.toNat { p with ctl := p.ctl ||| 1, live := true })) ∧
      (sportReg s n.toNat = true → pinsOk s n.toNat p.ctl = false →
        exec (.serialPortEn n true) s = .next { s with vel := { s.vel with reason := 0x0110 } }) ∧
      (sportReg s n.toNat = true →
        exec (.serialPortEn n false) s = .next (s.setSport n.toNat { p with ctl := p.ctl &&& 0xFFFFFFFE, live := false })) ∧
      (∀ v, sportReg s n.toNat = true → p.tx.length < 16 → exec (.txdata n v) s = .next (s.setSport n.toNat { p with tx := p.tx ++ [v] })) ∧
      (∀ v, (sportReg s n.toNat = false ∨ 16 ≤ p.tx.length) → exec (.txdata n v) s = .next s) ∧
      (∀ ag w ws, sportReg s n.toNat = true → p.rx = w :: ws →
        exec (.rxdata ag n) s = .next (ans ag .ok (w.setWidth 512) (s.setSport n.toNat { p with rx := ws }))) ∧
      (∀ v, p.live = true → p.rx.length < 16 → exec (.serialRxWord n v) s = .next (s.setSport n.toNat { p with rx := p.rx ++ [v] })) ∧
      (∀ v, p.live = true → 16 ≤ p.rx.length → exec (.serialRxWord n v) s =
        .next (logErr .vel 0x0982 agVel (n.setWidth 48) (s.setSport n.toNat { p with overrun := true, err := true }))) ∧
      (∀ w ws ack, p.live = true → p.tx = w :: ws → exec (.serialTxWord n ack) s =
        .next (s.setSport n.toNat { p with tx := ws, nack := p.nack || (n.toNat / 2 = 1 && !ack) })))

/-- R17, R426, R443, R445, R446: probes, the fabric slave window with its acknowledgement and timeout, the fabric master's access and
its response, and a block RAM collision. -/
def Obligations.FabricPorts : Prop :=
  ∀ (s t : State),
    (∀ (n : BitVec 4) w, w = kget 0 s.vel.probe n.toNat →
      (bit w 31 = false → planOf s (fld w 16 8).toNat = .spare →
        (∀ m < 16, m ≠ n.toNat → bit (kget 0 s.vel.probe m) 31 = true → (fld (kget 0 s.vel.probe m) 16 8).toNat ≠ (fld w 16 8).toNat) →
        gimSource (fld w 0 13).toNat = true → exec (.velProbeEn n true) s =
          .next { s with vel := { s.vel with probe := kset 0 s.vel.probe n.toNat (w ||| 0x80000000) } }) ∧
      (bit w 31 = false → planOf s (fld w 16 8).toNat ≠ .spare →
        exec (.velProbeEn n true) s = .next { s with vel := { s.vel with reason := 0x0110 } }) ∧
      exec (.velProbeEn n false) s = .next { s with vel := { s.vel with probe := kset 0 s.vel.probe n.toNat (w &&& 0x7FFFFFFF) } }) ∧
    (∀ (ag : Agent) (a : Dpa) wr v, 0x030000C80000 ≤ a.toNat → a.toNat < 0x030000D00000 → a.toNat % 4 = 0 → s.vel.slvEn = true →
      s.vel.stage = 3 → exec (.slaveWindowAccess ag a wr v) s = .next { s with vel := { s.vel with slv := s.vel.slv ++
        [{ ag := ag, o := BitVec.ofNat 19 (a.toNat % 0x100000 - 0x80000), wr := wr, v := v }] } }) ∧
    (∀ (ag : Agent) (a : Dpa) wr v, 0x030000C80000 ≤ a.toNat → a.toNat < 0x030000D00000 → a.toNat % 4 = 0 →
      (s.vel.slvEn = false ∨ s.vel.stage ≠ 3) →
      exec (.slaveWindowAccess ag a wr v) s = .next (slvError ag true (a.toNat % 0x100000) s)) ∧
    (∀ x xs, s.vel.slv = x :: xs → t = { s with vel := { s.vel with slv := xs } } →
      (∀ d, exec (.slvAck d false) s = .next (respond x.ag false (if x.wr then 0 else d) t)) ∧
      (∀ d, exec (.slvAck d true) s = .next (slvError x.ag false (x.o.toNat + 0x80000) t)) ∧
      exec .slvAckTimeout s = .next (slvError x.ag true (x.o.toNat + 0x80000) t)) ∧
    (∀ op (a : Dpa) d r, s.vel.mstEn = true → s.vel.stage = 3 → s.vel.mst = none → s.sep.down = false → s.sep.resetting = false →
      mstAccess op (alignDown 2 a) d { s with vel := { s.vel with mst := some { op := op, a := alignDown 2 a, d := d } } } = (.ok r, t) →
      exec (.mstReq op a d) s = .next (respond agVel false r t)) ∧
    (∀ m r, s.vel.mst = some m → m.resp = some r → exec .mstAck s = .next { s with vel := { s.vel with mst := none, mstOut := some r } }) ∧
    (∀ (r : BitVec 4) ws, exec (.bramCollision r ws) s = .next (logErr .vel 0x0980 agVel (r.setWidth 48) { s with vel := { s.vel with
      bram := ws.foldl (fun m e => if e.1 < 18432 then kmod 0 m (512 * r.toNat + e.1 / 36) (fun x => setBit x (e.1 % 36) e.2) else m)
        s.vel.bram
      bramColl := true } }))

/-- R454 to R468: loading a configuration: the boot load, a commanded load and its refusals, a word of the load FIFO, the end of a
load, the gap timeout of CFG_CLK, a bit sampled from CFG_DIN and what CFG_DOUT drives, and a readback. -/
def Obligations.ConfigurationLoad : Prop :=
  ∀ (s : State),
    (∀ st, s.vel.bootDue = true → s.domRun 18 = true → s.vel.recovery = false → s.vel.bootsrc = 0 →
      exec (.bootLoad st) s = .next (takeLoad (slotImage (flashScan { s with vel := { s.vel with bootDue := false } }) s.vel.prim.toNat) 0
        s.vel.prim (loadStart (flashScan { s with vel := { s.vel with bootDue := false } })))) ∧
    (∀ st, s.vel.bootDue = true → s.domRun 18 = true → s.vel.recovery = true →
      exec (.bootLoad st) s = .next (takeLoad (slotImage (flashScan { s with vel := { s.vel with bootDue := false } }) s.vel.golden.toNat) 0
        s.vel.golden (loadStart (flashScan { s with vel := { s.vel with bootDue := false } })))) ∧
    (s.vel.passed = true → ∃ t, exec .loadDone s = .next (irpDrain 66 t) ∧ (s.vel.irpWords = [] → irpDrain 66 t = t) ∧
      t.vel.loaded = true ∧ t.vel.busy = false ∧ t.vel.cfgDone = true ∧ t.vel.bram = bramInit s.vel.frames ∧
      t.vel.frames = s.vel.frames ∧ t.vel.gcfg = some (Config.decodeGlobal (cfgFrames s.vel.frames)) ∧ t = { s with vel := t.vel }) ∧
    (s.vel.passed = false → exec .loadDone s = .next s) ∧
    (∀ k f, s.vel.dinBusy = true → s.vel.din ≠ [] →
      (readImage s.vel.din.reverse (fun _ => false) .stream idcodeVal).fail = some (k, f) →
      exec .cfgClkGapTimeout s = .next (loadFail 6 f s)) ∧
    ((s.vel.dinBusy = false ∨ s.vel.din = []) → exec .cfgClkGapTimeout s = .next s) ∧
    (∀ (d o : Bool), o = (if s.vel.chain && s.vel.forward then d else true) →
      (s.vel.dinTake = false → exec (.cfgClkRisingEdge d) s = .next { s with vel := { s.vel with cfgDout := o } }) ∧
      (∀ sh : W32, s.vel.dinTake = true → s.vel.din = [] → sh = (s.vel.dinShift >>> 1) ||| (if d then 0x80000000 else 0) → sh ≠ 0x5E70C0DE →
        exec (.cfgClkRisingEdge d) s = .next { s with vel := { s.vel with dinShift := sh, cfgDout := o } }) ∧
      (s.vel.dinTake = true → s.vel.din ≠ [] → s.vel.dinBits.length ≠ 7 →
        exec (.cfgClkRisingEdge d) s = .next { s with vel := { s.vel with dinBits := d :: s.vel.dinBits, cfgDout := o } }) ∧
      (∀ t, s.vel.dinTake = true → s.vel.din ≠ [] → s.vel.dinBits.length = 7 →
        t = dinTaken { s with vel := { s.vel with din := byteOfBits (d :: s.vel.dinBits) :: s.vel.din, dinBits := [] } } →
        exec (.cfgClkRisingEdge d) s = .next { t with vel := { t.vel with cfgDout := o } })) ∧
    (∀ st, s.vel.qspiDue = true → exec (.velCfgLoad st) s =
      .next (takeLoad (readImage st (fun _ => false) .qspi idcodeVal) 1 0 { s with vel := { s.vel with qspiDue := false } })) ∧
    (∀ st, s.vel.qspiDue = false → s.vel.release = false → s.vel.stage = 0 → s.vel.busy = true →
      exec (.velCfgLoad st) s = .next { s with vel := { s.vel with reason := 0x090B } }) ∧
    (∀ st, s.vel.qspiDue = false → s.vel.release = false → s.vel.stage = 0 → s.vel.busy = false →
      (s.vel.src = 0 → exec (.velCfgLoad st) s = .next (takeLoad (slotImage s s.vel.slot.toNat) 0 s.vel.slot (loadStart s))) ∧
      (s.vel.src = 1 → fld s.vel.qspiAddr 0 12 = (0 : BitVec 12) →
        exec (.velCfgLoad st) s = .next (takeLoad (readImage st (fun _ => false) .qspi idcodeVal) 1 0 (loadStart s))) ∧
      (s.vel.src = 1 → fld s.vel.qspiAddr 0 12 ≠ (0 : BitVec 12) →
        exec (.velCfgLoad st) s = .next { s with vel := { s.vel with reason := 0x0906 } }) ∧
      (s.vel.src = 2 → s.vel.ovf = true → exec (.velCfgLoad st) s = .next (loadFail 6 0 (loadStart s))) ∧
      (s.vel.src = 3 → exec (.velCfgLoad st) s = .next { s with vel := { s.vel with reason := 0x0906 } })) ∧
    (∀ st, s.vel.qspiDue = false → (s.vel.release = true ∨ s.vel.stage ≠ 0) →
      exec (.velCfgLoad st) s = .next { s with vel := { s.vel with reason := 0x090A } }) ∧
    (∀ v, s.vel.strm = none → s.vel.fifo.length < 64 → exec (.velCfgData v) s =
      .next { s with vel := { s.vel with fifo := s.vel.fifo ++ [v] } }) ∧
    (∀ v, s.vel.strm = none → 64 ≤ s.vel.fifo.length → exec (.velCfgData v) s = .next { s with vel := { s.vel with ovf := true } }) ∧
    (∀ v ws, s.vel.strm = some ws → exec (.velCfgData v) s = .next (strmStep { s with vel := { s.vel with strm := some (v :: ws) } })) ∧
    (∀ f : BitVec 12, f.toNat < 3264 → exec (.velRbFrame f) s = .next { s with vel := { s.vel with
      rbFrame := f, rbData := (kget {} s.vel.frames f.toNat).data, rbCrc := (kget {} s.vel.frames f.toNat).crc
      rbMatch := (kget {} s.vel.frames f.toNat).crc == frameCrcW f.toNat (kget {} s.vel.frames f.toNat).data } })

/-- R470 to R475: the Internal Rewrite Port serves the path that owns it: BEGIN opens a region or is refused, FRAME puts a frame of
the open region whose CRC is right and otherwise fails, END commits a complete region, READ puts a frame into the mailbox,
ABORT ends as FAILED; FRAME and END with none open are refused, after a failure ignored; the other path has no effect. -/
def Obligations.RewritePort : Prop :=
  ∀ (s : State) (fab : Bool) (w : W32),
    (irpMine fab s = false → exec (.irpBegin fab w) s = .next s ∧ (∀ d c, exec (.irpFrame fab w d c) s = .next s) ∧
      exec (.irpEnd fab w) s = .next s ∧ exec (.irpRead fab w) s = .next s ∧ exec (.irpAbort fab w) s = .next s) ∧
    (irpMine fab s = true →
      (bit s.vel.lock 4 = true → (fld w 28 4 : BitVec 4) = 1 → exec (.irpBegin fab w) s = .next (irpEndCmd .refused 0x0909 s)) ∧
      (bit s.vel.lock 4 = false → w &&& 0xFE00CFFF = 0x10000000 → (fld w 16 9 : BitVec 9).toNat < 272 → s.vel.irpOpen = false →
        exec (.irpBegin fab w) s = .next (irpEndCmd .opened 0 { s with vel := { s.vel with
          irpOpen := true, irpRegion := fld w 16 9, irpTree := fld w 12 2, irpDone := [],
          held := kset false s.vel.held (fld w 16 9 : BitVec 9).toNat true } })) ∧
      (bit s.vel.lock 4 = false → (w &&& 0xFE00CFFF ≠ 0x10000000 ∨ 272 ≤ (fld w 16 9 : BitVec 9).toNat ∨ s.vel.irpOpen = true) →
        exec (.irpBegin fab w) s = .next (irpEndCmd .refused 0x090C s)) ∧
      (∀ d c f, f = (fld w 0 12 : BitVec 12).toNat → s.vel.irpOpen = true → f < nFrames → regionOf f = s.vel.irpRegion.toNat →
        (c = frameCrcW f d → exec (.irpFrame fab w d c) s = .next (irpEndCmd .opened 0 { s with vel := { s.vel with
          frames := kset {} s.vel.frames f { data := d, crc := c, origin := .stream }, irpDone := f :: s.vel.irpDone } })) ∧
        (c ≠ frameCrcW f d → exec (.irpFrame fab w d c) s = .next (irpFail s))) ∧
      (s.vel.irpOpen = true → (∀ f ∈ framesOf s.vel.irpRegion.toNat, f ∈ s.vel.irpDone) →
        ∃ t, exec (.irpEnd fab w) s = .next t ∧ t.vel.irpOpen = false ∧ t.vel.irp = .done ∧ t.vel.irpSeq = s.vel.irpSeq + 1 ∧
          t.vel.frames = s.vel.frames ∧ t = { s with vel := t.vel }) ∧
      (s.vel.irpOpen = true → (∃ f ∈ framesOf s.vel.irpRegion.toNat, f ∉ s.vel.irpDone) → exec (.irpEnd fab w) s = .next (irpFail s)) ∧
      (s.vel.irpOpen = false → s.vel.irp ≠ .failed → exec (.irpEnd fab w) s = .next (irpEndCmd .refused 0x090C s) ∧
        ∀ d c, exec (.irpFrame fab w d c) s = .next (irpEndCmd .refused 0x090C s)) ∧
      (s.vel.irpOpen = false → s.vel.irp = .failed → exec (.irpEnd fab w) s = .next s ∧ exec (.irpRead fab w) s = .next s ∧
        ∀ d c, exec (.irpFrame fab w d c) s = .next s) ∧
      (s.vel.irp ≠ .failed → ∃ t, exec (.irpRead fab w) s = .next t ∧ t.vel.irp = s.vel.irp ∧ t.vel.irpSeq = s.vel.irpSeq + 1 ∧ t.vel.irpCode = 0 ∧
        t.vel.frames = s.vel.frames ∧ t = { s with vel := t.vel }) ∧
      (s.vel.irpOpen = true → exec (.irpAbort fab w) s = .next (irpFail s)) ∧
      (s.vel.irpOpen = false → exec (.irpAbort fab w) s = .next s))

/-- R477 to R483, R485, R487: locks set and (in a recovery boot only) clear, PRIMARY and GOLDEN change unless GOLDEN's slot is locked,
the configuration flash is programmed and erased under its locks, and the scrubber passes or stops. -/
def Obligations.ConfigurationProtection : Prop :=
  ∀ (s : State),
    (∀ v, v ≠ 0 →
      exec (.velLockSet v) s = .next { s with vel := { s.vel with lock := s.vel.lock ||| v, infoGen := s.vel.infoGen + 1 } } ∧
      (s.vel.recovery = true → exec (.velLockClr v) s =
        .next { s with vel := { s.vel with lock := s.vel.lock &&& ~~~v, infoGen := s.vel.infoGen + 1 } }) ∧
      (s.vel.recovery = false → exec (.velLockClr v) s = .next { s with vel := { s.vel with reason := 0x0907 } })) ∧
    (exec (.velLockSet 0) s = .next s ∧ exec (.velLockClr 0) s = .next s) ∧
    (∀ v : BitVec 4, (fld v 0 2 ≠ s.vel.prim ∨ fld v 2 2 ≠ s.vel.golden) →
      (bit s.vel.lock s.vel.golden.toNat = false → exec (.primaryGoldenWrite v) s = .next { s with vel := { s.vel with
        prim := fld v 0 2, golden := fld v 2 2, infoGen := s.vel.infoGen + 1 } }) ∧
      (bit s.vel.lock s.vel.golden.toNat = true → exec (.primaryGoldenWrite v) s = .next { s with vel := { s.vel with reason := 0x0908 } })) ∧
    (s.vel.cfl.op = none →
      (bit s.vel.lock (cflSlot s) = false → s.vel.cfl.refuses (cflPage s) = false → exec .cflProgram s =
        .next (slotTouched (cflSlot s) { s with vel := { s.vel with
          cfl := { s.vel.cfl with op := some (.program (cflPage s) (pageOfBuf s.vel.cflBuf)) } } })) ∧
      (bit s.vel.lock (cflSlot s) = false → exec .cflErase s = .next (slotTouched (cflSlot s) { s with vel := { s.vel with
        cfl := { s.vel.cfl with op := some (.erase (cflPage s / 16)) } } })) ∧
      (bit s.vel.lock (cflSlot s) = false → s.vel.cfl.refuses (cflPage s) = true → exec .cflProgram s =
        .next { s with vel := { s.vel with reason := 0x090B, cfl := { s.vel.cfl with err := true } } }) ∧
      (bit s.vel.lock (cflSlot s) = true →
        exec .cflProgram s = .next { s with vel := { s.vel with reason := 0x0908, cfl := { s.vel.cfl with err := true } } } ∧
        exec .cflErase s = .next { s with vel := { s.vel with reason := 0x0908, cfl := { s.vel.cfl with err := true } } })) ∧
    (∀ o, s.vel.cfl.op = some o →
      exec .cflProgram s = .next { s with vel := { s.vel with reason := 0x090B, cfl := { s.vel.cfl with err := true } } } ∧
      exec .cflErase s = .next { s with vel := { s.vel with reason := 0x090B, cfl := { s.vel.cfl with err := true } } }) ∧
    (s.vel.scrubEn = true → s.vel.scrubFault = false → s.vel.loaded = true → s.domRun 18 = true →
      (∀ f < nFrames, scrubChecks s f = false ∨
        (kget {} s.vel.frames f).crc = frameCrcW f (kget {} s.vel.frames f).data) →
      ∃ t, exec .scrubPass s = .next t ∧ t.vel.passes = s.vel.passes + 1 ∧ t.vel.frames = s.vel.frames ∧
        t.vel.corrected = s.vel.corrected ∧ t.vel.errlog = s.vel.errlog ∧ t = { s with vel := t.vel }) ∧
    (∀ vote rom, vote = true ∨ rom = true → exec (.scrubFault vote rom) s = .next (logErr .vel 0x0988 agVel 0 { s with vel := { s.vel with
      scrubFault := true, vote := s.vel.vote || vote, romPar := s.vel.romPar || rom } }))

-- The plant port
/-- R497 to R503, R505 to R508: a released post passes the limit check and is presented, or finds no binding; DISARM_ALL; evidence
through the fabric port and the register; the trip, its latch and what the plant island does when it sees it. -/
def Obligations.PlantPort : Prop :=
  ∀ s t u : State,
    (∀ x src m v r, inboxTake isPost postKey s = some (x, t) → x.pay = .post src m v →
      (kfind t.plant.decBind m.toNat = some src.part →
        r = limitCheck (t.mbSigned m.toNat) (t.mbAction m.toNat) (t.mbLo m.toNat) (t.mbHi m.toNat) v (kget 0 t.plant.dec m.toNat) →
        u = { t with plant := { t.plant with dec := kset 0 t.plant.dec m.toNat r.1 } } →
        (r.2 = false → exec .postRelease s = .next (presentOne u m.toNat)) ∧
        (r.2 = true → exec .postRelease s = .next (presentOne (logErr .plant 0x0A80 agPlant (BitVec.ofNat 48 m.toNat)
          { u with plant := { u.plant with limitHit := setBit u.plant.limitHit m.toNat true } }) m.toNat))) ∧
      (kfind t.plant.decBind m.toNat ≠ some src.part → exec .postRelease s = .next t)) ∧
    exec .disarmAll s = .next (present (List.range 64) { s with plant := { s.plant with
      armed := 0, disarmed := BitVec.allOnes 64 } }) ∧
    (∀ m v, bit s.plant.evSrc m.toNat = false →
      u = { s with plant := { s.plant with
              evid := kset 0 s.plant.evid m.toNat v, evTaken := setBit s.plant.evTaken m.toNat true } } →
      (s.plant.evTaken = 0 → exec (.evidenceWrite m v) s = .next u) ∧
      (s.plant.evTaken ≠ 0 → exec (.evidenceWrite m v) s = .next (logErr .plant 0x0A81 agPlant (BitVec.ofNat 48 m.toNat) u))) ∧
    (∀ m v, bit s.plant.evSrc m.toNat = true → exec (.evidenceWrite m v) s = .next s) ∧
    (∀ v, bit s.plant.evSrc s.plant.evWrMbox.toNat = true → exec (.plantEvWrData v) s =
      .next { s with plant := { s.plant with evPend := s.plant.evPend ++ [(s.plant.evWrMbox, v)] } }) ∧
    (∀ v, bit s.plant.evSrc s.plant.evWrMbox.toNat = false → exec (.plantEvWrData v) s =
      .next { s with plant := { s.plant with reason := 0x0A08 } }) ∧
    (s.plant.tripPin = false → exec .tripAssert s = .next { s with plant := { s.plant with
      tripPin := true, tripUnseen := true, tripAge := 0, tripLatched := s.plant.tripLatched || s.plant.latch } }) ∧
    (s.plant.tripPin = true → exec .tripAssert s = .next s) ∧
    (s.plant.tripUnseen = true → s.plant.tripAge.toNat < 2 → exec .tripSeen s = .next s) ∧
    (s.plant.tripUnseen = true → 2 ≤ s.plant.tripAge.toNat → s.domRun 40 = true →
      u = { s with plant := { s.plant with tripUnseen := false, tripCount := satInc s.plant.tripCount, tripTick := s.now } } →
      (s.plant.disarm = false → exec .tripSeen s = .next (logErr .plant 0x0A82 agPlant 0 u)) ∧
      (s.plant.disarm = true → exec .tripSeen s =
        .next (logErr .plant 0x0A82 agPlant 0 (present (List.range 64) { u with plant := { u.plant with
          armed := 0, disarmed := BitVec.allOnes 64 } })))) ∧
    exec .tripDeassert s = .next { s with plant := { s.plant with tripPin := false } } ∧
    (s.plant.tripPin = false → exec .tripClr s = .next { s with plant := { s.plant with tripLatched := false } }) ∧
    (s.plant.tripPin = true → exec .tripClr s = .next { s with plant := { s.plant with reason := 0x0A07 } })

-- The debug block
/-- R512 to R520, R526, R528, R530, R545: the wire's session and its requests, each answered as its access ends; a request is counted, a
collision stops the response, a refusal names its reason, and an error response carries no data. -/
def Obligations.DebugWire : Prop :=
  ∀ s t u : State,
    (∀ st d, wireAns false st d s =
      { s with dbg := { s.dbg with frames := satInc s.dbg.frames }, rsp := { st := st, agent := agDbg, data := d } }) ∧
    (∀ st d, wireAns true st d s = logErr .dbg 0x0B81 agDbg 0 { s with
      dbg := { s.dbg with frames := satInc s.dbg.frames, wireColl := satInc s.dbg.wireColl }
      rsp := { st := .stopped, agent := agDbg, data := 0 } }) ∧
    exec .wakePulse s = .next { s with dbg := { s.dbg with oscOn := true } } ∧
    (∀ arg, s.dbg.oscOn = true → exec (.wake arg) s = .next { s with dbg := { s.dbg with
      session := true, frames := satInc s.dbg.frames, hor := (s.dbg.hor || bit arg 0) && !bit arg 1 } }) ∧
    (∀ arg, s.dbg.oscOn = false → exec (.wake arg) s = .next s) ∧
    (s.dbg.session = true → exec .sleep s =
      .next { s with dbg := { s.dbg with frames := satInc s.dbg.frames, session := false, oscOn := false } }) ∧
    exec .sessionTimeout s = .next { s with dbg := { s.dbg with session := false, oscOn := false } } ∧
    (s.dbg.session = true → exec .wireFrameError s =
      .next (logErr .dbg 0x0B80 agDbg 0 { s with dbg := { s.dbg with wireErr := satInc s.dbg.wireErr } })) ∧
    (∀ l, exec (.restingLevelChange l) s = .next { s with dbg := { s.dbg with lineHigh := l } }) ∧
    ((s.dbg.session = false ∨ s.dbg.lineHigh = false) → ∀ coll a v w m c, exec (.idcode coll) s = .next s ∧
      exec (.rdreg a coll) s = .next s ∧ exec (.wrreg a v coll) s = .next s ∧ exec (.rdmem a coll) s = .next s ∧
      exec (.wrmem a w coll) s = .next s ∧ exec (.halt m coll) s = .next s ∧ exec (.resume m coll) s = .next s ∧
      exec (.step c coll) s = .next s ∧ exec (.vtrd coll) s = .next s ∧ exec (.vtwr v coll) s = .next s ∧
      exec .wireAccessTimeout s = .next s) ∧
    (s.dbg.session = true → s.dbg.lineHigh = true →
      (∀ coll, exec (.idcode coll) s = .next (wireAns coll .ok 0x5E000111 s)) ∧
      (∀ a coll, a.toNat % 4 = 0 → 0x030000000000 ≤ a.toNat → a.toNat < 0x030004000000 →
        (∀ d, regRead agDbg a s = (.ok d, t) → exec (.rdreg a coll) s = .next (wireAns coll .ok (d.setWidth 512) t)) ∧
        (regRead agDbg a s = (.err, t) → exec (.rdreg a coll) s = .next (wireAns coll .err 0 t)) ∧
        (∀ v d, regWrite agDbg a v s = (.ok d, t) → exec (.wrreg a v coll) s = .next (wireAns coll .ok (d.setWidth 512) t)) ∧
        (∀ v, regWrite agDbg a v s = (.err, t) → exec (.wrreg a v coll) s = .next (wireAns coll .err 0 t))) ∧
      (∀ a coll, (a.toNat % 4 ≠ 0 ∨ a.toNat < 0x030000000000 ∨ 0x030004000000 ≤ a.toNat) →
        exec (.rdreg a coll) s = .next (wireAns coll .err 0 (logErr .glb 0x0184 agDbg a s)) ∧
        (∀ v, exec (.wrreg a v coll) s = .next (wireAns coll .err 0 (logErr .glb 0x0184 agDbg a s)))) ∧
      (∀ a coll, a.toNat % 8 ≠ 0 → exec (.rdmem a coll) s = .next (wireAns coll .err 0 (logErr .glb 0x0184 agDbg a s)) ∧
        (∀ v, exec (.wrmem a v coll) s = .next (wireAns coll .err 0 (logErr .glb 0x0184 agDbg a s)))) ∧
      (∀ (a : Dpa) coll, a.toNat % 8 = 0 → a.toNat < hbmTop → s.ink.enable = true → s.domRun 23 = true → s.hbm.trained = true →
        (s.wellAt (inkAt a.toNat)).tagsUsed.toNat < 4096 →
        ((∀ e ∈ hbmChecks a.toNat 8 s.hbm, e.2 ≠ .bad) → exec (.rdmem a coll) s = .next (wireAns coll .ok
          ((leWord 64 (hbmBytes (s.keyOf (s.granuleOwner (granuleOf a.toNat))) a.toNat 8 s.hbm) : W64).setWidth 512)
          (eccCount (hbmChecks a.toNat 8 s.hbm) s))) ∧
        (∀ v, hbmWrite (inkAt a.toNat) s.dbg.accOwner agDbg a.toNat (wordBytes 8 v) s = (none, t) →
          exec (.wrmem a v coll) s = .next (wireAns coll .ok 0 t)) ∧
        (∀ v e, hbmWrite (inkAt a.toNat) s.dbg.accOwner agDbg a.toNat (wordBytes 8 v) s = (some e, t) →
          exec (.wrmem a v coll) s = .next (wireAns coll .err 0 t))) ∧
      (∀ (a : Dpa) coll, a.toNat % 8 = 0 → hbmTop ≤ a.toNat → isWindow a = false → isSepiaMem a = false →
        (∀ lo hi, regRead agDbg a s = (.ok lo, t) → regRead agDbg (a + 4) t = (.ok hi, u) →
          exec (.rdmem a coll) s = .next (wireAns coll .ok ((hi ++ lo : W64).setWidth 512) u)) ∧
        (∀ v d e, regWrite agDbg a (fld v 0 32) s = (.ok d, t) → regWrite agDbg (a + 4) (fld v 32 32) t = (.ok e, u) →
          exec (.wrmem a v coll) s = .next (wireAns coll .ok 0 u))) ∧
      (∀ m coll, exec (.halt m coll) s = .next (wireAns coll .ok 0 (xtFire m agDbg s)) ∧
        exec (.resume m coll) s = .next (wireAns coll .ok 0 (sendXt 0 m agDbg s))) ∧
      (∀ (c : Byte) coll, c.toNat < 8 → (s.dcoreAt c.toNat).halted = true →
        t = s.setDcore c.toNat { s.dcoreAt c.toNat with halted := false } →
        exec (.step c coll) s =
          .next (wireAns coll .ok 0 (t.setCore c.toNat { t.coreAt c.toNat with stepping := true, skipCmp := true }))) ∧
      (∀ (c : Byte) coll, c.toNat < 8 → (s.dcoreAt c.toNat).halted = false →
        exec (.step c coll) s = .next (wireAns coll .refused 0 { s with dbg := { s.dbg with reason := 0x0B02 } })) ∧
      (∀ (c : Byte) coll, 8 ≤ c.toNat →
        exec (.step c coll) s = .next (wireAns coll .refused 0 { s with dbg := { s.dbg with reason := 0x0B04 } })) ∧
      (bit s.glb.own 10 = false →
        (∀ w coll, s.dbg.vtTx = some w →
          exec (.vtrd coll) s = .next (wireAns coll .ok (w.setWidth 512) { s with dbg := { s.dbg with vtTx := none } })) ∧
        (∀ coll, s.dbg.vtTx = none →
          exec (.vtrd coll) s = .next (wireAns coll .refused 0 { s with dbg := { s.dbg with reason := 0x0B06 } })) ∧
        (∀ v coll, s.dbg.vtRx = none →
          exec (.vtwr v coll) s = .next (wireAns coll .ok 0 { s with dbg := { s.dbg with vtRx := some v } })) ∧
        (∀ v w coll, s.dbg.vtRx = some w →
          exec (.vtwr v coll) s = .next (wireAns coll .refused 0 { s with dbg := { s.dbg with reason := 0x0B06 } }))) ∧
      (bit s.glb.own 10 = true → ∀ v coll,
        exec (.vtrd coll) s = .next (wireAns coll .refused 0 { s with dbg := { s.dbg with reason := 0x0110 } }) ∧
        exec (.vtwr v coll) s = .next (wireAns coll .refused 0 { s with dbg := { s.dbg with reason := 0x0110 } })) ∧
      exec .wireAccessTimeout s = .next (logErr .dbg 0x0B82 agDbg 0 { s with rsp := { st := .timeout, agent := agDbg, data := 0 } }))

/-- R521 to R545: cross-triggers combine on their tick and are released together, resumes before fires; halting, resuming and stepping a
core, its selected register, the Quill watch target, a trace record drained, patch units and the virtual terminal. -/
def Obligations.DebugUnits : Prop :=
  ∀ s t : State,
    (∀ ag m, m ≠ 0 → (∀ x ∈ s.latch, x.cls = .xtr → x.stamp ≠ s.now) →
      exec (.dbgXtFire ag m) s = .next { s with
        latch := s.latch ++ [{ cls := .xtr, src := 0, dst := 0, stamp := s.now, metered := true, pay := .xt m 0 ag }]
        dbg := { s.dbg with lastCh := m, lastAg := ag, xtTick := s.now } } ∧
      exec (.dbgXtResume ag m) s = .next { s with
        latch := s.latch ++ [{ cls := .xtr, src := 0, dst := 0, stamp := s.now, metered := true, pay := .xt 0 m ag }] }) ∧
    (∀ ag ag' m f r x, m ≠ 0 → s.latch = [x] → x.cls = .xtr → x.stamp = s.now → x.pay = .xt f r ag' →
      exec (.dbgXtFire ag m) s = .next { s with
        latch := [{ x with pay := .xt (f ||| m) r ag' }]
        dbg := { s.dbg with lastCh := m, lastAg := ag, xtTick := s.now } } ∧
      exec (.dbgXtResume ag m) s = .next { s with latch := [{ x with pay := .xt f (r ||| m) ag' }] }) ∧
    (∀ ag, exec (.dbgXtFire ag 0) s = .next s ∧ exec (.dbgXtResume ag 0) s = .next s) ∧
    (∀ x f r ag, inboxTake isXt (fun x => x.rel.toNat) s = some (x, t) → x.pay = .xt f r ag →
      exec .xtRelease s = .next (fireRelease f (if r = 0 then t else resumeRelease r t))) ∧
    (∀ m k p, p ∈ s.part → (∀ c < 8, (fld (s.dcoreAt c).ctl 8 8 : Byte) &&& m = 0) → s.dbg.slot = [] → p.2.haltOn &&& m ≠ 0 →
      k = { p.2 with halted := true, late := true, haltBy := p.2.haltBy ||| p.2.haltOn, haltOn := 0 } → (p.1, k) ∈ (fireRelease m s).part) ∧
    (∀ c : BitVec 3,
      (coreRuns s c.toNat = true → exec (.dbgCoreHalt c) s = .next (debugEvent c.toNat 1 0 s)) ∧
      (coreRuns s c.toNat = false → exec (.dbgCoreHalt c) s = .next s) ∧
      ((s.dcoreAt c.toNat).halted = true →
        exec (.dbgCoreResume c) s = .next ((s.setDcore c.toNat { s.dcoreAt c.toNat with halted := false }).setCore c.toNat
          { s.coreAt c.toNat with stepping := false, skipCmp := true }) ∧
        exec (.dbgCoreStep c) s = .next ((s.setDcore c.toNat { s.dcoreAt c.toNat with halted := false }).setCore c.toNat
          { s.coreAt c.toNat with stepping := true, skipCmp := true })) ∧
      ((s.dcoreAt c.toNat).halted = false →
        exec (.dbgCoreResume c) s = .next { s with dbg := { s.dbg with reason := 0x0B02 } } ∧
        exec (.dbgCoreStep c) s = .next { s with dbg := { s.dbg with reason := 0x0B02 } }) ∧
      (∀ ag v, (s.dcoreAt c.toNat).halted = true → s.sep.down = false →
        (∀ n : BitVec 5, (s.dcoreAt c.toNat).sel = n.setWidth 13 →
          exec (.dbgCoreData ag c false v) s =
            .next { s with rsp := { st := .ok, agent := ag, data := ((s.coreAt c.toNat).reg n.toNat).setWidth 512 } } ∧
          exec (.dbgCoreData ag c true v) s = .next (s.setCore c.toNat ((s.coreAt c.toNat).setReg n.toNat v))) ∧
        ((s.dcoreAt c.toNat).sel = 0x20 →
          exec (.dbgCoreData ag c false v) s =
            .next { s with rsp := { st := .ok, agent := ag, data := (s.coreAt c.toNat).pc.setWidth 512 } } ∧
          exec (.dbgCoreData ag c true v) s = .next (s.setCore c.toNat { s.coreAt c.toNat with pc := v &&& 0xFFFFFFFE }))) ∧
      (∀ ag v, (s.dcoreAt c.toNat).halted = false →
        exec (.dbgCoreData ag c false v) s = .next (ans ag .ok 0 { s with dbg := { s.dbg with reason := 0x0B01 } }) ∧
        exec (.dbgCoreData ag c true v) s = .next { s with dbg := { s.dbg with reason := 0x0B01 } })) ∧
    (∀ v, (∀ e ∈ s.dbg.watch, bit e.2.ctl 0 = false) →
      exec (.dbgQwTgt v) s = .next { s with dbg := { s.dbg with qwTgt := v &&& 0x80003F7F } }) ∧
    (∀ v, (∃ e ∈ s.dbg.watch, bit e.2.ctl 0 = true) →
      exec (.dbgQwTgt v) s = .next { s with dbg := { s.dbg with reason := 0x0B05 } }) ∧
    (∀ (q : Byte) r rs, s.dbg.trDone = false → q = s.dbg.trRr + 1 → (s.pqAt q.toNat).fifo = r :: rs →
      t = s.modPq q.toNat (fun p => { p with fifo := rs }) →
      (bit s.dbg.trCtl 2 = true → r.owner ≠ fld s.dbg.trCtl 8 7 →
        exec .traceDrain s = .next { t with dbg := { t.dbg with trRr := q, trDone := true } }) ∧
      ((bit s.dbg.trCtl 2 = false ∨ r.owner = fld s.dbg.trCtl 8 7) → bit s.dbg.trCtl 1 = true → 4096 ≤ s.dbg.trCount →
        exec .traceDrain s = .next { t with dbg := { t.dbg with trDropped := satInc s.dbg.trDropped, trRr := q, trDone := true } }) ∧
      ((bit s.dbg.trCtl 2 = false ∨ r.owner = fld s.dbg.trCtl 8 7) → (bit s.dbg.trCtl 1 = false ∨ s.dbg.trCount < 4096) →
        exec .traceDrain s = .next { t with dbg := { t.dbg with
          trRam := kput s.dbg.trRam s.dbg.trWr.toNat r, trWr := s.dbg.trWr + 1
          trWrapped := s.dbg.trWrapped || decide (4096 ≤ s.dbg.trCount), trCount := min 4096 (s.dbg.trCount + 1)
          trRr := q, trDone := true } })) ∧
    (s.dbg.trDone = true → exec .traceDrain s = .next s) ∧
    (∀ (n : BitVec 4) v w (ln : W32 → Nat), (∀ w, ln w = bflLine0 + (fld w 5 17 : BitVec 17).toNat / 2) → w = v &&& 0x803FFFE0 →
      ((fld v 22 9 : BitVec 9) ≠ 0 → exec (.patchUnitWrite n v) s = .next { s with dbg := { s.dbg with reason := 0x0B03 } }) ∧
      ((fld v 22 9 : BitVec 9) = 0 → w = kget 0 s.dbg.patch n.toNat → exec (.patchUnitWrite n v) s = .next s) ∧
      ((fld v 22 9 : BitVec 9) = 0 → w ≠ kget 0 s.dbg.patch n.toNat →
        exec (.patchUnitWrite n v) s = .next (invalLine (ln w) (invalLine (ln (kget 0 s.dbg.patch n.toNat))
          { s with dbg := { s.dbg with patch := kset 0 s.dbg.patch n.toNat w } })))) ∧
    (∀ (n : BitVec 4) (k : BitVec 3) v,
      (bit (kget 0 s.dbg.patch n.toNat) 31 = false → exec (.patchRamWrite n k v) s = .next { s with dbg := { s.dbg with
        patchRam := kset 0 s.dbg.patchRam (8 * n.toNat + k.toNat) v, patchBad := kset false s.dbg.patchBad n.toNat false } }) ∧
      (bit (kget 0 s.dbg.patch n.toNat) 31 = true →
        exec (.patchRamWrite n k v) s = .next { s with dbg := { s.dbg with reason := 0x0B03 } })) ∧
    (∀ ag v, isCore ag = true →
      (s.dbg.vtTx = none → exec (.dbgVtTx ag true v) s = .next { s with dbg := { s.dbg with vtTx := some v } }) ∧
      (∀ w, s.dbg.vtTx = some w → exec (.dbgVtTx ag true v) s = .next s) ∧
      exec (.dbgVtTx ag false v) s = .next (ans ag .ok ((s.dbg.vtTx.getD 0).setWidth 512) s) ∧
      exec (.dbgVtRx ag true v) s = .next s ∧
      exec (.dbgVtRx ag false v) s = .next (ans ag .ok ((s.dbg.vtRx.getD 0).setWidth 512) { s with dbg := { s.dbg with vtRx := none } })) ∧
    (∀ ag v, isCore ag = false → ag = (if bit s.glb.own 10 then agHost else agDbg) →
      (s.dbg.vtRx = none → exec (.dbgVtRx ag true v) s = .next { s with dbg := { s.dbg with vtRx := some v } }) ∧
      (∀ w, s.dbg.vtRx = some w → exec (.dbgVtRx ag true v) s = .next s) ∧
      exec (.dbgVtTx ag false v) s = .next (ans ag .ok ((s.dbg.vtTx.getD 0).setWidth 512) { s with dbg := { s.dbg with vtTx := none } })) ∧
    (∀ ag v, isCore ag = false → ag ≠ (if bit s.glb.own 10 then agHost else agDbg) →
      exec (.dbgVtRx ag true v) s = .next { s with dbg := { s.dbg with reason := 0x0110 } } ∧
      exec (.dbgVtTx ag true v) s = .next s ∧
      exec (.dbgVtTx ag false v) s = .next (ans ag .ok 0 { s with dbg := { s.dbg with reason := 0x0110 } }))

-- Power, reset and surroundings
/-- R552 to R559, R82: a domain drains, gates and wakes; the chip goes to PLANT-ONLY or KEEPALIVE when nothing is in use and comes
back on an enabled event, with the counter at the elapsed wall time. -/
def Obligations.PowerDomains : Prop :=
  ∀ s : State,
    (∀ (d : BitVec 6) x, d.toNat ≤ 40 → x = s.domAt d.toNat → s.pwr.state = 0 → s.pwr.going = 0 →
      (firstReason (gateChecks s d.toNat) = none → x.st = .run →
        exec (.domainGateRequest d) s = .next (s.setDom d.toNat { x with req := true, st := .drain })) ∧
      (∀ r, firstReason (gateChecks s d.toNat) = some r →
        exec (.domainGateRequest d) s = .next ((fun u : State => { u with pwr := { u.pwr with reason := r } })
          (s.setDom d.toNat { x with req := false }))) ∧
      (x.st = .gated → x.byState = false →
        exec (.domainRunRequest d) s = .next (s.setDom d.toNat { x with req := false, st := .waking })) ∧
      (x.st ≠ .gated → exec (.domainRunRequest d) s = .next (s.setDom d.toNat { x with req := false }))) ∧
    (∀ (d : BitVec 6) x, x = s.domAt d.toNat → x.st = .drain → x.inflight = 0 → s.pwr.going = 0 →
      ((d.toNat < 19 ∨ 22 < d.toNat) → d.toNat ≠ 40 → exec (.domainDrained d) s =
        .next (s.setDom d.toNat { x with st := if x.byState || x.req then .gated else .waking })) ∧
      (d.toNat = 40 → ∀ u, u = s.setDom 40 { x with st := if x.byState || x.req then .gated else .waking } →
        exec (.domainDrained d) s = .next { u with host := { u.host with speed := 0, width := 0 } }) ∧
      (19 ≤ d.toNat → d.toNat ≤ 22 → exec (.domainDrained d) s =
        .next ((capture (bankPins (d.toNat - 19)) s).setDom d.toNat { x with st := if x.byState || x.req then .gated else .waking })) ∧
      (d.toNat < 192 → pinHeld s d.toNat = false → ∀ v, pinDrive s d.toNat = some v →
        captureOne s d.toNat = { s with glb := { s.glb with hold := kset 2 s.glb.hold d.toNat v } })) ∧
    (∀ (d : BitVec 6) x, x = s.domAt d.toNat → x.st = .waking → x.byState = false →
      (∀ u, u = s.setDom d.toNat { x with st := .run, byState := false } →
        (1 ≤ d.toNat → d.toNat ≤ 16 → exec (.domainWakeDone d) s =
          .next (((List.range 16).map (fun r => 16 * r + (d.toNat - 1))).foldl (fun s q => s.setPq q {}) u)) ∧
        (d.toNat = 23 → exec (.domainWakeDone d) s = .next { u with hbm := {} }) ∧
        (24 ≤ d.toNat → d.toNat ≤ 39 → exec (.domainWakeDone d) s = .next (u.setLink (d.toNat - 24) {})) ∧
        (d.toNat = 17 → exec (.domainWakeDone d) s = .next (sepResetEnd u)) ∧
        (d.toNat = 18 → exec (.domainWakeDone d) s = .next (velCoreReset u)) ∧
        ((d.toNat = 0 ∨ (19 ≤ d.toNat ∧ d.toNat ≤ 22)) → exec (.domainWakeDone d) s = .next u)) ∧
      (d.toNat = 40 → ∃ t, exec (.domainWakeDone d) s = .next t ∧ t.tk.resumed = true ∧ t.part = [] ∧ t.pq = [] ∧ t.sync = [] ∧
        t.now = s.now ∧ t.hbm = s.hbm ∧ t.vel = s.vel ∧ t.sep = s.sep)) ∧
    (s.pwr.state = 0 → s.pwr.going = 0 →
      (anyCtx s = false → s.ink.enable = false → s.kl.enable = 0 → s.tk.syncEn = false → s.plant.armed = 0 → s.sep.run = 0 →
        exec .plantOnlyRequest s = .next (gateNext { s with pwr := { s.pwr with going := 1, waitWake := 0 } }) ∧
        exec .keepaliveRequest s = .next (gateNext { s with pwr := { s.pwr with going := 2, waitWake := 0 } })) ∧
      (anyCtx s = true → exec .plantOnlyRequest s = .next { s with pwr := { s.pwr with reason := 0x0C08 } } ∧
        exec .keepaliveRequest s = .next { s with pwr := { s.pwr with reason := 0x0C08 } })) ∧
    (∀ e wall, s.pwr.therm = false →
      (s.pwr.going ≠ 0 → exec (.wakeEvent e wall) s =
        .next { s with pwr := { s.pwr with waitWake := s.pwr.waitWake ||| (e &&& s.pwr.wakeEn), wall := wall } }) ∧
      (s.pwr.going = 0 → s.pwr.state = 1 → e &&& s.pwr.wakeEn ≠ 0 → ∃ t, exec (.wakeEvent e wall) s = .next t ∧
        t.pwr.state = 0 ∧ t.pwr.cause = e &&& s.pwr.wakeEn ∧
        t.now = s.pwr.savedTick + BitVec.ofNat 64 ((wall - s.pwr.savedWall).toNat * 390625 / 16) ∧
        t.hbm = s.hbm ∧ t.vel = s.vel ∧ t.sync = s.sync) ∧
      (s.pwr.going = 0 → s.pwr.state = 0 → exec (.wakeEvent e wall) s = .next s))

/-- R492, R560 to R570, Table 16.6: the resets: what each one clears and keeps, the hold of DBGRST_N, and the release sequence. -/
def Obligations.Resets : Prop :=
  ∀ s : State,
    (∃ t, exec .powerOnReset s = .next t ∧ t.now = 0 ∧ t.part = [] ∧ t.pq = [] ∧ t.sync = [] ∧ t.ls = {} ∧ t.ink = {} ∧ t.kl = {} ∧
      t.pwr = State.reset.pwr ∧ t.mad = State.reset.mad ∧ t.hbm = State.reset.hbm ∧ t.plant.force = [] ∧ t.plant.filtEn = true ∧
      t.plant.latch = true ∧ t.plant.disarm = true ∧ t.glb.atReset = State.reset.glb.atReset ∧ t.glb.surrEn = false ∧
      t.pending = s.pending) ∧
    (∀ c t, (c = .externalReset ∧ s.glb.rstcfg = false ∨ c = .hostReset false ∨ c = .hostReset true ∨ (c = .warm ∧ s.domRun 40 = true)) →
      exec c s = .next t →
      t.part = [] ∧ t.pq = [] ∧ t.sync = [] ∧ t.ls = {} ∧ t.ink = {} ∧ t.coll = {} ∧ t.kl = {} ∧ t.glb.surrEn = false ∧
      t.glb.active = [] ∧ t.glb.atReset = true ∧ t.sep.core = [] ∧ t.sep.run = 1 ∧ t.vel.frames = [] ∧ t.vel.lock = s.vel.lock ∧
      t.plant.force = s.plant.force ∧ t.plant.tripLatched = s.plant.tripLatched ∧ t.dbg.session = s.dbg.session ∧ t.pwr.wall = s.pwr.wall) ∧
    (s.glb.rstcfg = false → ∃ t, exec .externalReset s = .next t ∧ t.now = 0 ∧ t.glb.lastReset = 1 ∧ t.dbg.patch = []) ∧
    (s.glb.rstcfg = true → exec .externalReset s = .next s) ∧
    (∀ hot, ∃ t, exec (.hostReset hot) s = .next t ∧ t.now = s.now ∧ t.glb.lastReset = (if hot then 3 else 2) ∧
      t.dbg.patch = s.dbg.patch ∧ t.host.msix = []) ∧
    (s.domRun 40 = true → ∃ t, exec .warm s = .next t ∧ t.now = s.now ∧ t.glb.lastReset = 4 ∧ t.dbg.patch = s.dbg.patch ∧
      t.host.msix = s.host.msix) ∧
    (s.vel.release = false → ∃ t, exec .velFabric s = .next t ∧ t.vel.frames = [] ∧ t.vel.loaded = false ∧ t.vel.lock = s.vel.lock ∧
      t.vel.prim = s.vel.prim ∧ t.glb = s.glb ∧ t.hbm = s.hbm ∧ t.sep = s.sep ∧ t.plant = s.plant) ∧
    (s.vel.release = true → exec .velFabric s = .next { s with glb := { s.glb with reason := 0x0109 } }) ∧
    (s.glb.resetHeld = true → s.glb.lastReset.toNat ≤ 1 → exec .externalResetRelease s = .next { s with
      glb := { s.glb with resetHeld := false, recovery := s.glb.longHold, bootsrc := s.glb.strapSrc }
      vel := { s.vel with recovery := s.glb.longHold, bootsrc := s.glb.strapSrc } }) ∧
    (s.glb.xtal = true → s.glb.resetHeld = true → s.glb.rstcfg = false → s.glb.lastReset.toNat ≤ 1 →
      exec .longHold s = .next { s with glb := { s.glb with longHold := true } }) ∧
    (∀ t rec, s.glb.atReset = true → (s.glb.resetHeld = true → 1 < s.glb.lastReset.toNat) →
      rec = (s.glb.recovery || (s.glb.rstcfg && s.glb.longHold)) →
      t = { s with
            glb := { s.glb with atReset := false, perst := false, resetHeld := false, bootsrc := s.glb.strapSrc, recovery := rec }
            vel := { s.vel with bootDue := true, bootsrc := s.glb.strapSrc, recovery := rec } } →
      ((s.glb.lastReset = 0 ∨ s.mad.started = false) → exec .releasePoint s = .next (coreLeavesReset 0 (madStart t))) ∧
      (s.glb.lastReset ≠ 0 → s.mad.started = true → exec .releasePoint s = .next (coreLeavesReset 0 t))) ∧
    ((s.glb.atReset = false ∨ (s.glb.resetHeld = true ∧ s.glb.lastReset.toNat ≤ 1)) → exec .releasePoint s = .next s) ∧
    (∀ ds, (0 : BitVec 6) ∈ ds → exec (.supplyFault ds) s = exec .powerOnReset s) ∧
    (∃ t, exec (.supplyFault [23]) s = .next t ∧ t = { s with hbm := {} }) ∧
    (∀ d : BitVec 6, 24 ≤ d.toNat → d.toNat ≤ 39 → ∃ t, exec (.supplyFault [d]) s = .next t ∧
      bit t.kl.enable (d.toNat - 24) = false ∧ t.sync = s.sync ∧ t.hbm = s.hbm)

/-- R569, R573, R574, R576, R578 to R580, R621, R623: the surroundings table is taken, refused and cleared, an owner field moves
when it is free, telemetry and supplies are recorded, and starved background work pauses its Quill. -/
def Obligations.SurroundingsAndTelemetry : Prop :=
  ∀ s : State,
    (s.glb.surrEn = false → firstReason (surrChecks s.glb.shadow) = none → exec .surrEnableSet s =
      .next (present (List.range 64) (copyForce { s with glb := { s.glb with surrEn := true, active := s.glb.shadow } }))) ∧
    (∀ r, s.glb.surrEn = false → firstReason (surrChecks s.glb.shadow) = some r →
      exec .surrEnableSet s = .next { s with glb := { s.glb with reason := r } }) ∧
    (s.glb.surrEn = true → anyCtx s = false → s.ink.enable = false → s.kl.enable = 0 → s.tk.syncEn = false → s.vel.release = false →
      s.plant.armed = 0 → exec .surrEnableClear s = .next { s with glb := { s.glb with surrEn := false } }) ∧
    (s.glb.surrEn = true → (anyCtx s = true ∨ s.ink.enable = true ∨ s.kl.enable ≠ 0 ∨ s.tk.syncEn = true ∨ s.vel.release = true ∨
      s.plant.armed ≠ 0) → exec .surrEnableClear s = .next { s with glb := { s.glb with reason := 0x0108 } }) ∧
    (s.glb.surrEn = true → firstReason (surrChecks s.glb.shadow) = none →
      (s.ink.enable = true → surrDiffers s.glb.shadow s.glb.active 0x10 0x40 = false) →
      ((s.kl.enable ≠ 0 ∨ s.tk.syncEn = true) → surrDiffers s.glb.shadow s.glb.active 0x40 0x60 = false) →
      exec .apply s = .next (present (List.range 64) (copyForce { s with glb := { s.glb with active := s.glb.shadow } }))) ∧
    (∀ r, s.glb.surrEn = true → firstReason (surrChecks s.glb.shadow) = some r →
      exec .apply s = .next (logErr .glb 0x0181 agHost 0 { s with glb := { s.glb with reason := r } })) ∧
    (∀ (v : W32) n, n = (fld v 0 11 : BitVec 11) &&& 0x73F →
      ((n ^^^ s.glb.own) &&& ownBusy s = 0 → exec (.glbOwnWrite v) s = .next { s with glb := { s.glb with own := n } }) ∧
      ((n ^^^ s.glb.own) &&& ownBusy s ≠ 0 → exec (.glbOwnWrite v) s = .next { s with glb := { s.glb with reason := 0x0111 } })) ∧
    (∀ p ts, s.pwr.state = 0 → ts.length = 8 →
      (s.glb.surrEn = false → exec (.telemetrySample p ts) s = .next { s with pwr := { s.pwr with
        power := p, temp := (List.range 8).foldl (fun m i => kset 0 m i (ts.getD i 0)) s.pwr.temp } }) ∧
      (s.glb.surrEn = true → (∀ t ∈ ts, t.toInt < tjShut s) →
        exec (.telemetrySample p ts) s = .next (tempSample ts (powerSample p s))) ∧
      (s.glb.surrEn = true → (∃ t ∈ ts, tjShut s ≤ t.toInt) →
        ∃ t, exec (.telemetrySample p ts) s = .next t ∧ t.pwr.state = 2 ∧ t.pwr.therm = true ∧ t.xing = [] ∧ t.inbox = [])) ∧
    (∀ (q : Byte) p, p = s.pqAt q.toNat → p.bgPend = true → 1024 ≤ p.bgWait →
      exec (.backgroundStarvation q) s = .next (s.setPq q.toNat { p with bgWait := 0, paused := true })) ∧
    exec .xtal32Start s = .next { s with glb := { s.glb with xtal := true } } ∧
    (∀ b, exec (.vccioFault b) s = .next (logErr .vel 0x098B agVel (b.setWidth 48)
      { s with vel := { s.vel with bankBad := kset false s.vel.bankBad b.toNat true } })) ∧
    (∀ b, exec (.vccioRestored b) s =
      .next { s with vel := { s.vel with bankBad := kset false s.vel.bankBad b.toNat false } }) ∧
    (s.ink.enable = true → s.domRun 23 = true →
      exec .hbmTrainingDone s = .next { s with hbm := { s.hbm with trained := true, selfRef := false } })

-- The host interface
/-- R584 to R600: a cause that becomes active sets its bit and sends its message when enabled, a W1C clears the bits of causes no
longer active, software interrupts and an unmasked vector send theirs, access errors are logged, and the link comes up. -/
def Obligations.HostInterface : Prop :=
  ∀ s t : State,
    (∀ (v : Byte) k, 65 ≤ v.toNat → v.toNat ≤ 79 → k = v.toNat - 65 → causeActive s k = true → bit s.host.irqStat k = false →
      t = { s with host := { s.host with irqStat := setBit s.host.irqStat k true } } →
      (bit s.host.irqEn k = false → exec (.msixCauseActive v) s = .next t) ∧
      (bit s.host.irqEn k = true → s.host.masked v.toNat = false →
        exec (.msixCauseActive v) s = .next { t with host := { t.host with out := s.host.out ++ [.msi v] } }) ∧
      (bit s.host.irqEn k = true → s.host.masked v.toNat = true →
        exec (.msixCauseActive v) s = .next { t with host := { t.host with pba := kset false s.host.pba v.toNat true } })) ∧
    (∀ m, (∀ k < 15, bit m k = true → causeActive { s with host := { s.host with irqStat := s.host.irqStat &&& ~~~m } } k = false) →
      exec (.hostIrqStatusClear m) s = .next { s with host := { s.host with irqStat := s.host.irqStat &&& ~~~m } }) ∧
    (∀ m, exec (.hostSwint m) s =
      .next ((List.range 8).foldl (fun u n => if bit m n then sendMsi (BitVec.ofNat 8 (80 + n)) u else u) s)) ∧
    (∀ v : Byte, t = { s with host := { s.host with
              msix := kset 1 s.host.msix (4 * v.toNat + 3) (setBit (s.host.msixWord (4 * v.toNat + 3)) 0 false) } } →
      (kget false s.host.pba v.toNat = false → exec (.msixUnmask v) s = .next t) ∧
      (kget false s.host.pba v.toNat = true → t.host.masked v.toNat = false → exec (.msixUnmask v) s = .next { t with host :=
        { t.host with pba := kset false s.host.pba v.toNat false, out := s.host.out ++ [.msi v] } })) ∧
    (∀ off wr, s.host.d3hot = false → exec (.barAccessError 0 off wr) s =
        .next (errRsp agHost (logErr .glb 0x0182 agHost (0x030000000000 + off.setWidth 48) s)) ∧
      exec (.barAccessError 2 off wr) s = .next (errRsp agHost (logErr .glb 0x0182 agHost (off.setWidth 48) s))) ∧
    (∀ off wr, s.host.d3hot = true →
      exec (.barAccessError 0 off wr) s = .next { s with rsp := { st := .err, agent := agHost, data := 0 } }) ∧
    (∀ g w, (w = 1 ∨ w = 4 ∨ w = 8 ∨ w = 16) → s.domRun 40 = true → s.glb.perst = false →
      exec (.pcieLinkUp g w) s = .next { s with host := { s.host with speed := if g then 5 else 4, width := w } }) ∧
    (∀ v, exec (.pcieD3hot v) s = .next { s with host := { s.host with d3hot := v } })

-- Numbered rules, stated whole
/-- R172: ALU and ALUI write f(s[RA], b) of Table 05.3, wrapped modulo 2^32, where b is s[RB] or the 32-bit IMM; a write of s0
changes nothing; an FN that the table does not define raises 0x0E85. -/
def Obligations.AluResults : Prop :=
  ∀ (q : Byte) (w : W64) (c : QCtx) (s : State),
    (Clear c s → Issues (isOp 0x01) q w c s → ∃ v, aluInt c.i.fn (c.lq.sReg c.i.ra) (c.lq.sReg c.i.rb) = some v ∧
      exec (.alu q) s = .next (issued c .seq (c.mod (fun l => l.setS c.i.rd (BitVec.ofInt 32 v)) s))) ∧
    (Clear c s → Issues (isOp 0x02) q w c s → ∃ v, aluInt c.i.fn (c.lq.sReg c.i.ra) c.i.imm = some v ∧
      exec (.alui q) s = .next (issued c .seq (c.mod (fun l => l.setS c.i.rd (BitVec.ofInt 32 v)) s))) ∧
    (∀ l : Lq, ∀ v, l.setS 0 v = l) ∧
    (AtIssue q w c s → (c.i.op = 1 ∨ c.i.op = 2) → aluInt c.i.fn 0 0 = none →
      exec (.alu q) s = .next (c.raise 0x0E85 c.here s) ∧ exec (.alui q) s = .next (c.raise 0x0E85 c.here s))

/-- R143, R144: at its issue tick a word that fails the encoding checks raises 0x0E85 whatever its guard, and an instruction whose
guard is 0 only issues: no store, register, crossing or other part of the state changes but the sequencer's own. -/
def Obligations.UndefinedAndGuardedOff : Prop :=
  ∀ (q : Byte) (w : W64) (c : QCtx) (s : State), AtIssue q w c s → ∀ e ∈ quillTable q,
    (encOk (insOf w) c.lq.pc = false → exec e.1 s = .next (quillRaise c.q c.id c.part.metered 0x0E85 c.here c.lq.pc s)) ∧
    (encOk (insOf w) c.lq.pc = true → e.2 (insOf w) = true → c.lq.guard (insOf w) = false → exec e.1 s = .next (issued c .seq s)) ∧
    (encOk (insOf w) c.lq.pc = true → e.2 (insOf w) = false → exec e.1 s = .next s)

/-- R97, R113, R131: the frame of the instructions that only write registers, tables and accumulators (scalar, predicate, address,
control but SRRD, MMA.CLR, VAR and the BETA forms without a table): no store, crossing, sync object, mailbox, counter or other
unit changes, no other partition and no other logical Quill of the partition. -/
def Obligations.QuillRegisterFrame : Prop :=
  ∀ (q : Byte) (w : W64) (c : QCtx) (s t : State), Clear c s → ∀ e ∈ registerRows q, Issues e.2 q w c s → exec e.1 s = .next t →
    t = { s with part := t.part } ∧ (∀ k, k ≠ c.part.id.key → kfind t.part k = kfind s.part k) ∧
      (c.part.id = c.id.part → kwf {} c.part.lqs = true → ∃ p, t.partAt c.id.part = some p ∧ p = { c.part with lqs := p.lqs } ∧
        ∀ l, l ≠ c.id.l.toNat → p.lqAt l = c.part.lqAt l)

/-- R631: SYNC_SET writes COUNT only when WCOUNT is 1: the payload's COUNT with ADD = 0, the sum modulo 2^32 with ADD = 1;
WTHRESH = 1 sets THRESH. -/
def Obligations.SyncSetFields : Prop :=
  ∀ (s : State) (o : Owner) (k : BitVec 3) (n : W32) (d : Disp) (i : Nat),
    takeDisp o k n 0x01 s = some d → d.start.ult s.now = true → payloadOk d.cmd [(8, 0, 17), (8, 24, 3), (12, 0, 64)] = true →
    i = d.cmd.f 8 0 17 → (s.syncAt i).owner = o → ∃ t x, exec (.syncSet o k n) s = .next t ∧ t.sync = (s.setSync i x).sync ∧
      (d.cmd.bitAt 11 0 = false → x.count = (s.syncAt i).count) ∧
      (d.cmd.bitAt 11 0 = true → d.cmd.bitAt 11 2 = false → x.count = BitVec.ofNat 32 (d.cmd.f 12 0 32)) ∧
      (d.cmd.bitAt 11 0 = true → d.cmd.bitAt 11 2 = true → x.count = (s.syncAt i).count + BitVec.ofNat 32 (d.cmd.f 12 0 32)) ∧
      (d.cmd.bitAt 11 1 = true → x.thresh = BitVec.ofNat 32 (d.cmd.f 16 0 32)) ∧
      (d.cmd.bitAt 11 1 = false → x.thresh = (s.syncAt i).thresh) ∧ x.owner = (s.syncAt i).owner ∧ x.bound = (s.syncAt i).bound

/-- R495, R498: binding a decision mailbox sets its register to DEC_SAFE and leaves it disarmed, unbinding disarms it; the limit
check of a released post: inside [LO, HI] or ACTION 0 the register takes v, ACTION 1 the limit that v passed, ACTION 2 nothing, and
ACTION 1 and 2 outside the limits set the mailbox's LIMIT_HIT bit and log 0x0A80 with its number; no tick passes and no Quill
changes. -/
def Obligations.PlantBindingAndLimits : Prop :=
  (∀ (s : State) (o : Owner) (k : BitVec 3) (n : W32) (d : Disp) (id : PartId) (ev dec : W64),
    takeDisp o k n 0x28 s = some d → d.got = true → payloadOk d.cmd [(8, 0, 6), (9, 0, 1), (16, 0, 64), (24, 0, 64)] = true →
    id = d.cmd.pid o → ev = BitVec.ofNat 64 (d.cmd.f 16 0 64) → dec = BitVec.ofNat 64 (d.cmd.f 24 0 64) →
    bindBad (d.cmd.bitAt 9 0) id ev s.plant.evBind = false → bindBad (d.cmd.bitAt 9 0) id dec s.plant.decBind = false →
    (∀ p, s.partAt id = some p → partRuns p = false) →
    ∃ t, exec (.plantBind o k n) s = .next t ∧ (∀ m < 64, bit dec m = true → bit t.plant.armed m = false) ∧
      (d.cmd.bitAt 9 0 = false →
        t.plant.dec = ((List.range 64).filter (bit dec)).foldl (fun r m => kset 0 r m (s.decSafe m)) s.plant.dec)) ∧
  (∀ (s t : State) x src (m : BitVec 6) v lo hi old, inboxTake isPost postKey s = some (x, t) → x.pay = .post src m v →
    kfind t.plant.decBind m.toNat = some src.part → lo = s.mbLo m.toNat → hi = s.mbHi m.toNat → old = kget 0 s.plant.dec m.toNat →
    ∃ u, exec .postRelease s = .next u ∧ u.now = s.now ∧ u.part = s.part ∧ u.pq = s.pq ∧
      (∀ below above, below = mbLess (s.mbSigned m.toNat) v lo → above = mbLess (s.mbSigned m.toNat) hi v →
        (s.mbAction m.toNat ≠ 3 →
          u.plant.dec = kset 0 s.plant.dec m.toNat (if (below || above) = false ∨ s.mbAction m.toNat = 0 then v
            else if s.mbAction m.toNat = 1 then (if below then lo else hi) else old)) ∧
        ((below || above) = true → (s.mbAction m.toNat = 1 ∨ s.mbAction m.toNat = 2) →
          u.plant.limitHit = setBit s.plant.limitHit m.toNat true ∧
          (s.plant.errlog.code = 0 → u.plant.errlog.code = 0x0A80 ∧ u.plant.errlog.addr = BitVec.ofNat 48 m.toNat)) ∧
        (((below || above) = false ∨ s.mbAction m.toNat = 0) →
          u.plant.limitHit = s.plant.limitHit ∧ u.plant.errlog = s.plant.errlog)))

/-- R477, R540, R574: a write of 1 to a bit of VEL_LOCK_SET sets it, one to VEL_LOCK_CLR clears it only in a recovery boot and is
otherwise refused with 0x0907, a write with no bit at 1 does nothing; DBG_QW_TGT is refused with 0x0B05 while a watch unit is enabled; a clear of SURR_ENABLE is refused
with 0x0108 while a CTX_ENABLE, INK_ENABLE, a KL_ENABLE bit, SYNC_EN or VEL_RELEASE reads 1 or a decision mailbox is armed. -/
def Obligations.RefusedWrites : Prop :=
  ∀ s : State,
    (∀ v, v ≠ 0 → ∃ t, exec (.velLockSet v) s = .next t ∧ t.vel.infoGen = s.vel.infoGen + 1 ∧
      ∀ i < 5, bit t.vel.lock i = (bit s.vel.lock i || bit v i)) ∧
    (∀ v, s.vel.recovery = true → ∃ t, exec (.velLockClr v) s = .next t ∧
      ∀ i < 5, bit t.vel.lock i = (bit s.vel.lock i && !bit v i)) ∧
    (∀ v, v ≠ 0 → s.vel.recovery = false → exec (.velLockClr v) s = .next { s with vel := { s.vel with reason := 0x0907 } }) ∧
    (exec (.velLockSet 0) s = .next s ∧ exec (.velLockClr 0) s = .next s) ∧
    (∀ v, (∃ e ∈ s.dbg.watch, bit e.2.ctl 0 = true) →
      exec (.dbgQwTgt v) s = .next { s with dbg := { s.dbg with reason := 0x0B05 } }) ∧
    (s.glb.surrEn = true → ((∃ e ∈ s.sched.own, e.2.enable = true) ∨ s.ink.enable = true ∨ s.kl.enable ≠ 0 ∨ s.tk.syncEn = true ∨
      s.vel.release = true ∨ s.plant.armed ≠ 0) → exec .surrEnableClear s = .next { s with glb := { s.glb with reason := 0x0108 } })

/-- R546, R599, R600: when the sources VTERM and DEBUG are active; a write of 1 to bit n of HOST_SWINT sends one message on vector
80 + n; a message that falls due while its vector is masked or MSI-X is disabled sets the PBA bit and is not sent, and unmasking
sends one. -/
def Obligations.InterruptsAndMessages : Prop :=
  ∀ s : State,
    (srcActive s 20 = true ↔ (s.dbg.vtRx.isSome = true ∧ bit s.dbg.vtIrq 1 = true) ∨ (s.dbg.vtTx = none ∧ bit s.dbg.vtIrq 0 = true)) ∧
    (∀ c, debugActive s (some c) = true ↔ (∃ i < 8, i ≠ c ∧ ((s.dcoreAt i).halted = true ∨ (s.dcoreAt i).inMon = true)) ∨
      s.dbg.qbrkHit = true ∨ s.dbg.qwHit = true) ∧
    (∀ m, s.host.msixEn = true → (∀ n < 8, bit m n = true → bit (s.host.msixWord (4 * (80 + n) + 3)) 0 = false) →
      exec (.hostSwint m) s = .next { s with host := { s.host with
        out := s.host.out ++ ((List.range 8).filter (bit m)).map (fun n => .msi (BitVec.ofNat 8 (80 + n))) } }) ∧
    (∀ v : Byte, (s.host.msixEn = false ∨ bit (s.host.msixWord (4 * v.toNat + 3)) 0 = true) →
      sendMsi v s = { s with host := { s.host with pba := kset false s.host.pba v.toNat true } }) ∧
    (∀ m, (s.host.msixEn = false ∨ ∀ n < 8, bit m n = true → bit (s.host.msixWord (4 * (80 + n) + 3)) 0 = true) →
      exec (.hostSwint m) s = .next { s with host := { s.host with
        pba := ((List.range 8).filter (bit m)).foldl (fun b n => kset false b (80 + n) true) s.host.pba } }) ∧
    (∀ v : Byte, s.host.msixEn = true → kget false s.host.pba v.toNat = true → ∃ t, exec (.msixUnmask v) s = .next t ∧
      t.host.out = s.host.out ++ [.msi v] ∧ t.host.pba = kset false s.host.pba v.toNat false)

/-- R245, R246, R265, R269, R270, R587: HBM gives back what was written. A write of any length that the owner may make, in
lines without an uncorrectable word, completes; the owner then reads back the bytes written, sees every other byte as before,
and every reader sees the other lines as before. Through BAR4: a write and a read of the same bytes answer the data. -/
def Obligations.HbmReadsBackWrites : Prop :=
  (∀ (s : State) (i : Nat) (o : Owner) (ag ag' : Agent) (a : Nat) (d : List Byte),
    Memory.wf s.hbm.mem = true → kwf 0 s.hbm.key = true → d ≠ [] → (∀ b, a ≤ b → b < a + d.length → hbmGate o b s = none) →
    (∀ b, kget 0 s.ink.lineBy b ≤ i + 1) →
    (∀ e ∈ s.hbm.ecc, a / 64 ≤ e.1 / 8 → e.1 / 8 ≤ (a + d.length - 1) / 64 → e.2 ≠ .bad) →
    ∃ t u, hbmWrite i o ag a d s = (none, t) ∧ hbmRead o ag' a d.length t = (.ok d, u) ∧ u.hbm = t.hbm ∧
      (∀ b, b < a ∨ a + d.length ≤ b → hbmBytes (s.keyOf o) b 1 t.hbm = hbmBytes (s.keyOf o) b 1 s.hbm) ∧
      (∀ k b, b / 64 < a / 64 ∨ (a + d.length - 1) / 64 < b / 64 → hbmBytes k b 1 t.hbm = hbmBytes k b 1 s.hbm)) ∧
  (∀ (s : State) (off : BitVec 37) (len a : Nat) (d x : BitVec 512),
    Memory.wf s.hbm.mem = true → kwf 0 s.hbm.key = true → s.domRun 40 = true → hbmUp s = true → s.ink.bar4Owner.toNat ≤ 64 →
    a = bar4Dpa off.toNat s → len ≠ 0 → a % 64 + len ≤ 64 → hbmGate s.ink.bar4Owner a s = none →
    (∀ e ∈ s.hbm.ecc, e.1 / 8 = a / 64 → e.2 ≠ .bad) → s.host.d3hot = false → s.ink.lineBy = [] →
    (s.wellAt (inkAt a)).tagsUsed.toNat < 4096 →
    ∃ t u, exec (.bar4Access off true len d) s = .next t ∧ t.rsp = { st := .ok, agent := agHost, data := 0 } ∧
      exec (.bar4Access off false len x) t = .next u ∧ u.hbm = t.hbm ∧
      u.rsp = { st := .ok, agent := agHost, data := leWord 512 (wordBytes len d) })

-- The whole machine
/-- A step takes the command at the front of the queue and is exec of it on the state with the queue's rest; on an empty queue only
the outside of the fabric moves, and a fabric that is not enabled leaves the state as it is (log entries 8 and 131: the model's
choice). -/
def Obligations.StepRunsFront : Prop :=
  ∀ s : State, (∀ c cs, s.pending = c :: cs → step s = exec c { s with pending := cs }) ∧ (s.pending = [] → step s = .next (fabEvent s)) ∧
    (s.pending = [] → fabOn s = false → step s = .next s)

/-- Every command completes: exec neither faults nor refuses, whatever the state. -/
def Obligations.NoCommandStops : Prop := ∀ (c : Instr) (s : State), ∃ t, exec c s = .next t

/-- No command changes the queue of waiting commands. -/
def Obligations.QueueUntouched : Prop := ∀ (c : Instr) (s t : State), exec c s = .next t → t.pending = s.pending

/-- Every step keeps the canonical form of HBM's bytes and of the sync objects. -/
def Obligations.InvariantKept : Prop := ∀ s t : State, Inv s → step s = .next t → Inv t

/-- The state after reset: the invariant holds, no command waits, the counter is 0, nothing is enabled, and the force registers
hold the power-on values of R492. -/
def Obligations.ResetState : Prop :=
  Inv State.reset ∧ State.reset.pending = [] ∧ State.reset.now = 0 ∧ State.reset.glb.surrEn = false ∧
  (∀ o, (State.reset.ownAt o).enable = false) ∧ (∀ o k, (State.reset.queueAt o k).enable = false) ∧
  (∀ p, State.reset.forceReg p = 7) ∧ State.reset.plant.filtEn = true ∧ State.reset.plant.latch = true ∧
  State.reset.plant.disarm = true ∧ State.reset.plant.armed = 0 ∧ State.reset.ink.enable = false ∧ State.reset.kl.enable = 0 ∧
  State.reset.vel.release = false ∧ State.reset.vel.stage = 0 ∧ State.reset.pwr.state = 0 ∧ (∀ d, (State.reset.domAt d).st = .run)
end

