-- ==== Sys2Proof/Laws/KMap.lean ====
section
/-!
SUPPORT. Sparse maps: reading after writing, and every map operation keeps the canonical form.
-/
namespace Sys2Proof

-- Rising keys
theorem krising_weaken {α : Type} {lo lo' : Nat} (m : KMap α) (h : lo ≤ lo') (hm : krising (some lo') m = true) :
    krising (some lo) m = true := by
  cases m with
  | nil => rfl
  | cons e m => simp only [krising, Bool.and_eq_true, decide_eq_true_eq] at *; exact ⟨by omega, hm.2⟩

theorem krising_none_of_some {α : Type} {lo : Nat} (m : KMap α) (hm : krising (some lo) m = true) : krising none m = true := by
  cases m with
  | nil => rfl
  | cons e m => simp only [krising, Bool.and_eq_true] at *; exact hm.2

/-- A map with rising keys above `lo` lists no key up to `lo`. -/
theorem krising_mem {α : Type} {lo : Nat} {m : KMap α} (hm : krising (some lo) m = true) : ∀ e ∈ m, lo < e.1 := by
  induction m generalizing lo with
  | nil => simp
  | cons x m ih =>
    simp only [krising, Bool.and_eq_true, decide_eq_true_eq] at hm
    intro e he
    rcases List.mem_cons.mp he with rfl | he
    · exact hm.1
    · exact hm.1.trans (ih hm.2 e he)

-- Reading
@[simp] theorem kget_nil {α : Type} (d : α) (k : Nat) : kget d [] k = d := rfl
@[simp] theorem kfind_nil {α : Type} (k : Nat) : kfind ([] : KMap α) k = none := rfl

/-- Below every listed key a map reads as its default. -/
theorem kget_below {α : Type} (d : α) {lo k : Nat} {m : KMap α} (hm : krising (some lo) m = true) (h : k ≤ lo) : kget d m k = d := by
  cases m with
  | nil => rfl
  | cons e m =>
    simp only [krising, Bool.and_eq_true, decide_eq_true_eq] at hm
    simp only [kget]; rw [if_neg (by omega), if_pos (by omega)]

/-- A map whose keys are sorted reads back what was put. -/
@[simp] theorem kget_kput_self {α : Type} (d : α) (m : KMap α) (k : Nat) (v : α) : kget d (kput m k v) k = v := by
  induction m with
  | nil => simp [kput, kget]
  | cons e m ih =>
    simp only [kput]
    split
    · simp [kget]
    · split
      · simp [kget]
      · simp only [kget]; rw [if_neg (by assumption), if_neg (by omega)]; exact ih

@[simp] theorem kfind_kput_self {α : Type} (m : KMap α) (k : Nat) (v : α) : kfind (kput m k v) k = some v := by
  induction m with
  | nil => simp [kput, kfind]
  | cons e m ih =>
    simp only [kput]
    split
    · simp [kfind]
    · split
      · simp [kfind]
      · simp only [kfind]; rw [if_neg (by assumption), if_neg (by omega)]; exact ih

theorem kget_kput_ne {α : Type} (d : α) (m : KMap α) {k j : Nat} (v : α) (h : j ≠ k) : kget d (kput m k v) j = kget d m j := by
  induction m with
  | nil => simp [kput, kget, h.symm]
  | cons e m ih =>
    simp only [kput]
    split
    · next he => subst he; simp [kget, h.symm]
    · split
      · simp only [kget, if_neg h.symm]
        split
        · rw [if_neg (by omega), if_pos (by omega)]
        · rfl
      · simp only [kget, ih]

theorem kfind_kput_ne {α : Type} (m : KMap α) {k j : Nat} (v : α) (h : j ≠ k) : kfind (kput m k v) j = kfind m j := by
  induction m with
  | nil => simp [kput, kfind, h.symm]
  | cons e m ih =>
    simp only [kput]
    split
    · next he => subst he; simp [kfind, h.symm]
    · split
      · simp only [kfind, if_neg h.symm]
        split
        · rw [if_neg (by omega), if_pos (by omega)]
        · rfl
      · simp only [kfind, ih]

/-- Deleting a key of a map with rising keys: the key reads as the default afterwards. -/
theorem kget_kdel_self {α : Type} (d : α) {m : KMap α} {o : Option Nat} (hm : krising o m = true) (k : Nat) : kget d (kdel m k) k = d := by
  induction m generalizing o with
  | nil => rfl
  | cons e m ih =>
    have h2 : krising (some e.1) m = true := by
      cases o <;> simp only [krising, Bool.and_eq_true] at hm
      · exact hm
      · exact hm.2
    simp only [kdel]
    split
    · next he => subst he; exact kget_below d h2 (Nat.le_refl _)
    · split
      · simp only [kget]; rw [if_neg (by assumption), if_pos (by assumption)]
      · simp only [kget]; rw [if_neg (by assumption), if_neg (by assumption)]; exact ih h2

theorem kget_kdel_ne {α : Type} (d : α) {m : KMap α} {o : Option Nat} (hm : krising o m = true) {k j : Nat} (h : j ≠ k) :
    kget d (kdel m k) j = kget d m j := by
  induction m generalizing o with
  | nil => rfl
  | cons e m ih =>
    have h2 : krising (some e.1) m = true := by
      cases o <;> simp only [krising, Bool.and_eq_true] at hm
      · exact hm
      · exact hm.2
    simp only [kdel]
    split
    · next he =>
      subst he; simp only [kget]; rw [if_neg (by omega)]
      split
      · exact kget_below d h2 (by omega)
      · rfl
    · split
      · rfl
      · simp only [kget, ih h2]

/-- A written key reads as what was written. -/
theorem kget_kset_self {α : Type} [DecidableEq α] (d : α) {m : KMap α} (hm : kwf d m = true) (k : Nat) (v : α) : kget d (kset d m k v) k = v := by
  simp only [kset]
  split
  · next h => subst h; simp only [kwf, Bool.and_eq_true] at hm; exact kget_kdel_self _ hm.1 k
  · simp

/-- A write leaves every other key alone. -/
theorem kget_kset_ne {α : Type} [DecidableEq α] (d : α) {m : KMap α} (hm : kwf d m = true) {k j : Nat} (v : α) (h : j ≠ k) :
    kget d (kset d m k v) j = kget d m j := by
  simp only [kset]
  split
  · simp only [kwf, Bool.and_eq_true] at hm; exact kget_kdel_ne _ hm.1 h
  · exact kget_kput_ne d m v h

-- The canonical form
theorem krising_kput {α : Type} {o : Option Nat} (m : KMap α) (k : Nat) (v : α) (hm : krising o m = true) (hk : ∀ lo, o = some lo → lo < k) :
    krising o (kput m k v) = true := by
  induction m generalizing o with
  | nil => cases o <;> simp [kput, krising]; exact hk _ rfl
  | cons e m ih =>
    have h2 : krising (some e.1) m = true := by
      cases o <;> simp only [krising, Bool.and_eq_true] at hm
      · exact hm
      · exact hm.2
    simp only [kput]
    split
    · next he => subst he; cases o <;> simp only [krising] at hm ⊢ <;> exact hm
    · split
      · next hlt =>
        cases o <;> simp only [krising, Bool.and_eq_true, decide_eq_true_eq]
        · exact ⟨hlt, h2⟩
        · exact ⟨hk _ rfl, hlt, h2⟩
      · have := ih h2 (fun lo hlo => by cases hlo; omega)
        cases o <;> simp only [krising, Bool.and_eq_true] at hm ⊢
        · exact this
        · exact ⟨hm.1, this⟩

theorem krising_kdel {α : Type} {o : Option Nat} (m : KMap α) (k : Nat) (hm : krising o m = true) : krising o (kdel m k) = true := by
  induction m generalizing o with
  | nil => cases o <;> rfl
  | cons e m ih =>
    simp only [kdel]
    split
    · cases o <;> simp only [krising, Bool.and_eq_true, decide_eq_true_eq] at hm
      · exact krising_none_of_some _ hm
      · exact krising_weaken _ (Nat.le_of_lt hm.1) hm.2
    · split
      · exact hm
      · cases o <;> simp only [krising, Bool.and_eq_true] at hm ⊢
        · exact ih hm
        · exact ⟨hm.1, ih hm.2⟩

theorem mem_kput {α : Type} {m : KMap α} {k : Nat} {v : α} {e : Nat × α} (h : e ∈ kput m k v) : e = (k, v) ∨ e ∈ m := by
  induction m with
  | nil => simpa [kput] using h
  | cons x m ih =>
    simp only [kput] at h
    split at h
    · rcases List.mem_cons.mp h with h | h
      · exact .inl h
      · exact .inr (List.mem_cons_of_mem _ h)
    · split at h
      · rcases List.mem_cons.mp h with h | h
        · exact .inl h
        · exact .inr h
      · rcases List.mem_cons.mp h with h | h
        · exact .inr (h ▸ List.mem_cons_self ..)
        · rcases ih h with h | h
          · exact .inl h
          · exact .inr (List.mem_cons_of_mem _ h)

theorem mem_kdel {α : Type} {m : KMap α} {k : Nat} {e : Nat × α} (h : e ∈ kdel m k) : e ∈ m := by
  induction m with
  | nil => simp [kdel] at h
  | cons x m ih =>
    simp only [kdel] at h
    split at h
    · exact List.mem_cons_of_mem _ h
    · split at h
      · exact h
      · rcases List.mem_cons.mp h with h | h
        · exact h ▸ List.mem_cons_self ..
        · exact List.mem_cons_of_mem _ (ih h)

@[simp] theorem kwf_nil {α : Type} [DecidableEq α] (d : α) : kwf d ([] : KMap α) = true := rfl

/-- A write keeps the canonical form. -/
@[simp] theorem kwf_kset {α : Type} [DecidableEq α] (d : α) (m : KMap α) (k : Nat) (v : α) (hm : kwf d m = true) :
    kwf d (kset d m k v) = true := by
  simp only [kwf, Bool.and_eq_true, List.all_eq_true, decide_eq_true_eq] at hm ⊢
  simp only [kset]
  split
  · exact ⟨krising_kdel _ _ hm.1, fun e he => hm.2 e (mem_kdel he)⟩
  · next hv =>
    refine ⟨krising_kput _ _ _ hm.1 (by simp), fun e he => ?_⟩
    rcases mem_kput he with rfl | he
    · exact hv
    · exact hm.2 e he

@[simp] theorem kwf_kmod {α : Type} [DecidableEq α] (d : α) (m : KMap α) (k : Nat) (f : α → α) (hm : kwf d m = true) :
    kwf d (kmod d m k f) = true := kwf_kset _ _ _ _ hm

@[simp] theorem kwf_ksetAll {α : Type} [DecidableEq α] (d : α) (m : KMap α) (es : List (Nat × α)) (hm : kwf d m = true) :
    kwf d (ksetAll d m es) = true := by
  simp only [ksetAll]
  induction es generalizing m with
  | nil => exact hm
  | cons e es ih => exact ih _ (kwf_kset _ _ _ _ hm)

theorem krising_filter {α : Type} {o : Option Nat} (p : Nat × α → Bool) (m : KMap α) (hm : krising o m = true) :
    krising o (m.filter p) = true := by
  induction m generalizing o with
  | nil => cases o <;> rfl
  | cons e m ih =>
    simp only [List.filter]
    split
    · cases o <;> simp only [krising, Bool.and_eq_true] at hm ⊢
      · exact ih hm
      · exact ⟨hm.1, ih hm.2⟩
    · cases o <;> simp only [krising, Bool.and_eq_true, decide_eq_true_eq] at hm
      · exact ih (krising_none_of_some _ hm)
      · exact ih (krising_weaken _ (Nat.le_of_lt hm.1) hm.2)

/-- Dropping entries keeps the canonical form. -/
@[simp] theorem kwf_kfilter {α : Type} [DecidableEq α] (d : α) (p : Nat → α → Bool) (m : KMap α) (hm : kwf d m = true) :
    kwf d (kfilter p m) = true := by
  simp only [kwf, Bool.and_eq_true, List.all_eq_true] at hm ⊢
  exact ⟨krising_filter _ _ hm.1, fun e he => hm.2 e (List.mem_of_mem_filter he)⟩

theorem krising_kmerge {α : Type} {o : Option Nat} (n : Nat) (a b : KMap α) (hn : a.length + b.length < n)
    (ha : krising o a = true) (hb : krising o b = true) : krising o (kmerge n a b) = true := by
  induction n generalizing a b o with
  | zero => omega
  | succ n ih =>
    match a, b with
    | [], b => simpa [kmerge] using hb
    | e :: a, [] => simpa [kmerge] using ha
    | (k, v) :: a, (k', v') :: b =>
      have ha2 : krising (some k) a = true := by
        cases o <;> simp only [krising, Bool.and_eq_true] at ha
        · exact ha
        · exact ha.2
      have hb2 : krising (some k') b = true := by
        cases o <;> simp only [krising, Bool.and_eq_true] at hb
        · exact hb
        · exact hb.2
      simp only [List.length_cons] at hn
      simp only [kmerge]
      split
      · next h =>
        have := ih (o := some k) a ((k', v') :: b) (by simp; omega) ha2 (by simp only [krising, Bool.and_eq_true, decide_eq_true_eq]; exact ⟨h, hb2⟩)
        cases o <;> simp only [krising, Bool.and_eq_true] at ha ⊢
        · exact this
        · exact ⟨ha.1, this⟩
      · split
        · next h =>
          have := ih (o := some k') ((k, v) :: a) b (by simp; omega) (by simp only [krising, Bool.and_eq_true, decide_eq_true_eq]; exact ⟨h, ha2⟩) hb2
          cases o <;> simp only [krising, Bool.and_eq_true] at hb ⊢
          · exact this
          · exact ⟨hb.1, this⟩
        · have hk : k = k' := by omega
          subst hk
          have := ih (o := some k) a b (by omega) ha2 hb2
          cases o <;> simp only [krising, Bool.and_eq_true] at ha ⊢
          · exact this
          · exact ⟨ha.1, this⟩

theorem krising_zipIdx {α : Type} {o : Option Nat} (d : List α) (a : Nat) (ho : ∀ lo, o = some lo → lo < a) :
    krising o ((d.zipIdx a).map (fun e => (e.2, e.1))) = true := by
  induction d generalizing a o with
  | nil => cases o <;> rfl
  | cons x d ih =>
    have := ih (o := some a) (a + 1) (fun lo h => by cases h; omega)
    cases o <;> simp only [List.zipIdx_cons, List.map_cons, krising, Bool.and_eq_true, decide_eq_true_eq]
    · exact this
    · exact ⟨ho _ rfl, this⟩

/-- A write of bytes keeps the canonical form. -/
@[simp] theorem kwf_kbytes {α : Type} [DecidableEq α] (z : α) (m : KMap α) (a : Nat) (d : List α) (hm : kwf z m = true) :
    kwf z (kbytes z m a d) = true := by
  simp only [kwf, Bool.and_eq_true, List.all_eq_true] at hm ⊢
  simp only [kbytes]
  refine ⟨krising_filter _ _ (krising_kmerge _ _ _ (by omega) (krising_zipIdx _ _ (by simp)) hm.1), fun e he => ?_⟩
  simpa using (List.mem_filter.mp he).2

-- Ranges: reading after dropping, merging and writing
/-- The first entry of a map with rising keys and the rest of it. -/
theorem kget_cons {α : Type} (d : α) {k v} {m : KMap α} (hm : krising (some k) m = true) (j : Nat) :
    kget d ((k, v) :: m) j = if j = k then v else kget d m j := by
  simp only [kget]
  split
  · next h => simp [h]
  · next h =>
    rw [if_neg (Ne.symm h)]
    split
    · next h2 => exact (kget_below d hm (by omega)).symm
    · rfl

theorem krising_tail {α : Type} {o : Option Nat} {k v} {m : KMap α} (h : krising o ((k, v) :: m) = true) : krising (some k) m = true := by
  cases o <;> simp only [krising, Bool.and_eq_true] at h
  · exact h
  · exact h.2

/-- Dropping the entries at the value that an unlisted key reads as changes no reading. -/
theorem kget_filter_ne {α : Type} [DecidableEq α] (z : α) {o : Option Nat} {m : KMap α} (hm : krising o m = true) (j : Nat) :
    kget z (m.filter (fun e => decide (e.2 ≠ z))) j = kget z m j := by
  induction m generalizing o with
  | nil => rfl
  | cons e m ih =>
    obtain ⟨k, v⟩ := e
    have h := krising_tail hm
    rw [kget_cons z h]
    simp only [List.filter]
    split
    · rw [kget_cons z (krising_filter _ _ h), ih h]
    · next hv =>
      have : v = z := by simpa using hv
      rw [ih h, this]
      split
      · next hj => exact kget_below z h (by omega)
      · rfl

/-- Dropping entries by key. -/
theorem kget_kfilter {α : Type} (d : α) (p : Nat → Bool) {o : Option Nat} {m : KMap α} (hm : krising o m = true) (j : Nat) :
    kget d (kfilter (fun k _ => p k) m) j = if p j then kget d m j else d := by
  induction m generalizing o with
  | nil => simp [kfilter, kget]
  | cons e m ih =>
    obtain ⟨k, v⟩ := e
    have h := krising_tail hm
    have ih := ih h
    rw [kget_cons d h]
    simp only [kfilter, List.filter] at ih ⊢
    split
    · next hp =>
      rw [kget_cons d (krising_filter _ _ h), ih]
      by_cases hj : j = k
      · subst hj; simp [hp]
      · simp [hj]
    · next hp =>
      rw [ih]
      by_cases hj : j = k
      · subst hj; simp [hp]
      · simp [hj]

/-- Merging: the first map wins. -/
theorem kget_kmerge {α : Type} (z : α) {o : Option Nat} (n : Nat) (a b : KMap α) (hn : a.length + b.length < n)
    (ha : krising o a = true) (hb : krising o b = true) (j : Nat) :
    kget z (kmerge n a b) j = (kfind a j).getD (kget z b j) := by
  have hfind : ∀ {k v} {m : KMap α}, krising (some k) m = true → kfind ((k, v) :: m) j = if j = k then some v else kfind m j := by
    intro k v m h
    simp only [kfind]
    split
    · next e => simp [e]
    · next e =>
      rw [if_neg (Ne.symm e)]
      split
      · next e2 =>
        cases m with
        | nil => rfl
        | cons x m =>
          simp only [krising, Bool.and_eq_true, decide_eq_true_eq] at h
          obtain ⟨x1, x2⟩ := x
          simp only [kfind] at *
          rw [if_neg (by omega), if_pos (by omega)]
      · rfl
  induction n generalizing a b o with
  | zero => omega
  | succ n ih =>
    match a, b with
    | [], b => cases b <;> simp [kmerge]
    | e :: a, [] =>
      obtain ⟨k, v⟩ := e
      simp only [kmerge, kget_nil]
      have : ∀ {o : Option Nat} (m : KMap α), krising o m = true → kget z m j = (kfind m j).getD z := by
        intro o m
        induction m generalizing o with
        | nil => intro; rfl
        | cons y m ihm =>
          intro h
          obtain ⟨k2, v2⟩ := y
          rw [kget_cons z (krising_tail h), hfind (krising_tail h), ihm (krising_tail h)]
          split <;> rfl
      exact this _ ha
    | (k, v) :: a, (k', v') :: b =>
      have ha2 := krising_tail ha
      have hb2 := krising_tail hb
      simp only [List.length_cons] at hn
      simp only [kmerge]
      split
      · next h =>
        have hb3 : krising (some k) ((k', v') :: b) = true := by
          simp only [krising, Bool.and_eq_true, decide_eq_true_eq]; exact ⟨h, hb2⟩
        rw [kget_cons z (krising_kmerge _ _ _ (by simp; omega) ha2 hb3), ih (o := some k) a _ (by simp; omega) ha2 hb3, hfind ha2]
        split <;> rfl
      · split
        · next h =>
          have ha3 : krising (some k') ((k, v) :: a) = true := by
            simp only [krising, Bool.and_eq_true, decide_eq_true_eq]; exact ⟨h, ha2⟩
          rw [kget_cons z (krising_kmerge _ _ _ (by simp; omega) ha3 hb2), ih (o := some k') _ b (by simp; omega) ha3 hb2,
            kget_cons z hb2]
          by_cases hj : j = k'
          · subst hj
            have hk : kfind a j = none := by
              cases a with
              | nil => rfl
              | cons x a =>
                simp only [krising, Bool.and_eq_true, decide_eq_true_eq] at ha2
                obtain ⟨x1, x2⟩ := x
                simp only [kfind] at *
                rw [if_neg (by omega), if_pos (by omega)]
            rw [hfind ha2, if_neg (Nat.ne_of_lt h), hk]
            simp
          · simp [hj]
        · have hk : k = k' := by omega
          subst hk
          rw [kget_cons z (krising_kmerge _ _ _ (by omega) ha2 hb2), ih (o := some k) a b (by omega) ha2 hb2, hfind ha2,
            kget_cons z hb2]
          by_cases hj : j = k <;> simp [hj]

/-- The entries of consecutive keys. -/
theorem kfind_zipIdx {α : Type} (d : List α) (a j : Nat) :
    kfind ((d.zipIdx a).map (fun e => (e.2, e.1))) j = if a ≤ j then d[j - a]? else none := by
  induction d generalizing a with
  | nil => simp
  | cons x d ih =>
    simp only [List.zipIdx_cons, List.map_cons, kfind, ih]
    split
    · next h => subst h; simp
    · split
      · rw [if_neg (by omega)]
      · rw [if_pos (by omega), if_pos (by omega), show j - a = (j - (a + 1)) + 1 by omega, List.getElem?_cons_succ]

/-- Reading after a write of bytes: inside it the byte written, outside it what stood there. -/
theorem kget_kbytes {α : Type} [DecidableEq α] (z : α) {m : KMap α} (hm : kwf z m = true) (a : Nat) (d : List α) (j : Nat) :
    kget z (kbytes z m a d) j = (if a ≤ j then d[j - a]? else none).getD (kget z m j) := by
  simp only [kwf, Bool.and_eq_true] at hm
  have h := krising_zipIdx (o := none) d a (by simp)
  simp only [kbytes]
  rw [kget_filter_ne z (krising_kmerge _ _ _ (by omega) h hm.1), kget_kmerge z _ _ _ (by omega) h hm.1, kfind_zipIdx]

theorem kreadFrom_eq {α : Type} (d : α) {o : Option Nat} (n a : Nat) (m : KMap α) (hm : krising o m = true)
    (ha : ∀ e ∈ m, a ≤ e.1) : kreadFrom d n a m = (List.range' a n).map (kget d m) := by
  induction n generalizing a m o with
  | zero => rfl
  | succ n ih =>
    match m with
    | [] =>
      simp only [kreadFrom, List.range'_succ, List.map_cons, kget_nil]
      rw [ih (a + 1) [] hm (by simp)]
    | (k, v) :: m =>
      have h := krising_tail hm
      have hk := ha (k, v) (by simp)
      simp only [kreadFrom, List.range'_succ, List.map_cons]
      rw [kget_cons d h]
      split
      · next e =>
        subst e
        rw [if_pos rfl, ih (k + 1) m h (fun e he => krising_mem h e he)]
        congr 1
        refine List.map_congr_left fun j hj => ?_
        rw [kget_cons d h, if_neg]
        have := List.mem_range'_1.mp hj
        omega
      · next e =>
        have hlt : a < k := by simp only at hk; omega
        rw [if_neg (by omega), kget_below d h (by omega), ih (a + 1) _ hm]
        intro x hx
        rcases List.mem_cons.mp hx with rfl | hx
        · exact hlt
        · have := krising_mem h x hx; omega

/-- Reading a range is reading each key. -/
theorem kread_eq {α : Type} (d : α) {o : Option Nat} {m : KMap α} (hm : krising o m = true) (a n : Nat) :
    kread d m a n = (List.range' a n).map (kget d m) := by
  simp only [kread]
  have key : ∀ {o : Option Nat} (m : KMap α), krising o m = true →
      krising none (m.dropWhile (fun e => decide (e.1 < a))) = true ∧ (∀ e ∈ m.dropWhile (fun e => decide (e.1 < a)), a ≤ e.1) ∧
      ∀ j, a ≤ j → kget d (m.dropWhile (fun e => decide (e.1 < a))) j = kget d m j := by
    intro o m
    induction m generalizing o with
    | nil => intro _; simp [krising]
    | cons e m ih =>
      intro h
      obtain ⟨k, v⟩ := e
      have h2 := krising_tail h
      by_cases hk : k < a
      · simp only [List.dropWhile, hk, decide_true]
        refine ⟨(ih h2).1, (ih h2).2.1, fun j hj => ?_⟩
        rw [(ih h2).2.2 j hj, kget_cons d h2, if_neg (by omega)]
      · simp only [List.dropWhile, hk, decide_false]
        refine ⟨h2, fun e he => ?_, fun _ _ => by simp⟩
        rcases List.mem_cons.mp he with rfl | he
        · exact Nat.le_of_not_lt hk
        · have := krising_mem h2 e he; omega
  obtain ⟨h1, h2, h3⟩ := key m hm
  rw [kreadFrom_eq d n a _ h1 h2]
  exact List.map_congr_left fun j hj => h3 j (List.mem_range'_1.mp hj).1

end Sys2Proof
end

