-- ==== Sys2Proof/Laws/Ops.lean ====
section
/-!
SUPPORT. What each shared operation can do to the state, said once: free values, error logs, crossings, messages, stores
into a partition, hold latches and decision bytes.
-/
namespace Sys2Proof.Machine

-- Free values
theorem draw_state (s : State) : (draw s).2 = { s with fresh := s.fresh + 1 } := rfl
@[simp] theorem draw_value (s : State) : (draw s).1 = Config.freeValue s.fresh := rfl

/-- Drawing moves the counter of free values and nothing else. -/
theorem drawN_state (n : Nat) (s : State) : (drawN n s).2 = { s with fresh := s.fresh + n } := by
  induction n generalizing s with
  | zero => rfl
  | succ n ih =>
    simp only [drawN, draw, ih]
    rw [Nat.add_assoc, Nat.add_comm 1 n]

/-- The values drawn are those of the next places of the counter. -/
theorem drawN_values (n : Nat) (s : State) : (drawN n s).1 = (List.range' s.fresh n).map Config.freeValue := by
  induction n generalizing s with
  | zero => rfl
  | succ n ih => simp only [drawN, draw, ih, List.range'_succ, List.map_cons]

@[simp] theorem drawN_length (n : Nat) (s : State) : (drawN n s).1.length = n := by simp [drawN_values]

-- Error logs and reasons
/-- R624: a log that holds an error keeps it. -/
theorem recordErr_keeps {old : ErrLog} (new : ErrLog) (h : old.code ≠ 0) : recordErr old new = old := if_neg h
theorem recordErr_takes {old : ErrLog} (new : ErrLog) (h : old.code = 0) : recordErr old new = new := if_pos h

/-- A block's log reads as what was put there. -/
theorem getErr_setErr (b : Blk) (e : ErrLog) (s : State) (h : kwf {} s.pq = true) : getErr b (setErr b e s) = e := by
  cases b <;> first
    | rfl
    | simp only [getErr, setErr, State.modPq, State.pqAt, State.setPq, kget_kset_self _ h]

-- Putting a log leaves everything alone that is no block with a log
@[simp] theorem setErr_pending (b : Blk) (e : ErrLog) (s : State) : (setErr b e s).pending = s.pending := by cases b <;> rfl
@[simp] theorem setErr_now (b : Blk) (e : ErrLog) (s : State) : (setErr b e s).now = s.now := by cases b <;> rfl
@[simp] theorem setErr_fresh (b : Blk) (e : ErrLog) (s : State) : (setErr b e s).fresh = s.fresh := by cases b <;> rfl
@[simp] theorem setErr_rsp (b : Blk) (e : ErrLog) (s : State) : (setErr b e s).rsp = s.rsp := by cases b <;> rfl
@[simp] theorem setErr_ls (b : Blk) (e : ErrLog) (s : State) : (setErr b e s).ls = s.ls := by cases b <;> rfl
@[simp] theorem setErr_sync (b : Blk) (e : ErrLog) (s : State) : (setErr b e s).sync = s.sync := by cases b <;> rfl
@[simp] theorem setErr_syncWr (b : Blk) (e : ErrLog) (s : State) : (setErr b e s).syncWr = s.syncWr := by cases b <;> rfl
@[simp] theorem setErr_hbm (b : Blk) (e : ErrLog) (s : State) : (setErr b e s).hbm = s.hbm := by cases b <;> rfl
@[simp] theorem setErr_host (b : Blk) (e : ErrLog) (s : State) : (setErr b e s).host = s.host := by cases b <;> rfl
@[simp] theorem setErr_part (b : Blk) (e : ErrLog) (s : State) : (setErr b e s).part = s.part := by cases b <;> rfl
@[simp] theorem setErr_xing (b : Blk) (e : ErrLog) (s : State) : (setErr b e s).xing = s.xing := by cases b <;> rfl
@[simp] theorem setErr_latch (b : Blk) (e : ErrLog) (s : State) : (setErr b e s).latch = s.latch := by cases b <;> rfl
@[simp] theorem setErr_inbox (b : Blk) (e : ErrLog) (s : State) : (setErr b e s).inbox = s.inbox := by cases b <;> rfl
@[simp] theorem setErr_swapBuf (b : Blk) (e : ErrLog) (s : State) : (setErr b e s).swapBuf = s.swapBuf := by cases b <;> rfl
@[simp] theorem setErr_placed (b : Blk) (e : ErrLog) (s : State) : (setErr b e s).placed = s.placed := by cases b <;> rfl
@[simp] theorem setErr_rdLatch (b : Blk) (e : ErrLog) (s : State) : (setErr b e s).rdLatch = s.rdLatch := by cases b <;> rfl
@[simp] theorem setErr_wrLatch (b : Blk) (e : ErrLog) (s : State) : (setErr b e s).wrLatch = s.wrLatch := by cases b <;> rfl
@[simp] theorem setErr_svc (b : Blk) (e : ErrLog) (s : State) : (setErr b e s).svc = s.svc := by cases b <;> rfl

-- So does logging an error
/-- A configuration error raises a line of the Vellum block and changes nothing else. -/
theorem noteCfg_state (b : Blk) (c : W16) (s : State) : noteCfg b c s = { s with vel := (noteCfg b c s).vel } := by
  unfold noteCfg; split <;> rfl
@[simp] theorem logErr_pending (b : Blk) (c : W16) (ag : Agent) (a : BitVec 48) (s : State) : (logErr b c ag a s).pending = s.pending := by
  unfold logErr; rw [setErr_pending, noteCfg_state]
@[simp] theorem logErr_now (b : Blk) (c : W16) (ag : Agent) (a : BitVec 48) (s : State) : (logErr b c ag a s).now = s.now := by
  unfold logErr; rw [setErr_now, noteCfg_state]
@[simp] theorem logErr_fresh (b : Blk) (c : W16) (ag : Agent) (a : BitVec 48) (s : State) : (logErr b c ag a s).fresh = s.fresh := by
  unfold logErr; rw [setErr_fresh, noteCfg_state]
@[simp] theorem logErr_rsp (b : Blk) (c : W16) (ag : Agent) (a : BitVec 48) (s : State) : (logErr b c ag a s).rsp = s.rsp := by
  unfold logErr; rw [setErr_rsp, noteCfg_state]
@[simp] theorem logErr_ls (b : Blk) (c : W16) (ag : Agent) (a : BitVec 48) (s : State) : (logErr b c ag a s).ls = s.ls := by
  unfold logErr; rw [setErr_ls, noteCfg_state]
@[simp] theorem logErr_sync (b : Blk) (c : W16) (ag : Agent) (a : BitVec 48) (s : State) : (logErr b c ag a s).sync = s.sync := by
  unfold logErr; rw [setErr_sync, noteCfg_state]
@[simp] theorem logErr_syncWr (b : Blk) (c : W16) (ag : Agent) (a : BitVec 48) (s : State) : (logErr b c ag a s).syncWr = s.syncWr := by
  unfold logErr; rw [setErr_syncWr, noteCfg_state]
@[simp] theorem logErr_hbm (b : Blk) (c : W16) (ag : Agent) (a : BitVec 48) (s : State) : (logErr b c ag a s).hbm = s.hbm := by
  unfold logErr; rw [setErr_hbm, noteCfg_state]
@[simp] theorem logErr_host (b : Blk) (c : W16) (ag : Agent) (a : BitVec 48) (s : State) : (logErr b c ag a s).host = s.host := by
  unfold logErr; rw [setErr_host, noteCfg_state]
@[simp] theorem logErr_part (b : Blk) (c : W16) (ag : Agent) (a : BitVec 48) (s : State) : (logErr b c ag a s).part = s.part := by
  unfold logErr; rw [setErr_part, noteCfg_state]
@[simp] theorem logErr_xing (b : Blk) (c : W16) (ag : Agent) (a : BitVec 48) (s : State) : (logErr b c ag a s).xing = s.xing := by
  unfold logErr; rw [setErr_xing, noteCfg_state]
@[simp] theorem logErr_latch (b : Blk) (c : W16) (ag : Agent) (a : BitVec 48) (s : State) : (logErr b c ag a s).latch = s.latch := by
  unfold logErr; rw [setErr_latch, noteCfg_state]
@[simp] theorem logErr_inbox (b : Blk) (c : W16) (ag : Agent) (a : BitVec 48) (s : State) : (logErr b c ag a s).inbox = s.inbox := by
  unfold logErr; rw [setErr_inbox, noteCfg_state]
@[simp] theorem logErr_swapBuf (b : Blk) (c : W16) (ag : Agent) (a : BitVec 48) (s : State) : (logErr b c ag a s).swapBuf = s.swapBuf := by
  unfold logErr; rw [setErr_swapBuf, noteCfg_state]
@[simp] theorem logErr_placed (b : Blk) (c : W16) (ag : Agent) (a : BitVec 48) (s : State) : (logErr b c ag a s).placed = s.placed := by
  unfold logErr; rw [setErr_placed, noteCfg_state]
@[simp] theorem logErr_rdLatch (b : Blk) (c : W16) (ag : Agent) (a : BitVec 48) (s : State) : (logErr b c ag a s).rdLatch = s.rdLatch := by
  unfold logErr; rw [setErr_rdLatch, noteCfg_state]
@[simp] theorem logErr_wrLatch (b : Blk) (c : W16) (ag : Agent) (a : BitVec 48) (s : State) : (logErr b c ag a s).wrLatch = s.wrLatch := by
  unfold logErr; rw [setErr_wrLatch, noteCfg_state]
@[simp] theorem logErr_svc (b : Blk) (c : W16) (ag : Agent) (a : BitVec 48) (s : State) : (logErr b c ag a s).svc = s.svc := by
  unfold logErr; rw [setErr_svc, noteCfg_state]

-- And so does latching a reason
@[simp] theorem setReason_pending (b : Blk) (r : W16) (s : State) : (setReason b r s).pending = s.pending := by cases b <;> rfl
@[simp] theorem setReason_now (b : Blk) (r : W16) (s : State) : (setReason b r s).now = s.now := by cases b <;> rfl
@[simp] theorem setReason_fresh (b : Blk) (r : W16) (s : State) : (setReason b r s).fresh = s.fresh := by cases b <;> rfl
@[simp] theorem setReason_rsp (b : Blk) (r : W16) (s : State) : (setReason b r s).rsp = s.rsp := by cases b <;> rfl
@[simp] theorem setReason_ls (b : Blk) (r : W16) (s : State) : (setReason b r s).ls = s.ls := by cases b <;> rfl
@[simp] theorem setReason_sync (b : Blk) (r : W16) (s : State) : (setReason b r s).sync = s.sync := by cases b <;> rfl
@[simp] theorem setReason_syncWr (b : Blk) (r : W16) (s : State) : (setReason b r s).syncWr = s.syncWr := by cases b <;> rfl
@[simp] theorem setReason_hbm (b : Blk) (r : W16) (s : State) : (setReason b r s).hbm = s.hbm := by cases b <;> rfl
@[simp] theorem setReason_host (b : Blk) (r : W16) (s : State) : (setReason b r s).host = s.host := by cases b <;> rfl
@[simp] theorem setReason_part (b : Blk) (r : W16) (s : State) : (setReason b r s).part = s.part := by cases b <;> rfl
@[simp] theorem setReason_xing (b : Blk) (r : W16) (s : State) : (setReason b r s).xing = s.xing := by cases b <;> rfl
@[simp] theorem setReason_latch (b : Blk) (r : W16) (s : State) : (setReason b r s).latch = s.latch := by cases b <;> rfl
@[simp] theorem setReason_inbox (b : Blk) (r : W16) (s : State) : (setReason b r s).inbox = s.inbox := by cases b <;> rfl
@[simp] theorem setReason_swapBuf (b : Blk) (r : W16) (s : State) : (setReason b r s).swapBuf = s.swapBuf := by cases b <;> rfl
@[simp] theorem setReason_placed (b : Blk) (r : W16) (s : State) : (setReason b r s).placed = s.placed := by cases b <;> rfl
@[simp] theorem setReason_rdLatch (b : Blk) (r : W16) (s : State) : (setReason b r s).rdLatch = s.rdLatch := by cases b <;> rfl
@[simp] theorem setReason_wrLatch (b : Blk) (r : W16) (s : State) : (setReason b r s).wrLatch = s.wrLatch := by cases b <;> rfl
@[simp] theorem setReason_svc (b : Blk) (r : W16) (s : State) : (setReason b r s).svc = s.svc := by cases b <;> rfl
@[simp] theorem setReason_sched (b : Blk) (r : W16) (s : State) : (setReason b r s).sched = s.sched := by cases b <;> rfl
@[simp] theorem setReason_pq (b : Blk) (r : W16) (s : State) : (setReason b r s).pq = s.pq := by cases b <;> rfl

/-- R575: a check that fails latches its reason; one that passes goes on. -/
theorem checked_fails {b : Blk} {cs : List (Bool × W16)} {ok : State → State} {s : State} {r : W16} (h : firstReason cs = some r) :
    checked b cs ok s = setReason b r s := by simp only [checked, h]
theorem checked_passes {b : Blk} {cs : List (Bool × W16)} {ok : State → State} {s : State} (h : firstReason cs = none) :
    checked b cs ok s = ok s := by simp only [checked, h]
@[simp] theorem firstReason_none (cs : List (Bool × W16)) : firstReason cs = none ↔ ∀ c ∈ cs, c.1 = false := by
  induction cs with
  | nil => simp [firstReason]
  | cons c cs ih => obtain ⟨_ | _, r⟩ := c <;> simp [firstReason, ih]

-- Crossings
/-- An item enters the send latch, and nothing else changes. -/
theorem sendX_state (x : XItem) (s : State) : sendX x s = { s with latch := s.latch ++ [x] } := rfl

/-- A fire or a resume changes what waits in the send latch and nothing else. -/
theorem sendXt_state (f r : Byte) (ag : Agent) (s : State) : ∃ xs, sendXt f r ag s = { s with latch := xs } := by
  unfold sendXt
  split
  · exact ⟨s.latch, rfl⟩
  · dsimp only
    split <;> exact ⟨_, rfl⟩

-- The host
/-- A message waits in the pending array or goes out. -/
theorem sendMsi_state (v : Byte) (s : State) :
    sendMsi v s = { s with host := { s.host with pba := kset false s.host.pba v.toNat true } } ∨
    sendMsi v s = { s with host := { s.host with out := s.host.out ++ [.msi v] } } := by
  simp only [sendMsi]; split <;> simp

/-- An error response answers its agent and, for the host, counts. -/
theorem errRsp_state (ag : Agent) (s : State) :
    ∃ h, errRsp ag s = { s with rsp := { st := .err, agent := ag, data := 0 }, host := h } := by
  simp only [errRsp, hostErrCount, ans]
  split
  · exact ⟨_, rfl⟩
  · exact ⟨s.host, rfl⟩

-- Partitions and logical Quills
/-- Changing a partition changes the map of partitions only. -/
theorem modPart_state (s : State) (p : PartId) (f : Part → Part) : s.modPart p f = { s with part := (s.modPart p f).part } := by
  simp only [State.modPart]; split <;> rfl

theorem modLq_state (s : State) (i : LqId) (f : Lq → Lq) : s.modLq i f = { s with part := (s.modLq i f).part } := modPart_state ..

/-- No logical Quill, no change. -/
theorem modPart_none {s : State} {p : PartId} (f : Part → Part) (h : s.partAt p = none) : s.modPart p f = s := by
  simp only [State.modPart, h]

-- Pins
/-- One hold latch captures. -/
theorem captureOne_state (s : State) (p : Nat) : ∃ f g, captureOne s p = { s with fresh := f, glb := { s.glb with hold := g } } := by
  unfold captureOne
  split
  · exact ⟨s.fresh, s.glb.hold, rfl⟩
  · cases pinDrive s p with
    | some x => exact ⟨s.fresh, _, rfl⟩
    | none => exact ⟨s.fresh + 1, _, rfl⟩

/-- Capturing changes the hold latches and the counter of free values, and nothing else. -/
theorem capture_state (ps : List Nat) (s : State) : ∃ f g, capture ps s = { s with fresh := f, glb := { s.glb with hold := g } } := by
  simp only [capture]
  induction ps generalizing s with
  | nil => exact ⟨s.fresh, s.glb.hold, rfl⟩
  | cons p ps ih =>
    obtain ⟨f, g, h⟩ := captureOne_state s p
    obtain ⟨f', g', h'⟩ := ih (captureOne s p)
    exact ⟨f', g', by rw [List.foldl_cons, h', h]⟩

/-- R497: presenting changes what the pins show and nothing else. -/
theorem present_state (ms : List Nat) (s : State) : ∃ sh, present ms s = { s with plant := { s.plant with shown := sh } } := by
  simp only [present]
  induction ms generalizing s with
  | nil => exact ⟨s.plant.shown, rfl⟩
  | cons m ms ih =>
    obtain ⟨sh, h⟩ := ih (presentOne s m)
    exact ⟨sh, by rw [List.foldl_cons, h]; rfl⟩

end Sys2Proof.Machine
end

