-- ==== Sys2Proof/Laws/Memory.lean ====
section
/-!
SUPPORT. Every operation on a memory keeps its canonical form: the HBM, a partition's stores, the control SRAM, the Flash
parts.
-/
namespace Sys2Proof.Machine

-- The HBM
/-- A write inside one line. -/
@[simp] theorem hbmLineWrite_wf {k a : Nat} {d : List Byte} {h : Hbm} (hm : Memory.wf h.mem = true) :
    Memory.wf (hbmLineWrite k a d h).mem = true := by
  simp only [hbmLineWrite, Memory.wf] at *
  split <;> exact kwf_kbytes _ _ _ _ (by first | exact hm | exact kwf_kbytes _ _ _ _ hm)

/-- Counting corrections and logging an error leave the HBM alone. -/
@[simp] theorem eccCount_hbm (es : List (Nat × Ecc)) (s : State) : (eccCount es s).hbm = s.hbm := by
  simp only [eccCount]
  induction es generalizing s with
  | nil => rfl
  | cons e es ih => simp only [List.foldl_cons]; rw [ih]; split <;> rfl

/-- R270: counting corrections touches two counters of the INK block. -/
theorem eccCount_state (es : List (Nat × Ecc)) (s : State) :
    ∃ c u, eccCount es s = { s with ink := { s.ink with corr := c, uncorr := u } } := by
  simp only [eccCount]
  induction es generalizing s with
  | nil => exact ⟨s.ink.corr, s.ink.uncorr, rfl⟩
  | cons e es ih =>
    simp only [List.foldl_cons]
    split
    · obtain ⟨c, u, h⟩ := ih { s with ink := { s.ink with corr := satInc s.ink.corr } }
      exact ⟨c, u, by rw [h]⟩
    · obtain ⟨c, u, h⟩ := ih { s with ink := { s.ink with uncorr := satInc s.ink.uncorr } }
      exact ⟨c, u, by rw [h]⟩

/-- The byte at `b` as a reader under key generation `k` sees it. -/
abbrev hbmSee (k b : Nat) (h : Hbm) : Byte := cipherSee k b h (kget 0 h.mem b)

/-- A range is read byte by byte. -/
theorem hbmBytes_eq {h : Hbm} (hm : Memory.wf h.mem = true) (k a n : Nat) :
    hbmBytes k a n h = (List.range' a n).map (fun b => hbmSee k b h) := by
  simp only [Memory.wf, kwf, Bool.and_eq_true] at hm
  simp only [hbmBytes, kread_eq 0 hm.1]
  induction n generalizing a with
  | zero => rfl
  | succ n ih => simp only [List.range'_succ, List.map_cons, List.zipIdx_cons, ih]

/-- A line reads the same in two memories that hold the same bytes and the same key there. -/
theorem hbmSee_congr {h h' : Hbm} (hm : Memory.wf h.mem = true) (hm' : Memory.wf h'.mem = true) {b : Nat}
    (hmem : ∀ j, j / 64 = b / 64 → kget 0 h'.mem j = kget 0 h.mem j) (hkey : kget 0 h'.key (b / 64) = kget 0 h.key (b / 64))
    (hpair : h'.keyPair = h.keyPair) (k : Nat) : hbmSee k b h' = hbmSee k b h := by
  have hr : kread 0 h'.mem (64 * (b / 64)) 64 = kread 0 h.mem (64 * (b / 64)) 64 := by
    simp only [Memory.wf, kwf, Bool.and_eq_true] at hm hm'
    rw [kread_eq 0 hm.1, kread_eq 0 hm'.1]
    refine List.map_congr_left fun j hj => hmem j ?_
    simp only [List.mem_range'_1] at hj
    omega
  simp only [hbmSee, cipherSee, Hbm.lineAs, Hbm.stored, hkey, hr, hpair, hmem b rfl]

/-- R246: what a write inside one line leaves. The writer sees the bytes written there, and every other byte as before; a
reader of another key sees the other lines as before. -/
theorem hbmLineWrite_sees {h : Hbm} (hm : Memory.wf h.mem = true) (hk : kwf 0 h.key = true) {k a : Nat} {d : List Byte}
    (hd : a % 64 + d.length ≤ 64) (k' b : Nat) (hb : k' = k ∨ b / 64 ≠ a / 64) :
    hbmSee k' b (hbmLineWrite k a d h) = (if a ≤ b then d[b - a]? else none).getD (hbmSee k' b h) := by
  have hold : ∀ j, j < 64 → (hbmBytes k (64 * (a / 64)) 64 h)[j]? = some (hbmSee k (64 * (a / 64) + j) h) := by
    intro j hj
    rw [hbmBytes_eq hm, List.getElem?_map, List.getElem?_range' hj]
    simp
  by_cases hl : b / 64 = a / 64
  · have hb : k' = k := hb.resolve_right (by omega)
    subst hb
    have hkey : kget 0 (hbmLineWrite k' a d h).key (b / 64) = k' := by
      simp only [hbmLineWrite, hl]; exact kget_kset_self 0 hk _ _
    have hsee : hbmSee k' b (hbmLineWrite k' a d h) = kget 0 (hbmLineWrite k' a d h).mem b := by
      simp only [hbmSee, cipherSee, hkey, true_or, if_true]
    rw [hsee]
    simp only [hbmLineWrite]
    split
    · next hw =>
      rw [kget_kbytes 0 hm, if_pos (by omega), List.getElem?_eq_getElem (by omega)]
      rfl
    · rw [kget_kbytes 0 (kwf_kbytes _ _ _ _ hm), kget_kbytes 0 hm, if_pos (show 64 * (a / 64) ≤ b by omega),
        hold _ (by omega), show 64 * (a / 64) + (b - 64 * (a / 64)) = b by omega]
      simp only [Option.getD_some]
  · have hno : ∀ j, j / 64 = b / 64 → (if a ≤ j then d[j - a]? else none) = none := by
      intro j hj
      split
      · exact List.getElem?_eq_none (by omega)
      · rfl
    rw [hno b rfl, Option.getD_none]
    refine hbmSee_congr hm (hbmLineWrite_wf hm) (fun j hj => ?_) ?_ rfl k'
    · simp only [hbmLineWrite]
      split
      · rw [kget_kbytes 0 hm, hno j hj]; rfl
      · have : (if 64 * (a / 64) ≤ j then (hbmBytes k (64 * (a / 64)) 64 h)[j - 64 * (a / 64)]? else none) = none := by
          split
          · exact List.getElem?_eq_none (by rw [hbmBytes_eq hm]; simp; omega)
          · rfl
        rw [kget_kbytes 0 (kwf_kbytes _ _ _ _ hm), hno j hj, kget_kbytes 0 hm, this]; rfl
    · simp only [hbmLineWrite]; exact kget_kset_ne 0 hk k hl

@[simp] theorem useStacks_hbm (ls : List Nat) (s : State) : (useStacks ls s).hbm = s.hbm := rfl
@[simp] theorem noteWrite_hbm (i a n : Nat) (s : State) : (noteWrite i a n s).hbm = s.hbm := rfl

/-- A write inside one line, checks and error log included. -/
@[simp] theorem hbmWriteLine_wf {i : Nat} {o : Owner} {ag : Agent} {a : Nat} {d : List Byte} {s : State}
    (hm : Memory.wf s.hbm.mem = true) : Memory.wf (hbmWriteLine i o ag a d s).2.hbm.mem = true := by
  simp only [hbmWriteLine]
  split
  · simpa using hm
  · split
    · simpa using hm
    · simp only [noteWrite_hbm]
      exact hbmLineWrite_wf (by simpa using hm)

/-- A write over several lines. -/
@[simp] theorem hbmWriteFrom_wf {i : Nat} {o : Owner} {ag : Agent} {n a : Nat} {d : List Byte} {s : State}
    (hm : Memory.wf s.hbm.mem = true) : Memory.wf (hbmWriteFrom i o ag n a d s).2.hbm.mem = true := by
  induction n generalizing a d s with
  | zero => exact hm
  | succ n ih =>
    have h := hbmWriteLine_wf (i := i) (o := o) (ag := ag) (a := a) (d := d.take (64 - a % 64)) hm
    simp only [hbmWriteFrom]
    split
    · exact hm
    · generalize hbmWriteLine i o ag a (d.take (64 - a % 64)) s = r at h
      obtain ⟨_ | c, t⟩ := r
      · exact ih h
      · exact h

@[simp] theorem hbmWrite_wf {i : Nat} {o : Owner} {ag : Agent} {a : Nat} {d : List Byte} {s : State}
    (hm : Memory.wf s.hbm.mem = true) : Memory.wf (hbmWrite i o ag a d s).2.hbm.mem = true := hbmWriteFrom_wf hm

-- A partition's stores
/-- Opening a line. -/
@[simp] theorem openLine_wf {t : Stores} {a : Nat} (hm : Memory.wf t.mem = true) : Memory.wf (t.openLine a).mem = true := by
  simp only [Stores.openLine]
  split
  · exact hm
  · exact kwf_kfilter 0 (fun k _ => k / 64 != a / 64) t.mem hm

/-- A write inside one word. -/
@[simp] theorem writeWord_wf {t : Stores} {a : Nat} {m : Byte} {d : W64} (hm : Memory.wf t.mem = true) :
    Memory.wf (t.writeWord a m d).mem = true := by
  have h : ∀ (l : List Nat) (k : KMap Byte), Memory.wf k = true →
      Memory.wf (l.foldl (fun k i => if bit m i then kset 0 k (a + i) (fld d (8 * i) 8) else k) k) = true := by
    intro l
    induction l with
    | nil => exact fun _ hk => hk
    | cons i l ih =>
      intro k hk
      refine ih _ ?_
      dsimp only
      split
      · exact kwf_kset _ _ _ _ hk
      · exact hk
  exact h _ _ (openLine_wf hm)

/-- A write of bytes. -/
@[simp] theorem stores_write_wf {t : Stores} {a : Nat} {d : List Byte} (hm : Memory.wf t.mem = true) :
    Memory.wf (t.write a d).mem = true := by
  simp only [Stores.write]
  induction wordsFrom a d generalizing t with
  | nil => exact hm
  | cons w l ih => exact ih (writeWord_wf hm)

/-- A write of whole lines. -/
@[simp] theorem stores_fill_wf {t : Stores} {a : Nat} {d : List Byte} (hm : Memory.wf t.mem = true) :
    Memory.wf (t.fill a d).mem = true := kwf_kbytes _ _ _ _ hm

@[simp] theorem stores_grant_wf {t : Stores} {o : Owner} : Memory.wf (t.grant o).mem = true := rfl

-- The control SRAM
@[simp] theorem putLine_wf {n : Nat} {d : BitVec 512} {s : State} (hm : Memory.wf s.sep.sram = true) :
    Memory.wf (putLine n d s).sep.sram = true := by
  simp only [putLine]
  split
  · exact kwf_kbytes _ _ _ _ hm
  · exact hm

@[simp] theorem putMerged_wf {n : Nat} {m : W64} {d : BitVec 512} {s : State} (hm : Memory.wf s.sep.sram = true) :
    Memory.wf (putMerged n m d s).sep.sram = true := putLine_wf hm

-- A Flash part, where an unlisted byte reads 0xFF
@[simp] theorem flash_finish_wf {f : Flash} (hm : kwf 0xFF f.mem = true) : kwf 0xFF f.finish.mem = true := by
  simp only [Flash.finish]
  split
  · exact hm
  · exact kwf_kbytes _ _ _ _ hm
  · rename_i n _
    exact kwf_kfilter 0xFF (fun a _ => a / 4096 != n) f.mem hm

@[simp] theorem flash_abandonErase_wf {f : Flash} {n : Nat} {l : List Nat} (hm : kwf 0xFF f.mem = true) :
    kwf 0xFF (f.abandonErase n l).mem = true := kwf_kbytes _ _ _ _ hm

@[simp] theorem flash_powerProgram_wf {f : Flash} {p k : Nat} {d : BitVec 2048} {l : List Nat} (hm : kwf 0xFF f.mem = true) :
    kwf 0xFF (f.powerProgram p d k l).mem = true := kwf_kbytes _ _ _ _ hm

-- Reset
theorem reset_wf : Memory.wf State.reset.hbm.mem = true ∧ Memory.wf State.reset.sep.sram = true ∧
    kwf 0xFF State.reset.sep.bfl.mem = true ∧
    kwf 0xFF State.reset.vel.ufl.mem = true ∧ kwf 0xFF State.reset.vel.cfl.mem = true := ⟨rfl, rfl, rfl, rfl, rfl⟩

end Sys2Proof.Machine
end

