-- ==== Sys2Proof/Laws/Keeps.lean ====
section
/-!
SUPPORT. What every operation of the block keeps: the queue, the canonical form of HBM's bytes and that of the sync objects.
A lemma `Keeps s₀ s → Keeps s₀ (f … s)` per operation is found backward: unfold `f`, then repeat the lemmas of the
operations it calls, `keeps_mk` (an update of any other field), `split`, and the lemmas below for folds and pairs.
-/
namespace Sys2Proof.Machine

/-- What holds of `s₀` of the queue and of the two canonical forms holds of `s`. -/
structure Keeps (s₀ s : State) : Prop where
  queue : s.pending = s₀.pending
  mem   : Memory.wf s₀.hbm.mem = true → Memory.wf s.hbm.mem = true
  sync  : SyncOk s₀.sync → SyncOk s.sync

theorem Keeps.refl (s : State) : Keeps s s := ⟨rfl, id, id⟩
theorem Keeps.trans {a b c : State} (h : Keeps a b) (k : Keeps b c) : Keeps a c :=
  ⟨k.queue.trans h.queue, fun x => k.mem (h.mem x), fun x => k.sync (h.sync x)⟩
theorem Keeps.inv {s₀ s : State} (h : Keeps s₀ s) (i : Inv s₀) : Inv s := ⟨h.mem i.1, h.sync i.2⟩

/-- An update that leaves the queue, HBM and the sync objects alone. -/
theorem keeps_mk {s₀ e : State} {now fresh rsp glb tk ls sched syncWr ink mad kl coll sep vel plant dbg pwr host pq part xing
    latch inbox swapBuf placed rdLatch wrLatch svc} :
    Keeps s₀ ⟨e.pending, now, fresh, rsp, glb, tk, ls, sched, e.sync, syncWr, ink, e.hbm, mad, kl, coll, sep, vel, plant, dbg,
      pwr, host, pq, part, xing, latch, inbox, swapBuf, placed, rdLatch, wrLatch, svc⟩ = Keeps s₀ e :=
  propext ⟨fun h => ⟨h.queue, h.mem, h.sync⟩, fun h => ⟨h.queue, h.mem, h.sync⟩⟩

/-- The same where HBM's registers change and its bytes do not. -/
theorem keeps_mk_hbm {s₀ e : State} {now fresh rsp glb tk ls sched syncWr ink key keys ecc trained selfRef refresh patrol patrolAt mad
    kl coll sep vel plant dbg pwr host pq part xing latch inbox swapBuf placed rdLatch wrLatch svc} :
    Keeps s₀ ⟨e.pending, now, fresh, rsp, glb, tk, ls, sched, e.sync, syncWr, ink,
      ⟨e.hbm.mem, key, keys, ecc, trained, selfRef, refresh, patrol, patrolAt⟩, mad, kl, coll, sep, vel, plant, dbg, pwr, host, pq,
      part, xing, latch, inbox, swapBuf, placed, rdLatch, wrLatch, svc⟩ = Keeps s₀ e :=
  propext ⟨fun h => ⟨h.queue, h.mem, h.sync⟩, fun h => ⟨h.queue, h.mem, h.sync⟩⟩

/-- A write of one sync object. -/
theorem keeps_setSync {s₀ e : State} (h : Keeps s₀ e) (n : Nat) (x : SyncObj) : Keeps s₀ (e.setSync n x) :=
  ⟨h.queue, h.mem, fun y => kwf_kset _ _ _ _ (h.sync y)⟩

/-- A write of one line of HBM. -/
theorem keeps_line {s₀ e : State} (h : Keeps s₀ e) (k a : Nat) (d : List Byte) :
    Keeps s₀ { e with hbm := hbmLineWrite k a d e.hbm } :=
  ⟨h.queue, fun x => hbmLineWrite_wf (h.mem x), h.sync⟩

-- Folds
theorem keeps_foldl {α : Type} {s₀ s : State} (h : Keeps s₀ s) (f : State → α → State) (l : List α)
    (hf : ∀ s a, Keeps s₀ s → Keeps s₀ (f s a)) : Keeps s₀ (l.foldl f s) := by
  induction l generalizing s with
  | nil => exact h
  | cons a l ih => exact ih (hf s a h)

theorem keeps_foldl_snd {α β : Type} {s₀ : State} {p : β × State} (h : Keeps s₀ p.2) (f : β × State → α → β × State)
    (l : List α) (hf : ∀ p a, Keeps s₀ p.2 → Keeps s₀ (f p a).2) : Keeps s₀ (l.foldl f p).2 := by
  induction l generalizing p with
  | nil => exact h
  | cons a l ih => exact ih (hf p a h)

theorem keeps_foldl_fst {α β : Type} {s₀ : State} {p : State × β} (h : Keeps s₀ p.1) (f : State × β → α → State × β)
    (l : List α) (hf : ∀ p a, Keeps s₀ p.1 → Keeps s₀ (f p a).1) : Keeps s₀ (l.foldl f p).1 := by
  induction l generalizing p with
  | nil => exact h
  | cons a l ih => exact ih (hf p a h)

theorem keeps_foldr {α : Type} {s₀ s : State} (h : Keeps s₀ s) (f : α → State → State) (l : List α)
    (hf : ∀ a s, Keeps s₀ s → Keeps s₀ (f a s)) : Keeps s₀ (l.foldr f s) := by
  induction l with
  | nil => exact h
  | cons a l ih => exact hf a _ ih

-- Choices and pairs
theorem keeps_ite {s₀ a b : State} {c : Prop} [Decidable c] (ha : Keeps s₀ a) (hb : Keeps s₀ b) :
    Keeps s₀ (if c then a else b) := by split <;> assumption
theorem keeps_ite_snd {α : Type} {s₀ : State} {a b : α × State} {c : Prop} [Decidable c] (ha : Keeps s₀ a.2)
    (hb : Keeps s₀ b.2) : Keeps s₀ (if c then a else b).2 := by split <;> assumption
theorem keeps_snd {α : Type} {s₀ t : State} {p : α × State} {a : α} (e : p = (a, t)) (h : Keeps s₀ p.2) : Keeps s₀ t := by
  subst e; exact h
theorem keeps_fst {α : Type} {s₀ t : State} {p : State × α} {a : α} (e : p = (t, a)) (h : Keeps s₀ p.1) : Keeps s₀ t := by
  subst e; exact h

-- The operations of Machine/Ops.lean
theorem State_setPq_keeps {s₀ s : State} (h₀ : Keeps s₀ s) (q : Nat) (p : Pq) : Keeps s₀ (State.setPq s q p) := by
  unfold State.setPq; simp only [keeps_mk]; exact h₀

theorem State_modPq_keeps {s₀ s : State} (h₀ : Keeps s₀ s) (q : Nat) (f : Pq → Pq) : Keeps s₀ (State.modPq s q f) := by
  unfold State.modPq; repeat' first | assumption | apply State_setPq_keeps

theorem State_setOwn_keeps {s₀ s : State} (h₀ : Keeps s₀ s) (o : Nat) (x : Own) : Keeps s₀ (State.setOwn s o x) := by
  unfold State.setOwn; simp only [keeps_mk]; exact h₀

theorem State_setQueue_keeps {s₀ s : State} (h₀ : Keeps s₀ s) (o : Nat) (k : Nat) (x : Queue) :
    Keeps s₀ (State.setQueue s o k x) := by
  unfold State.setQueue; simp only [keeps_mk]; exact h₀

theorem State_setPart_keeps {s₀ s : State} (h₀ : Keeps s₀ s) (x : Part) : Keeps s₀ (State.setPart s x) := by
  unfold State.setPart; simp only [keeps_mk]; exact h₀

theorem State_modPart_keeps {s₀ s : State} (h₀ : Keeps s₀ s) (p : PartId) (f : Part → Part) :
    Keeps s₀ (State.modPart s p f) := by
  unfold State.modPart
  repeat' first | with_reducible assumption | with_reducible apply State_setPart_keeps | simp only [keeps_mk] | split

theorem State_modLq_keeps {s₀ s : State} (h₀ : Keeps s₀ s) (i : LqId) (f : Lq → Lq) : Keeps s₀ (State.modLq s i f) := by
  unfold State.modLq; repeat' first | assumption | apply State_modPart_keeps

theorem State_setCore_keeps {s₀ s : State} (h₀ : Keeps s₀ s) (c : Nat) (x : Core) : Keeps s₀ (State.setCore s c x) := by
  unfold State.setCore; simp only [keeps_mk]; exact h₀

theorem State_setDcore_keeps {s₀ s : State} (h₀ : Keeps s₀ s) (c : Nat) (x : DbgCore) : Keeps s₀ (State.setDcore s c x) := by
  unfold State.setDcore; simp only [keeps_mk]; exact h₀

theorem State_setLink_keeps {s₀ s : State} (h₀ : Keeps s₀ s) (l : Nat) (x : Link) : Keeps s₀ (State.setLink s l x) := by
  unfold State.setLink; simp only [keeps_mk]; exact h₀

theorem State_setDom_keeps {s₀ s : State} (h₀ : Keeps s₀ s) (d : Nat) (x : Dom) : Keeps s₀ (State.setDom s d x) := by
  unfold State.setDom; simp only [keeps_mk]; exact h₀

theorem setErr_keeps {s₀ s : State} (h₀ : Keeps s₀ s) (b : Blk) (e : ErrLog) : Keeps s₀ (setErr b e s) := by
  unfold setErr
  repeat' first | with_reducible assumption | with_reducible apply State_modPq_keeps | simp only [keeps_mk] | split

theorem noteCfg_keeps {s₀ s : State} (h₀ : Keeps s₀ s) (b : Blk) (code : W16) : Keeps s₀ (noteCfg b code s) := by
  rw [noteCfg_state]; simp only [keeps_mk]; exact h₀

theorem logErr_keeps {s₀ s : State} (h₀ : Keeps s₀ s) (b : Blk) (code : W16) (ag : Agent) (addr : BitVec 48) :
    Keeps s₀ (logErr b code ag addr s) := by
  unfold logErr; repeat' first | assumption | apply setErr_keeps | apply noteCfg_keeps

theorem logErrC_keeps {s₀ s : State} (h₀ : Keeps s₀ s) (b : Blk) (code : W16) (ag : Agent) (addr : BitVec 48) (cls : BitVec 4) :
    Keeps s₀ (logErrC b code ag addr cls s) := by
  unfold logErrC; repeat' first | assumption | apply setErr_keeps

theorem setReason_keeps {s₀ s : State} (h₀ : Keeps s₀ s) (b : Blk) (r : W16) : Keeps s₀ (setReason b r s) := by
  unfold setReason; repeat' first | with_reducible assumption | simp only [keeps_mk] | split

theorem setCtxReason_keeps {s₀ s : State} (h₀ : Keeps s₀ s) (o : Nat) (r : W16) : Keeps s₀ (setCtxReason o r s) := by
  unfold setCtxReason; repeat' first | assumption | apply State_setOwn_keeps

theorem checked_keeps {s₀ s : State} (h₀ : Keeps s₀ s) (b : Blk) (cs : List (Bool × W16)) (ok : State → State)
    (hok : ∀ (x0 : State), Keeps s₀ x0 → Keeps s₀ (ok x0)) :
    Keeps s₀ (checked b cs ok s) := by
  unfold checked
  repeat' first | with_reducible assumption | with_reducible apply setReason_keeps | with_reducible apply hok | simp only [keeps_mk] | split

theorem ans_keeps {s₀ s : State} (h₀ : Keeps s₀ s) (ag : Agent) (st : RspSt) (d : BitVec 512) : Keeps s₀ (ans ag st d s) := by
  unfold ans; repeat' first | with_reducible assumption | simp only [keeps_mk]

theorem hostErrCount_keeps {s₀ s : State} (h₀ : Keeps s₀ s) (ag : Agent) : Keeps s₀ (hostErrCount ag s) := by
  unfold hostErrCount; repeat' first | with_reducible assumption | simp only [keeps_mk] | split

theorem errRsp_keeps {s₀ s : State} (h₀ : Keeps s₀ s) (ag : Agent) : Keeps s₀ (errRsp ag s) := by
  unfold errRsp
  repeat' first | with_reducible assumption | with_reducible apply ans_keeps | with_reducible apply hostErrCount_keeps

theorem respond_keeps {s₀ s : State} (h₀ : Keeps s₀ s) (ag : Agent) (err : Bool) (d : W32) :
    Keeps s₀ (respond ag err d s) := by
  unfold respond
  repeat' first | with_reducible assumption | with_reducible apply State_setCore_keeps | with_reducible apply ans_keeps | with_reducible apply errRsp_keeps | simp only [keeps_mk] | split

theorem draw_keeps {s₀ s : State} (h₀ : Keeps s₀ s) : Keeps s₀ (draw s).2 := by
  unfold draw; repeat' first | with_reducible assumption | simp only [keeps_mk]

theorem drawN_keeps {s₀ y1 : State} (h₀ : Keeps s₀ y1) (y0 : Nat) : Keeps s₀ (drawN y0 y1).2 := by
  rw [drawN_state]; simp only [keeps_mk]; exact h₀

theorem sendX_keeps {s₀ s : State} (h₀ : Keeps s₀ s) (x : XItem) : Keeps s₀ (sendX x s) := by
  unfold sendX; repeat' first | with_reducible assumption | simp only [keeps_mk]

theorem sendXt_keeps {s₀ s : State} (h₀ : Keeps s₀ s) (f r : Byte) (ag : Agent) : Keeps s₀ (sendXt f r ag s) := by
  obtain ⟨xs, h⟩ := sendXt_state f r ag s
  rw [h]; simp only [keeps_mk]; exact h₀

theorem xtFire_keeps {s₀ s : State} (h₀ : Keeps s₀ s) (m : Byte) (ag : Agent) : Keeps s₀ (xtFire m ag s) := by
  unfold xtFire; repeat' first | with_reducible assumption | with_reducible apply sendXt_keeps | simp only [keeps_mk] | split

theorem sendMsi_keeps {s₀ s : State} (h₀ : Keeps s₀ s) (v : Byte) : Keeps s₀ (sendMsi v s) := by
  unfold sendMsi; repeat' first | with_reducible assumption | simp only [keeps_mk] | split

theorem hostWrite_keeps {s₀ s : State} (h₀ : Keeps s₀ s) (a : W64) (d : List Byte) : Keeps s₀ (hostWrite a d s) := by
  unfold hostWrite; repeat' first | with_reducible assumption | simp only [keeps_mk]

end Sys2Proof.Machine
end

