-- ==== Sys2Proof/Laws/Quill.lean ====
section
/-!
SUPPORT. The sequencer of a Quill: what a step of a row does once its instruction issues.
-/
namespace Sys2Proof.Machine

/-- Reading back the bytes of a word. -/
theorem leNat_wordBytes {w : Nat} (n : Nat) (x : BitVec w) : leNat (wordBytes n x) = x.toNat % 2 ^ (8 * n) := by
  have key : ∀ n k : Nat, leNat ((List.range' k n).map (fun i => x.extractLsb' (8 * i) 8)) = x.toNat / 2 ^ (8 * k) % 2 ^ (8 * n) := by
    intro n
    induction n with
    | zero => intro k; simp [leNat, Nat.mod_one]
    | succ n ih =>
      intro k
      simp only [List.range'_succ, List.map_cons, leNat, ih, BitVec.extractLsb'_toNat, Nat.shiftRight_eq_div_pow]
      have h1 : 2 ^ (8 * (k + 1)) = 2 ^ (8 * k) * 256 := by rw [Nat.mul_add, Nat.pow_add]
      have h2 : 2 ^ (8 * (n + 1)) = 256 * 2 ^ (8 * n) := by rw [Nat.mul_add, Nat.pow_add, Nat.mul_comm]
      rw [h1, h2, ← Nat.div_div_eq_div_mul, Nat.mod_mul]
  have := key n 0
  simpa [wordBytes, List.range_eq_range'] using this

@[simp] theorem leWord_wordBytes8 (x : W64) : leWord 64 (wordBytes 8 x) = x := by
  simp only [leWord, leNat_wordBytes]
  apply BitVec.eq_of_toNat_eq
  have := x.isLt
  simp only [BitVec.toNat_ofNat]
  omega

/-- Pages that are resident are no page-residency wait and no exception. -/
theorem pageCheck_ok {c : QCtx} {s : State} (h : ∀ p ∈ pagesOf c.i c.lq, (c.lq.frameOf p.1).isSome = true) : pageCheck c s = (.ok, s) := by
  have : (pagesOf c.i c.lq).filter (fun p => (c.lq.frameOf p.1).isNone) = [] := by
    rw [List.filter_eq_nil_iff]
    intro p hp
    have := h p hp
    cases hf : c.lq.frameOf p.1 <;> simp_all
  simp [pageCheck, this]

/-- R144 to R148, R165: what a step of a row does once its instruction issues and meets no exception. -/
theorem quillStep_runs {row : Ins → Bool} {q : Byte} {w : W64} {c : QCtx} {s : State} (h : Issues row q w c s) (hc : Clear c s)
    (eff : QCtx → State → QRes) :
    quillStep q.toNat row eff s =
      match eff c (touchPages c s) with
      | .exn s' code a => c.raise code a s'
      | .ok s' ctl => issued c ctl s' := by
  obtain ⟨hr, hi, hin, hf, he, hrow, hn, hd, hg⟩ := h
  obtain ⟨h1, h2, h3, h4, h5, h6, h7, h8⟩ := hc
  have hcc : ({ c with i := insOf w } : QCtx) = c := by rw [← hi]
  have hmem : (memOps c.i c.lq).find? (fun m => !m.ok) = none := by
    rw [List.find?_eq_none]; intro m hm; simp [h4 m hm]
  have hh : ¬((c.i.op = 0x28 ∨ c.i.op = 0x29) ∧ (handleObj s c.part (c.i.im 0 4)).isNone = true) := by
    rintro ⟨ho, hx⟩
    have := h3 ho
    cases hz : handleObj s c.part (c.i.im 0 4) <;> simp_all
  have hlen : ¬(c.lq.len ≤ c.lq.pc ∨ c.lq.xt < c.lq.board.next) := by omega
  simp only [quillStep, hr, hf, leWord_wordBytes8, hcc, if_neg hlen]
  rw [if_neg (by omega)]
  simp only [he, hrow, hg, Bool.not_true, Bool.false_eq_true, if_false, runIns, h1, h2, if_neg hh, hmem, h5, pageCheck_ok h6, h7, h8]

/-- No memory operand: no page is touched. -/
theorem touchPages_nil {c : QCtx} {s : State} (h : memOps c.i c.lq = []) : touchPages c s = s := by
  simp [touchPages, pagesOf, h]

end Sys2Proof.Machine
end

