-- ==== Sys2Proof/Laws/State.lean ====
section
/-!
SUPPORT. The named updates of State: what each leaves of every field, and what it writes.
-/
namespace Sys2Proof.Machine
variable (s : State)

@[simp] theorem State.setPq_at (q : Nat) (x : Pq) : (s.setPq q x).pq = kset {} s.pq q x := rfl
@[simp] theorem State.setPq_pending (q : Nat) (x : Pq) : (s.setPq q x).pending = s.pending := rfl
@[simp] theorem State.setPq_now (q : Nat) (x : Pq) : (s.setPq q x).now = s.now := rfl
@[simp] theorem State.setPq_fresh (q : Nat) (x : Pq) : (s.setPq q x).fresh = s.fresh := rfl
@[simp] theorem State.setPq_rsp (q : Nat) (x : Pq) : (s.setPq q x).rsp = s.rsp := rfl
@[simp] theorem State.setPq_glb (q : Nat) (x : Pq) : (s.setPq q x).glb = s.glb := rfl
@[simp] theorem State.setPq_tk (q : Nat) (x : Pq) : (s.setPq q x).tk = s.tk := rfl
@[simp] theorem State.setPq_ls (q : Nat) (x : Pq) : (s.setPq q x).ls = s.ls := rfl
@[simp] theorem State.setPq_sched (q : Nat) (x : Pq) : (s.setPq q x).sched = s.sched := rfl
@[simp] theorem State.setPq_sync (q : Nat) (x : Pq) : (s.setPq q x).sync = s.sync := rfl
@[simp] theorem State.setPq_syncWr (q : Nat) (x : Pq) : (s.setPq q x).syncWr = s.syncWr := rfl
@[simp] theorem State.setPq_ink (q : Nat) (x : Pq) : (s.setPq q x).ink = s.ink := rfl
@[simp] theorem State.setPq_hbm (q : Nat) (x : Pq) : (s.setPq q x).hbm = s.hbm := rfl
@[simp] theorem State.setPq_mad (q : Nat) (x : Pq) : (s.setPq q x).mad = s.mad := rfl
@[simp] theorem State.setPq_kl (q : Nat) (x : Pq) : (s.setPq q x).kl = s.kl := rfl
@[simp] theorem State.setPq_coll (q : Nat) (x : Pq) : (s.setPq q x).coll = s.coll := rfl
@[simp] theorem State.setPq_sep (q : Nat) (x : Pq) : (s.setPq q x).sep = s.sep := rfl
@[simp] theorem State.setPq_vel (q : Nat) (x : Pq) : (s.setPq q x).vel = s.vel := rfl
@[simp] theorem State.setPq_plant (q : Nat) (x : Pq) : (s.setPq q x).plant = s.plant := rfl
@[simp] theorem State.setPq_dbg (q : Nat) (x : Pq) : (s.setPq q x).dbg = s.dbg := rfl
@[simp] theorem State.setPq_pwr (q : Nat) (x : Pq) : (s.setPq q x).pwr = s.pwr := rfl
@[simp] theorem State.setPq_host (q : Nat) (x : Pq) : (s.setPq q x).host = s.host := rfl
@[simp] theorem State.setPq_part (q : Nat) (x : Pq) : (s.setPq q x).part = s.part := rfl
@[simp] theorem State.setPq_xing (q : Nat) (x : Pq) : (s.setPq q x).xing = s.xing := rfl
@[simp] theorem State.setPq_latch (q : Nat) (x : Pq) : (s.setPq q x).latch = s.latch := rfl
@[simp] theorem State.setPq_inbox (q : Nat) (x : Pq) : (s.setPq q x).inbox = s.inbox := rfl
@[simp] theorem State.setPq_swapBuf (q : Nat) (x : Pq) : (s.setPq q x).swapBuf = s.swapBuf := rfl
@[simp] theorem State.setPq_placed (q : Nat) (x : Pq) : (s.setPq q x).placed = s.placed := rfl
@[simp] theorem State.setPq_rdLatch (q : Nat) (x : Pq) : (s.setPq q x).rdLatch = s.rdLatch := rfl
@[simp] theorem State.setPq_wrLatch (q : Nat) (x : Pq) : (s.setPq q x).wrLatch = s.wrLatch := rfl
@[simp] theorem State.setPq_svc (q : Nat) (x : Pq) : (s.setPq q x).svc = s.svc := rfl

@[simp] theorem State.modPq_at (q : Nat) (f : Pq → Pq) : (s.modPq q f).pq = kset {} s.pq q (f (s.pqAt q)) := rfl
@[simp] theorem State.modPq_pending (q : Nat) (f : Pq → Pq) : (s.modPq q f).pending = s.pending := rfl
@[simp] theorem State.modPq_now (q : Nat) (f : Pq → Pq) : (s.modPq q f).now = s.now := rfl
@[simp] theorem State.modPq_fresh (q : Nat) (f : Pq → Pq) : (s.modPq q f).fresh = s.fresh := rfl
@[simp] theorem State.modPq_rsp (q : Nat) (f : Pq → Pq) : (s.modPq q f).rsp = s.rsp := rfl
@[simp] theorem State.modPq_glb (q : Nat) (f : Pq → Pq) : (s.modPq q f).glb = s.glb := rfl
@[simp] theorem State.modPq_tk (q : Nat) (f : Pq → Pq) : (s.modPq q f).tk = s.tk := rfl
@[simp] theorem State.modPq_ls (q : Nat) (f : Pq → Pq) : (s.modPq q f).ls = s.ls := rfl
@[simp] theorem State.modPq_sched (q : Nat) (f : Pq → Pq) : (s.modPq q f).sched = s.sched := rfl
@[simp] theorem State.modPq_sync (q : Nat) (f : Pq → Pq) : (s.modPq q f).sync = s.sync := rfl
@[simp] theorem State.modPq_syncWr (q : Nat) (f : Pq → Pq) : (s.modPq q f).syncWr = s.syncWr := rfl
@[simp] theorem State.modPq_ink (q : Nat) (f : Pq → Pq) : (s.modPq q f).ink = s.ink := rfl
@[simp] theorem State.modPq_hbm (q : Nat) (f : Pq → Pq) : (s.modPq q f).hbm = s.hbm := rfl
@[simp] theorem State.modPq_mad (q : Nat) (f : Pq → Pq) : (s.modPq q f).mad = s.mad := rfl
@[simp] theorem State.modPq_kl (q : Nat) (f : Pq → Pq) : (s.modPq q f).kl = s.kl := rfl
@[simp] theorem State.modPq_coll (q : Nat) (f : Pq → Pq) : (s.modPq q f).coll = s.coll := rfl
@[simp] theorem State.modPq_sep (q : Nat) (f : Pq → Pq) : (s.modPq q f).sep = s.sep := rfl
@[simp] theorem State.modPq_vel (q : Nat) (f : Pq → Pq) : (s.modPq q f).vel = s.vel := rfl
@[simp] theorem State.modPq_plant (q : Nat) (f : Pq → Pq) : (s.modPq q f).plant = s.plant := rfl
@[simp] theorem State.modPq_dbg (q : Nat) (f : Pq → Pq) : (s.modPq q f).dbg = s.dbg := rfl
@[simp] theorem State.modPq_pwr (q : Nat) (f : Pq → Pq) : (s.modPq q f).pwr = s.pwr := rfl
@[simp] theorem State.modPq_host (q : Nat) (f : Pq → Pq) : (s.modPq q f).host = s.host := rfl
@[simp] theorem State.modPq_part (q : Nat) (f : Pq → Pq) : (s.modPq q f).part = s.part := rfl
@[simp] theorem State.modPq_xing (q : Nat) (f : Pq → Pq) : (s.modPq q f).xing = s.xing := rfl
@[simp] theorem State.modPq_latch (q : Nat) (f : Pq → Pq) : (s.modPq q f).latch = s.latch := rfl
@[simp] theorem State.modPq_inbox (q : Nat) (f : Pq → Pq) : (s.modPq q f).inbox = s.inbox := rfl
@[simp] theorem State.modPq_swapBuf (q : Nat) (f : Pq → Pq) : (s.modPq q f).swapBuf = s.swapBuf := rfl
@[simp] theorem State.modPq_placed (q : Nat) (f : Pq → Pq) : (s.modPq q f).placed = s.placed := rfl
@[simp] theorem State.modPq_rdLatch (q : Nat) (f : Pq → Pq) : (s.modPq q f).rdLatch = s.rdLatch := rfl
@[simp] theorem State.modPq_wrLatch (q : Nat) (f : Pq → Pq) : (s.modPq q f).wrLatch = s.wrLatch := rfl
@[simp] theorem State.modPq_svc (q : Nat) (f : Pq → Pq) : (s.modPq q f).svc = s.svc := rfl

@[simp] theorem State.setOwn_at (o : Nat) (x : Own) : (s.setOwn o x).sched.own = kset {} s.sched.own o x := rfl
@[simp] theorem State.setOwn_pending (o : Nat) (x : Own) : (s.setOwn o x).pending = s.pending := rfl
@[simp] theorem State.setOwn_now (o : Nat) (x : Own) : (s.setOwn o x).now = s.now := rfl
@[simp] theorem State.setOwn_fresh (o : Nat) (x : Own) : (s.setOwn o x).fresh = s.fresh := rfl
@[simp] theorem State.setOwn_rsp (o : Nat) (x : Own) : (s.setOwn o x).rsp = s.rsp := rfl
@[simp] theorem State.setOwn_glb (o : Nat) (x : Own) : (s.setOwn o x).glb = s.glb := rfl
@[simp] theorem State.setOwn_tk (o : Nat) (x : Own) : (s.setOwn o x).tk = s.tk := rfl
@[simp] theorem State.setOwn_ls (o : Nat) (x : Own) : (s.setOwn o x).ls = s.ls := rfl
@[simp] theorem State.setOwn_sync (o : Nat) (x : Own) : (s.setOwn o x).sync = s.sync := rfl
@[simp] theorem State.setOwn_syncWr (o : Nat) (x : Own) : (s.setOwn o x).syncWr = s.syncWr := rfl
@[simp] theorem State.setOwn_ink (o : Nat) (x : Own) : (s.setOwn o x).ink = s.ink := rfl
@[simp] theorem State.setOwn_hbm (o : Nat) (x : Own) : (s.setOwn o x).hbm = s.hbm := rfl
@[simp] theorem State.setOwn_mad (o : Nat) (x : Own) : (s.setOwn o x).mad = s.mad := rfl
@[simp] theorem State.setOwn_kl (o : Nat) (x : Own) : (s.setOwn o x).kl = s.kl := rfl
@[simp] theorem State.setOwn_coll (o : Nat) (x : Own) : (s.setOwn o x).coll = s.coll := rfl
@[simp] theorem State.setOwn_sep (o : Nat) (x : Own) : (s.setOwn o x).sep = s.sep := rfl
@[simp] theorem State.setOwn_vel (o : Nat) (x : Own) : (s.setOwn o x).vel = s.vel := rfl
@[simp] theorem State.setOwn_plant (o : Nat) (x : Own) : (s.setOwn o x).plant = s.plant := rfl
@[simp] theorem State.setOwn_dbg (o : Nat) (x : Own) : (s.setOwn o x).dbg = s.dbg := rfl
@[simp] theorem State.setOwn_pwr (o : Nat) (x : Own) : (s.setOwn o x).pwr = s.pwr := rfl
@[simp] theorem State.setOwn_host (o : Nat) (x : Own) : (s.setOwn o x).host = s.host := rfl
@[simp] theorem State.setOwn_pq (o : Nat) (x : Own) : (s.setOwn o x).pq = s.pq := rfl
@[simp] theorem State.setOwn_part (o : Nat) (x : Own) : (s.setOwn o x).part = s.part := rfl
@[simp] theorem State.setOwn_xing (o : Nat) (x : Own) : (s.setOwn o x).xing = s.xing := rfl
@[simp] theorem State.setOwn_latch (o : Nat) (x : Own) : (s.setOwn o x).latch = s.latch := rfl
@[simp] theorem State.setOwn_inbox (o : Nat) (x : Own) : (s.setOwn o x).inbox = s.inbox := rfl
@[simp] theorem State.setOwn_swapBuf (o : Nat) (x : Own) : (s.setOwn o x).swapBuf = s.swapBuf := rfl
@[simp] theorem State.setOwn_placed (o : Nat) (x : Own) : (s.setOwn o x).placed = s.placed := rfl
@[simp] theorem State.setOwn_rdLatch (o : Nat) (x : Own) : (s.setOwn o x).rdLatch = s.rdLatch := rfl
@[simp] theorem State.setOwn_wrLatch (o : Nat) (x : Own) : (s.setOwn o x).wrLatch = s.wrLatch := rfl
@[simp] theorem State.setOwn_svc (o : Nat) (x : Own) : (s.setOwn o x).svc = s.svc := rfl
@[simp] theorem State.setOwn_sched_queue (o : Nat) (x : Own) : (s.setOwn o x).sched.queue = s.sched.queue := rfl
@[simp] theorem State.setOwn_sched_disp (o : Nat) (x : Own) : (s.setOwn o x).sched.disp = s.sched.disp := rfl
@[simp] theorem State.setOwn_sched_errlog (o : Nat) (x : Own) : (s.setOwn o x).sched.errlog = s.sched.errlog := rfl
@[simp] theorem State.setOwn_sched_nextKey (o : Nat) (x : Own) : (s.setOwn o x).sched.nextKey = s.sched.nextKey := rfl
@[simp] theorem State.setOwn_sched_rr (o : Nat) (x : Own) : (s.setOwn o x).sched.rr = s.sched.rr := rfl
@[simp] theorem State.setOwn_sched_lastDisp (o : Nat) (x : Own) : (s.setOwn o x).sched.lastDisp = s.sched.lastDisp := rfl

@[simp] theorem State.setQueue_at (o k : Nat) (x : Queue) : (s.setQueue o k x).sched.queue = kset {} s.sched.queue (8 * o + k) x := rfl
@[simp] theorem State.setQueue_pending (o k : Nat) (x : Queue) : (s.setQueue o k x).pending = s.pending := rfl
@[simp] theorem State.setQueue_now (o k : Nat) (x : Queue) : (s.setQueue o k x).now = s.now := rfl
@[simp] theorem State.setQueue_fresh (o k : Nat) (x : Queue) : (s.setQueue o k x).fresh = s.fresh := rfl
@[simp] theorem State.setQueue_rsp (o k : Nat) (x : Queue) : (s.setQueue o k x).rsp = s.rsp := rfl
@[simp] theorem State.setQueue_glb (o k : Nat) (x : Queue) : (s.setQueue o k x).glb = s.glb := rfl
@[simp] theorem State.setQueue_tk (o k : Nat) (x : Queue) : (s.setQueue o k x).tk = s.tk := rfl
@[simp] theorem State.setQueue_ls (o k : Nat) (x : Queue) : (s.setQueue o k x).ls = s.ls := rfl
@[simp] theorem State.setQueue_sync (o k : Nat) (x : Queue) : (s.setQueue o k x).sync = s.sync := rfl
@[simp] theorem State.setQueue_syncWr (o k : Nat) (x : Queue) : (s.setQueue o k x).syncWr = s.syncWr := rfl
@[simp] theorem State.setQueue_ink (o k : Nat) (x : Queue) : (s.setQueue o k x).ink = s.ink := rfl
@[simp] theorem State.setQueue_hbm (o k : Nat) (x : Queue) : (s.setQueue o k x).hbm = s.hbm := rfl
@[simp] theorem State.setQueue_mad (o k : Nat) (x : Queue) : (s.setQueue o k x).mad = s.mad := rfl
@[simp] theorem State.setQueue_kl (o k : Nat) (x : Queue) : (s.setQueue o k x).kl = s.kl := rfl
@[simp] theorem State.setQueue_coll (o k : Nat) (x : Queue) : (s.setQueue o k x).coll = s.coll := rfl
@[simp] theorem State.setQueue_sep (o k : Nat) (x : Queue) : (s.setQueue o k x).sep = s.sep := rfl
@[simp] theorem State.setQueue_vel (o k : Nat) (x : Queue) : (s.setQueue o k x).vel = s.vel := rfl
@[simp] theorem State.setQueue_plant (o k : Nat) (x : Queue) : (s.setQueue o k x).plant = s.plant := rfl
@[simp] theorem State.setQueue_dbg (o k : Nat) (x : Queue) : (s.setQueue o k x).dbg = s.dbg := rfl
@[simp] theorem State.setQueue_pwr (o k : Nat) (x : Queue) : (s.setQueue o k x).pwr = s.pwr := rfl
@[simp] theorem State.setQueue_host (o k : Nat) (x : Queue) : (s.setQueue o k x).host = s.host := rfl
@[simp] theorem State.setQueue_pq (o k : Nat) (x : Queue) : (s.setQueue o k x).pq = s.pq := rfl
@[simp] theorem State.setQueue_part (o k : Nat) (x : Queue) : (s.setQueue o k x).part = s.part := rfl
@[simp] theorem State.setQueue_xing (o k : Nat) (x : Queue) : (s.setQueue o k x).xing = s.xing := rfl
@[simp] theorem State.setQueue_latch (o k : Nat) (x : Queue) : (s.setQueue o k x).latch = s.latch := rfl
@[simp] theorem State.setQueue_inbox (o k : Nat) (x : Queue) : (s.setQueue o k x).inbox = s.inbox := rfl
@[simp] theorem State.setQueue_swapBuf (o k : Nat) (x : Queue) : (s.setQueue o k x).swapBuf = s.swapBuf := rfl
@[simp] theorem State.setQueue_placed (o k : Nat) (x : Queue) : (s.setQueue o k x).placed = s.placed := rfl
@[simp] theorem State.setQueue_rdLatch (o k : Nat) (x : Queue) : (s.setQueue o k x).rdLatch = s.rdLatch := rfl
@[simp] theorem State.setQueue_wrLatch (o k : Nat) (x : Queue) : (s.setQueue o k x).wrLatch = s.wrLatch := rfl
@[simp] theorem State.setQueue_svc (o k : Nat) (x : Queue) : (s.setQueue o k x).svc = s.svc := rfl
@[simp] theorem State.setQueue_sched_own (o k : Nat) (x : Queue) : (s.setQueue o k x).sched.own = s.sched.own := rfl
@[simp] theorem State.setQueue_sched_disp (o k : Nat) (x : Queue) : (s.setQueue o k x).sched.disp = s.sched.disp := rfl
@[simp] theorem State.setQueue_sched_errlog (o k : Nat) (x : Queue) : (s.setQueue o k x).sched.errlog = s.sched.errlog := rfl
@[simp] theorem State.setQueue_sched_nextKey (o k : Nat) (x : Queue) : (s.setQueue o k x).sched.nextKey = s.sched.nextKey := rfl
@[simp] theorem State.setQueue_sched_rr (o k : Nat) (x : Queue) : (s.setQueue o k x).sched.rr = s.sched.rr := rfl
@[simp] theorem State.setQueue_sched_lastDisp (o k : Nat) (x : Queue) : (s.setQueue o k x).sched.lastDisp = s.sched.lastDisp := rfl

@[simp] theorem State.setSync_at (n : Nat) (x : SyncObj) : (s.setSync n x).sync = kset {} s.sync n x := rfl
@[simp] theorem State.setSync_pending (n : Nat) (x : SyncObj) : (s.setSync n x).pending = s.pending := rfl
@[simp] theorem State.setSync_now (n : Nat) (x : SyncObj) : (s.setSync n x).now = s.now := rfl
@[simp] theorem State.setSync_fresh (n : Nat) (x : SyncObj) : (s.setSync n x).fresh = s.fresh := rfl
@[simp] theorem State.setSync_rsp (n : Nat) (x : SyncObj) : (s.setSync n x).rsp = s.rsp := rfl
@[simp] theorem State.setSync_glb (n : Nat) (x : SyncObj) : (s.setSync n x).glb = s.glb := rfl
@[simp] theorem State.setSync_tk (n : Nat) (x : SyncObj) : (s.setSync n x).tk = s.tk := rfl
@[simp] theorem State.setSync_ls (n : Nat) (x : SyncObj) : (s.setSync n x).ls = s.ls := rfl
@[simp] theorem State.setSync_sched (n : Nat) (x : SyncObj) : (s.setSync n x).sched = s.sched := rfl
@[simp] theorem State.setSync_syncWr (n : Nat) (x : SyncObj) : (s.setSync n x).syncWr = s.syncWr := rfl
@[simp] theorem State.setSync_ink (n : Nat) (x : SyncObj) : (s.setSync n x).ink = s.ink := rfl
@[simp] theorem State.setSync_hbm (n : Nat) (x : SyncObj) : (s.setSync n x).hbm = s.hbm := rfl
@[simp] theorem State.setSync_mad (n : Nat) (x : SyncObj) : (s.setSync n x).mad = s.mad := rfl
@[simp] theorem State.setSync_kl (n : Nat) (x : SyncObj) : (s.setSync n x).kl = s.kl := rfl
@[simp] theorem State.setSync_coll (n : Nat) (x : SyncObj) : (s.setSync n x).coll = s.coll := rfl
@[simp] theorem State.setSync_sep (n : Nat) (x : SyncObj) : (s.setSync n x).sep = s.sep := rfl
@[simp] theorem State.setSync_vel (n : Nat) (x : SyncObj) : (s.setSync n x).vel = s.vel := rfl
@[simp] theorem State.setSync_plant (n : Nat) (x : SyncObj) : (s.setSync n x).plant = s.plant := rfl
@[simp] theorem State.setSync_dbg (n : Nat) (x : SyncObj) : (s.setSync n x).dbg = s.dbg := rfl
@[simp] theorem State.setSync_pwr (n : Nat) (x : SyncObj) : (s.setSync n x).pwr = s.pwr := rfl
@[simp] theorem State.setSync_host (n : Nat) (x : SyncObj) : (s.setSync n x).host = s.host := rfl
@[simp] theorem State.setSync_pq (n : Nat) (x : SyncObj) : (s.setSync n x).pq = s.pq := rfl
@[simp] theorem State.setSync_part (n : Nat) (x : SyncObj) : (s.setSync n x).part = s.part := rfl
@[simp] theorem State.setSync_xing (n : Nat) (x : SyncObj) : (s.setSync n x).xing = s.xing := rfl
@[simp] theorem State.setSync_latch (n : Nat) (x : SyncObj) : (s.setSync n x).latch = s.latch := rfl
@[simp] theorem State.setSync_inbox (n : Nat) (x : SyncObj) : (s.setSync n x).inbox = s.inbox := rfl
@[simp] theorem State.setSync_swapBuf (n : Nat) (x : SyncObj) : (s.setSync n x).swapBuf = s.swapBuf := rfl
@[simp] theorem State.setSync_placed (n : Nat) (x : SyncObj) : (s.setSync n x).placed = s.placed := rfl
@[simp] theorem State.setSync_rdLatch (n : Nat) (x : SyncObj) : (s.setSync n x).rdLatch = s.rdLatch := rfl
@[simp] theorem State.setSync_wrLatch (n : Nat) (x : SyncObj) : (s.setSync n x).wrLatch = s.wrLatch := rfl
@[simp] theorem State.setSync_svc (n : Nat) (x : SyncObj) : (s.setSync n x).svc = s.svc := rfl

@[simp] theorem State.setPart_at (x : Part) : (s.setPart x).part = kput s.part x.id.key x := rfl
@[simp] theorem State.setPart_pending (x : Part) : (s.setPart x).pending = s.pending := rfl
@[simp] theorem State.setPart_now (x : Part) : (s.setPart x).now = s.now := rfl
@[simp] theorem State.setPart_fresh (x : Part) : (s.setPart x).fresh = s.fresh := rfl
@[simp] theorem State.setPart_rsp (x : Part) : (s.setPart x).rsp = s.rsp := rfl
@[simp] theorem State.setPart_glb (x : Part) : (s.setPart x).glb = s.glb := rfl
@[simp] theorem State.setPart_tk (x : Part) : (s.setPart x).tk = s.tk := rfl
@[simp] theorem State.setPart_ls (x : Part) : (s.setPart x).ls = s.ls := rfl
@[simp] theorem State.setPart_sched (x : Part) : (s.setPart x).sched = s.sched := rfl
@[simp] theorem State.setPart_sync (x : Part) : (s.setPart x).sync = s.sync := rfl
@[simp] theorem State.setPart_syncWr (x : Part) : (s.setPart x).syncWr = s.syncWr := rfl
@[simp] theorem State.setPart_ink (x : Part) : (s.setPart x).ink = s.ink := rfl
@[simp] theorem State.setPart_hbm (x : Part) : (s.setPart x).hbm = s.hbm := rfl
@[simp] theorem State.setPart_mad (x : Part) : (s.setPart x).mad = s.mad := rfl
@[simp] theorem State.setPart_kl (x : Part) : (s.setPart x).kl = s.kl := rfl
@[simp] theorem State.setPart_coll (x : Part) : (s.setPart x).coll = s.coll := rfl
@[simp] theorem State.setPart_sep (x : Part) : (s.setPart x).sep = s.sep := rfl
@[simp] theorem State.setPart_vel (x : Part) : (s.setPart x).vel = s.vel := rfl
@[simp] theorem State.setPart_plant (x : Part) : (s.setPart x).plant = s.plant := rfl
@[simp] theorem State.setPart_dbg (x : Part) : (s.setPart x).dbg = s.dbg := rfl
@[simp] theorem State.setPart_pwr (x : Part) : (s.setPart x).pwr = s.pwr := rfl
@[simp] theorem State.setPart_host (x : Part) : (s.setPart x).host = s.host := rfl
@[simp] theorem State.setPart_pq (x : Part) : (s.setPart x).pq = s.pq := rfl
@[simp] theorem State.setPart_xing (x : Part) : (s.setPart x).xing = s.xing := rfl
@[simp] theorem State.setPart_latch (x : Part) : (s.setPart x).latch = s.latch := rfl
@[simp] theorem State.setPart_inbox (x : Part) : (s.setPart x).inbox = s.inbox := rfl
@[simp] theorem State.setPart_swapBuf (x : Part) : (s.setPart x).swapBuf = s.swapBuf := rfl
@[simp] theorem State.setPart_placed (x : Part) : (s.setPart x).placed = s.placed := rfl
@[simp] theorem State.setPart_rdLatch (x : Part) : (s.setPart x).rdLatch = s.rdLatch := rfl
@[simp] theorem State.setPart_wrLatch (x : Part) : (s.setPart x).wrLatch = s.wrLatch := rfl
@[simp] theorem State.setPart_svc (x : Part) : (s.setPart x).svc = s.svc := rfl

@[simp] theorem State.setCore_at (c : Nat) (x : Core) : (s.setCore c x).sep.core = kset {} s.sep.core c x := rfl
@[simp] theorem State.setCore_pending (c : Nat) (x : Core) : (s.setCore c x).pending = s.pending := rfl
@[simp] theorem State.setCore_now (c : Nat) (x : Core) : (s.setCore c x).now = s.now := rfl
@[simp] theorem State.setCore_fresh (c : Nat) (x : Core) : (s.setCore c x).fresh = s.fresh := rfl
@[simp] theorem State.setCore_rsp (c : Nat) (x : Core) : (s.setCore c x).rsp = s.rsp := rfl
@[simp] theorem State.setCore_glb (c : Nat) (x : Core) : (s.setCore c x).glb = s.glb := rfl
@[simp] theorem State.setCore_tk (c : Nat) (x : Core) : (s.setCore c x).tk = s.tk := rfl
@[simp] theorem State.setCore_ls (c : Nat) (x : Core) : (s.setCore c x).ls = s.ls := rfl
@[simp] theorem State.setCore_sched (c : Nat) (x : Core) : (s.setCore c x).sched = s.sched := rfl
@[simp] theorem State.setCore_sync (c : Nat) (x : Core) : (s.setCore c x).sync = s.sync := rfl
@[simp] theorem State.setCore_syncWr (c : Nat) (x : Core) : (s.setCore c x).syncWr = s.syncWr := rfl
@[simp] theorem State.setCore_ink (c : Nat) (x : Core) : (s.setCore c x).ink = s.ink := rfl
@[simp] theorem State.setCore_hbm (c : Nat) (x : Core) : (s.setCore c x).hbm = s.hbm := rfl
@[simp] theorem State.setCore_mad (c : Nat) (x : Core) : (s.setCore c x).mad = s.mad := rfl
@[simp] theorem State.setCore_kl (c : Nat) (x : Core) : (s.setCore c x).kl = s.kl := rfl
@[simp] theorem State.setCore_coll (c : Nat) (x : Core) : (s.setCore c x).coll = s.coll := rfl
@[simp] theorem State.setCore_vel (c : Nat) (x : Core) : (s.setCore c x).vel = s.vel := rfl
@[simp] theorem State.setCore_plant (c : Nat) (x : Core) : (s.setCore c x).plant = s.plant := rfl
@[simp] theorem State.setCore_dbg (c : Nat) (x : Core) : (s.setCore c x).dbg = s.dbg := rfl
@[simp] theorem State.setCore_pwr (c : Nat) (x : Core) : (s.setCore c x).pwr = s.pwr := rfl
@[simp] theorem State.setCore_host (c : Nat) (x : Core) : (s.setCore c x).host = s.host := rfl
@[simp] theorem State.setCore_pq (c : Nat) (x : Core) : (s.setCore c x).pq = s.pq := rfl
@[simp] theorem State.setCore_part (c : Nat) (x : Core) : (s.setCore c x).part = s.part := rfl
@[simp] theorem State.setCore_xing (c : Nat) (x : Core) : (s.setCore c x).xing = s.xing := rfl
@[simp] theorem State.setCore_latch (c : Nat) (x : Core) : (s.setCore c x).latch = s.latch := rfl
@[simp] theorem State.setCore_inbox (c : Nat) (x : Core) : (s.setCore c x).inbox = s.inbox := rfl
@[simp] theorem State.setCore_swapBuf (c : Nat) (x : Core) : (s.setCore c x).swapBuf = s.swapBuf := rfl
@[simp] theorem State.setCore_placed (c : Nat) (x : Core) : (s.setCore c x).placed = s.placed := rfl
@[simp] theorem State.setCore_rdLatch (c : Nat) (x : Core) : (s.setCore c x).rdLatch = s.rdLatch := rfl
@[simp] theorem State.setCore_wrLatch (c : Nat) (x : Core) : (s.setCore c x).wrLatch = s.wrLatch := rfl
@[simp] theorem State.setCore_svc (c : Nat) (x : Core) : (s.setCore c x).svc = s.svc := rfl
@[simp] theorem State.setCore_sep_run (c : Nat) (x : Core) : (s.setCore c x).sep.run = s.sep.run := rfl
@[simp] theorem State.setCore_sep_down (c : Nat) (x : Core) : (s.setCore c x).sep.down = s.sep.down := rfl
@[simp] theorem State.setCore_sep_resetting (c : Nat) (x : Core) : (s.setCore c x).sep.resetting = s.sep.resetting := rfl
@[simp] theorem State.setCore_sep_reason (c : Nat) (x : Core) : (s.setCore c x).sep.reason = s.sep.reason := rfl
@[simp] theorem State.setCore_sep_errlog (c : Nat) (x : Core) : (s.setCore c x).sep.errlog = s.sep.errlog := rfl
@[simp] theorem State.setCore_sep_bfl (c : Nat) (x : Core) : (s.setCore c x).sep.bfl = s.sep.bfl := rfl
@[simp] theorem State.setCore_sep_pend (c : Nat) (x : Core) : (s.setCore c x).sep.pend = s.sep.pend := rfl
@[simp] theorem State.setCore_sep_claimed (c : Nat) (x : Core) : (s.setCore c x).sep.claimed = s.sep.claimed := rfl
@[simp] theorem State.setCore_sep_sram (c : Nat) (x : Core) : (s.setCore c x).sep.sram = s.sep.sram := rfl
@[simp] theorem State.setCore_sep_filt (c : Nat) (x : Core) : (s.setCore c x).sep.filt = s.sep.filt := rfl
@[simp] theorem State.setCore_sep_port (c : Nat) (x : Core) : (s.setCore c x).sep.port = s.sep.port := rfl
@[simp] theorem State.setCore_sep_cur (c : Nat) (x : Core) : (s.setCore c x).sep.cur = s.sep.cur := rfl

@[simp] theorem State.setDcore_at (c : Nat) (x : DbgCore) : (s.setDcore c x).dbg.core = kset {} s.dbg.core c x := rfl
@[simp] theorem State.setDcore_pending (c : Nat) (x : DbgCore) : (s.setDcore c x).pending = s.pending := rfl
@[simp] theorem State.setDcore_now (c : Nat) (x : DbgCore) : (s.setDcore c x).now = s.now := rfl
@[simp] theorem State.setDcore_fresh (c : Nat) (x : DbgCore) : (s.setDcore c x).fresh = s.fresh := rfl
@[simp] theorem State.setDcore_rsp (c : Nat) (x : DbgCore) : (s.setDcore c x).rsp = s.rsp := rfl
@[simp] theorem State.setDcore_glb (c : Nat) (x : DbgCore) : (s.setDcore c x).glb = s.glb := rfl
@[simp] theorem State.setDcore_tk (c : Nat) (x : DbgCore) : (s.setDcore c x).tk = s.tk := rfl
@[simp] theorem State.setDcore_ls (c : Nat) (x : DbgCore) : (s.setDcore c x).ls = s.ls := rfl
@[simp] theorem State.setDcore_sched (c : Nat) (x : DbgCore) : (s.setDcore c x).sched = s.sched := rfl
@[simp] theorem State.setDcore_sync (c : Nat) (x : DbgCore) : (s.setDcore c x).sync = s.sync := rfl
@[simp] theorem State.setDcore_syncWr (c : Nat) (x : DbgCore) : (s.setDcore c x).syncWr = s.syncWr := rfl
@[simp] theorem State.setDcore_ink (c : Nat) (x : DbgCore) : (s.setDcore c x).ink = s.ink := rfl
@[simp] theorem State.setDcore_hbm (c : Nat) (x : DbgCore) : (s.setDcore c x).hbm = s.hbm := rfl
@[simp] theorem State.setDcore_mad (c : Nat) (x : DbgCore) : (s.setDcore c x).mad = s.mad := rfl
@[simp] theorem State.setDcore_kl (c : Nat) (x : DbgCore) : (s.setDcore c x).kl = s.kl := rfl
@[simp] theorem State.setDcore_coll (c : Nat) (x : DbgCore) : (s.setDcore c x).coll = s.coll := rfl
@[simp] theorem State.setDcore_sep (c : Nat) (x : DbgCore) : (s.setDcore c x).sep = s.sep := rfl
@[simp] theorem State.setDcore_vel (c : Nat) (x : DbgCore) : (s.setDcore c x).vel = s.vel := rfl
@[simp] theorem State.setDcore_plant (c : Nat) (x : DbgCore) : (s.setDcore c x).plant = s.plant := rfl
@[simp] theorem State.setDcore_pwr (c : Nat) (x : DbgCore) : (s.setDcore c x).pwr = s.pwr := rfl
@[simp] theorem State.setDcore_host (c : Nat) (x : DbgCore) : (s.setDcore c x).host = s.host := rfl
@[simp] theorem State.setDcore_pq (c : Nat) (x : DbgCore) : (s.setDcore c x).pq = s.pq := rfl
@[simp] theorem State.setDcore_part (c : Nat) (x : DbgCore) : (s.setDcore c x).part = s.part := rfl
@[simp] theorem State.setDcore_xing (c : Nat) (x : DbgCore) : (s.setDcore c x).xing = s.xing := rfl
@[simp] theorem State.setDcore_latch (c : Nat) (x : DbgCore) : (s.setDcore c x).latch = s.latch := rfl
@[simp] theorem State.setDcore_inbox (c : Nat) (x : DbgCore) : (s.setDcore c x).inbox = s.inbox := rfl
@[simp] theorem State.setDcore_swapBuf (c : Nat) (x : DbgCore) : (s.setDcore c x).swapBuf = s.swapBuf := rfl
@[simp] theorem State.setDcore_placed (c : Nat) (x : DbgCore) : (s.setDcore c x).placed = s.placed := rfl
@[simp] theorem State.setDcore_rdLatch (c : Nat) (x : DbgCore) : (s.setDcore c x).rdLatch = s.rdLatch := rfl
@[simp] theorem State.setDcore_wrLatch (c : Nat) (x : DbgCore) : (s.setDcore c x).wrLatch = s.wrLatch := rfl
@[simp] theorem State.setDcore_svc (c : Nat) (x : DbgCore) : (s.setDcore c x).svc = s.svc := rfl
@[simp] theorem State.setDcore_dbg_session (c : Nat) (x : DbgCore) : (s.setDcore c x).dbg.session = s.dbg.session := rfl
@[simp] theorem State.setDcore_dbg_reason (c : Nat) (x : DbgCore) : (s.setDcore c x).dbg.reason = s.dbg.reason := rfl
@[simp] theorem State.setDcore_dbg_errlog (c : Nat) (x : DbgCore) : (s.setDcore c x).dbg.errlog = s.dbg.errlog := rfl
@[simp] theorem State.setDcore_dbg_watch (c : Nat) (x : DbgCore) : (s.setDcore c x).dbg.watch = s.dbg.watch := rfl
@[simp] theorem State.setDcore_dbg_patch (c : Nat) (x : DbgCore) : (s.setDcore c x).dbg.patch = s.dbg.patch := rfl
@[simp] theorem State.setDcore_dbg_vtTx (c : Nat) (x : DbgCore) : (s.setDcore c x).dbg.vtTx = s.dbg.vtTx := rfl
@[simp] theorem State.setDcore_dbg_vtRx (c : Nat) (x : DbgCore) : (s.setDcore c x).dbg.vtRx = s.dbg.vtRx := rfl

@[simp] theorem State.setLink_at (l : Nat) (x : Link) : (s.setLink l x).kl.link = kset {} s.kl.link l x := rfl
@[simp] theorem State.setLink_pending (l : Nat) (x : Link) : (s.setLink l x).pending = s.pending := rfl
@[simp] theorem State.setLink_now (l : Nat) (x : Link) : (s.setLink l x).now = s.now := rfl
@[simp] theorem State.setLink_fresh (l : Nat) (x : Link) : (s.setLink l x).fresh = s.fresh := rfl
@[simp] theorem State.setLink_rsp (l : Nat) (x : Link) : (s.setLink l x).rsp = s.rsp := rfl
@[simp] theorem State.setLink_glb (l : Nat) (x : Link) : (s.setLink l x).glb = s.glb := rfl
@[simp] theorem State.setLink_tk (l : Nat) (x : Link) : (s.setLink l x).tk = s.tk := rfl
@[simp] theorem State.setLink_ls (l : Nat) (x : Link) : (s.setLink l x).ls = s.ls := rfl
@[simp] theorem State.setLink_sched (l : Nat) (x : Link) : (s.setLink l x).sched = s.sched := rfl
@[simp] theorem State.setLink_sync (l : Nat) (x : Link) : (s.setLink l x).sync = s.sync := rfl
@[simp] theorem State.setLink_syncWr (l : Nat) (x : Link) : (s.setLink l x).syncWr = s.syncWr := rfl
@[simp] theorem State.setLink_ink (l : Nat) (x : Link) : (s.setLink l x).ink = s.ink := rfl
@[simp] theorem State.setLink_hbm (l : Nat) (x : Link) : (s.setLink l x).hbm = s.hbm := rfl
@[simp] theorem State.setLink_mad (l : Nat) (x : Link) : (s.setLink l x).mad = s.mad := rfl
@[simp] theorem State.setLink_coll (l : Nat) (x : Link) : (s.setLink l x).coll = s.coll := rfl
@[simp] theorem State.setLink_sep (l : Nat) (x : Link) : (s.setLink l x).sep = s.sep := rfl
@[simp] theorem State.setLink_vel (l : Nat) (x : Link) : (s.setLink l x).vel = s.vel := rfl
@[simp] theorem State.setLink_plant (l : Nat) (x : Link) : (s.setLink l x).plant = s.plant := rfl
@[simp] theorem State.setLink_dbg (l : Nat) (x : Link) : (s.setLink l x).dbg = s.dbg := rfl
@[simp] theorem State.setLink_pwr (l : Nat) (x : Link) : (s.setLink l x).pwr = s.pwr := rfl
@[simp] theorem State.setLink_host (l : Nat) (x : Link) : (s.setLink l x).host = s.host := rfl
@[simp] theorem State.setLink_pq (l : Nat) (x : Link) : (s.setLink l x).pq = s.pq := rfl
@[simp] theorem State.setLink_part (l : Nat) (x : Link) : (s.setLink l x).part = s.part := rfl
@[simp] theorem State.setLink_xing (l : Nat) (x : Link) : (s.setLink l x).xing = s.xing := rfl
@[simp] theorem State.setLink_latch (l : Nat) (x : Link) : (s.setLink l x).latch = s.latch := rfl
@[simp] theorem State.setLink_inbox (l : Nat) (x : Link) : (s.setLink l x).inbox = s.inbox := rfl
@[simp] theorem State.setLink_swapBuf (l : Nat) (x : Link) : (s.setLink l x).swapBuf = s.swapBuf := rfl
@[simp] theorem State.setLink_placed (l : Nat) (x : Link) : (s.setLink l x).placed = s.placed := rfl
@[simp] theorem State.setLink_rdLatch (l : Nat) (x : Link) : (s.setLink l x).rdLatch = s.rdLatch := rfl
@[simp] theorem State.setLink_wrLatch (l : Nat) (x : Link) : (s.setLink l x).wrLatch = s.wrLatch := rfl
@[simp] theorem State.setLink_svc (l : Nat) (x : Link) : (s.setLink l x).svc = s.svc := rfl
@[simp] theorem State.setLink_kl_enable (l : Nat) (x : Link) : (s.setLink l x).kl.enable = s.kl.enable := rfl
@[simp] theorem State.setLink_kl_reason (l : Nat) (x : Link) : (s.setLink l x).kl.reason = s.kl.reason := rfl
@[simp] theorem State.setLink_kl_errlog (l : Nat) (x : Link) : (s.setLink l x).kl.errlog = s.kl.errlog := rfl
@[simp] theorem State.setLink_kl_tag (l : Nat) (x : Link) : (s.setLink l x).kl.tag = s.kl.tag := rfl
@[simp] theorem State.setLink_kl_acqBusy (l : Nat) (x : Link) : (s.setLink l x).kl.acqBusy = s.kl.acqBusy := rfl

@[simp] theorem State.setDom_at (d : Nat) (x : Dom) : (s.setDom d x).pwr.dom = kset {} s.pwr.dom d x := rfl
@[simp] theorem State.setDom_pending (d : Nat) (x : Dom) : (s.setDom d x).pending = s.pending := rfl
@[simp] theorem State.setDom_now (d : Nat) (x : Dom) : (s.setDom d x).now = s.now := rfl
@[simp] theorem State.setDom_fresh (d : Nat) (x : Dom) : (s.setDom d x).fresh = s.fresh := rfl
@[simp] theorem State.setDom_rsp (d : Nat) (x : Dom) : (s.setDom d x).rsp = s.rsp := rfl
@[simp] theorem State.setDom_glb (d : Nat) (x : Dom) : (s.setDom d x).glb = s.glb := rfl
@[simp] theorem State.setDom_tk (d : Nat) (x : Dom) : (s.setDom d x).tk = s.tk := rfl
@[simp] theorem State.setDom_ls (d : Nat) (x : Dom) : (s.setDom d x).ls = s.ls := rfl
@[simp] theorem State.setDom_sched (d : Nat) (x : Dom) : (s.setDom d x).sched = s.sched := rfl
@[simp] theorem State.setDom_sync (d : Nat) (x : Dom) : (s.setDom d x).sync = s.sync := rfl
@[simp] theorem State.setDom_syncWr (d : Nat) (x : Dom) : (s.setDom d x).syncWr = s.syncWr := rfl
@[simp] theorem State.setDom_ink (d : Nat) (x : Dom) : (s.setDom d x).ink = s.ink := rfl
@[simp] theorem State.setDom_hbm (d : Nat) (x : Dom) : (s.setDom d x).hbm = s.hbm := rfl
@[simp] theorem State.setDom_mad (d : Nat) (x : Dom) : (s.setDom d x).mad = s.mad := rfl
@[simp] theorem State.setDom_kl (d : Nat) (x : Dom) : (s.setDom d x).kl = s.kl := rfl
@[simp] theorem State.setDom_coll (d : Nat) (x : Dom) : (s.setDom d x).coll = s.coll := rfl
@[simp] theorem State.setDom_sep (d : Nat) (x : Dom) : (s.setDom d x).sep = s.sep := rfl
@[simp] theorem State.setDom_vel (d : Nat) (x : Dom) : (s.setDom d x).vel = s.vel := rfl
@[simp] theorem State.setDom_plant (d : Nat) (x : Dom) : (s.setDom d x).plant = s.plant := rfl
@[simp] theorem State.setDom_dbg (d : Nat) (x : Dom) : (s.setDom d x).dbg = s.dbg := rfl
@[simp] theorem State.setDom_host (d : Nat) (x : Dom) : (s.setDom d x).host = s.host := rfl
@[simp] theorem State.setDom_pq (d : Nat) (x : Dom) : (s.setDom d x).pq = s.pq := rfl
@[simp] theorem State.setDom_part (d : Nat) (x : Dom) : (s.setDom d x).part = s.part := rfl
@[simp] theorem State.setDom_xing (d : Nat) (x : Dom) : (s.setDom d x).xing = s.xing := rfl
@[simp] theorem State.setDom_latch (d : Nat) (x : Dom) : (s.setDom d x).latch = s.latch := rfl
@[simp] theorem State.setDom_inbox (d : Nat) (x : Dom) : (s.setDom d x).inbox = s.inbox := rfl
@[simp] theorem State.setDom_swapBuf (d : Nat) (x : Dom) : (s.setDom d x).swapBuf = s.swapBuf := rfl
@[simp] theorem State.setDom_placed (d : Nat) (x : Dom) : (s.setDom d x).placed = s.placed := rfl
@[simp] theorem State.setDom_rdLatch (d : Nat) (x : Dom) : (s.setDom d x).rdLatch = s.rdLatch := rfl
@[simp] theorem State.setDom_wrLatch (d : Nat) (x : Dom) : (s.setDom d x).wrLatch = s.wrLatch := rfl
@[simp] theorem State.setDom_svc (d : Nat) (x : Dom) : (s.setDom d x).svc = s.svc := rfl
@[simp] theorem State.setDom_pwr_state (d : Nat) (x : Dom) : (s.setDom d x).pwr.state = s.pwr.state := rfl
@[simp] theorem State.setDom_pwr_going (d : Nat) (x : Dom) : (s.setDom d x).pwr.going = s.pwr.going := rfl
@[simp] theorem State.setDom_pwr_therm (d : Nat) (x : Dom) : (s.setDom d x).pwr.therm = s.pwr.therm := rfl
@[simp] theorem State.setDom_pwr_reason (d : Nat) (x : Dom) : (s.setDom d x).pwr.reason = s.pwr.reason := rfl
@[simp] theorem State.setDom_pwr_errlog (d : Nat) (x : Dom) : (s.setDom d x).pwr.errlog = s.pwr.errlog := rfl

@[simp] theorem State.setWell_at (k : Nat) (x : Inkwell) : (s.setWell k x).ink.well = kset {} s.ink.well k x := rfl
@[simp] theorem State.setWell_pending (k : Nat) (x : Inkwell) : (s.setWell k x).pending = s.pending := rfl
@[simp] theorem State.setWell_now (k : Nat) (x : Inkwell) : (s.setWell k x).now = s.now := rfl
@[simp] theorem State.setWell_fresh (k : Nat) (x : Inkwell) : (s.setWell k x).fresh = s.fresh := rfl
@[simp] theorem State.setWell_rsp (k : Nat) (x : Inkwell) : (s.setWell k x).rsp = s.rsp := rfl
@[simp] theorem State.setWell_glb (k : Nat) (x : Inkwell) : (s.setWell k x).glb = s.glb := rfl
@[simp] theorem State.setWell_tk (k : Nat) (x : Inkwell) : (s.setWell k x).tk = s.tk := rfl
@[simp] theorem State.setWell_ls (k : Nat) (x : Inkwell) : (s.setWell k x).ls = s.ls := rfl
@[simp] theorem State.setWell_sched (k : Nat) (x : Inkwell) : (s.setWell k x).sched = s.sched := rfl
@[simp] theorem State.setWell_sync (k : Nat) (x : Inkwell) : (s.setWell k x).sync = s.sync := rfl
@[simp] theorem State.setWell_syncWr (k : Nat) (x : Inkwell) : (s.setWell k x).syncWr = s.syncWr := rfl
@[simp] theorem State.setWell_hbm (k : Nat) (x : Inkwell) : (s.setWell k x).hbm = s.hbm := rfl
@[simp] theorem State.setWell_mad (k : Nat) (x : Inkwell) : (s.setWell k x).mad = s.mad := rfl
@[simp] theorem State.setWell_kl (k : Nat) (x : Inkwell) : (s.setWell k x).kl = s.kl := rfl
@[simp] theorem State.setWell_coll (k : Nat) (x : Inkwell) : (s.setWell k x).coll = s.coll := rfl
@[simp] theorem State.setWell_sep (k : Nat) (x : Inkwell) : (s.setWell k x).sep = s.sep := rfl
@[simp] theorem State.setWell_vel (k : Nat) (x : Inkwell) : (s.setWell k x).vel = s.vel := rfl
@[simp] theorem State.setWell_plant (k : Nat) (x : Inkwell) : (s.setWell k x).plant = s.plant := rfl
@[simp] theorem State.setWell_dbg (k : Nat) (x : Inkwell) : (s.setWell k x).dbg = s.dbg := rfl
@[simp] theorem State.setWell_pwr (k : Nat) (x : Inkwell) : (s.setWell k x).pwr = s.pwr := rfl
@[simp] theorem State.setWell_host (k : Nat) (x : Inkwell) : (s.setWell k x).host = s.host := rfl
@[simp] theorem State.setWell_pq (k : Nat) (x : Inkwell) : (s.setWell k x).pq = s.pq := rfl
@[simp] theorem State.setWell_part (k : Nat) (x : Inkwell) : (s.setWell k x).part = s.part := rfl
@[simp] theorem State.setWell_xing (k : Nat) (x : Inkwell) : (s.setWell k x).xing = s.xing := rfl
@[simp] theorem State.setWell_latch (k : Nat) (x : Inkwell) : (s.setWell k x).latch = s.latch := rfl
@[simp] theorem State.setWell_inbox (k : Nat) (x : Inkwell) : (s.setWell k x).inbox = s.inbox := rfl
@[simp] theorem State.setWell_swapBuf (k : Nat) (x : Inkwell) : (s.setWell k x).swapBuf = s.swapBuf := rfl
@[simp] theorem State.setWell_placed (k : Nat) (x : Inkwell) : (s.setWell k x).placed = s.placed := rfl
@[simp] theorem State.setWell_rdLatch (k : Nat) (x : Inkwell) : (s.setWell k x).rdLatch = s.rdLatch := rfl
@[simp] theorem State.setWell_wrLatch (k : Nat) (x : Inkwell) : (s.setWell k x).wrLatch = s.wrLatch := rfl
@[simp] theorem State.setWell_svc (k : Nat) (x : Inkwell) : (s.setWell k x).svc = s.svc := rfl
@[simp] theorem State.setWell_ink_enable (k : Nat) (x : Inkwell) : (s.setWell k x).ink.enable = s.ink.enable := rfl
@[simp] theorem State.setWell_ink_hc (k : Nat) (x : Inkwell) : (s.setWell k x).ink.hc = s.ink.hc := rfl
@[simp] theorem State.setWell_ink_pageOwner (k : Nat) (x : Inkwell) : (s.setWell k x).ink.pageOwner = s.ink.pageOwner := rfl
@[simp] theorem State.setWell_ink_reqs (k : Nat) (x : Inkwell) : (s.setWell k x).ink.reqs = s.ink.reqs := rfl
@[simp] theorem State.setWell_ink_fetches (k : Nat) (x : Inkwell) : (s.setWell k x).ink.fetches = s.ink.fetches := rfl
@[simp] theorem State.setWell_ink_errlog (k : Nat) (x : Inkwell) : (s.setWell k x).ink.errlog = s.ink.errlog := rfl

@[simp] theorem State.setHc_at (o : Nat) (x : HCache) : (s.setHc o x).ink.hc = kset {} s.ink.hc o x := rfl
@[simp] theorem State.setHc_pending (o : Nat) (x : HCache) : (s.setHc o x).pending = s.pending := rfl
@[simp] theorem State.setHc_now (o : Nat) (x : HCache) : (s.setHc o x).now = s.now := rfl
@[simp] theorem State.setHc_fresh (o : Nat) (x : HCache) : (s.setHc o x).fresh = s.fresh := rfl
@[simp] theorem State.setHc_rsp (o : Nat) (x : HCache) : (s.setHc o x).rsp = s.rsp := rfl
@[simp] theorem State.setHc_glb (o : Nat) (x : HCache) : (s.setHc o x).glb = s.glb := rfl
@[simp] theorem State.setHc_tk (o : Nat) (x : HCache) : (s.setHc o x).tk = s.tk := rfl
@[simp] theorem State.setHc_ls (o : Nat) (x : HCache) : (s.setHc o x).ls = s.ls := rfl
@[simp] theorem State.setHc_sched (o : Nat) (x : HCache) : (s.setHc o x).sched = s.sched := rfl
@[simp] theorem State.setHc_sync (o : Nat) (x : HCache) : (s.setHc o x).sync = s.sync := rfl
@[simp] theorem State.setHc_syncWr (o : Nat) (x : HCache) : (s.setHc o x).syncWr = s.syncWr := rfl
@[simp] theorem State.setHc_hbm (o : Nat) (x : HCache) : (s.setHc o x).hbm = s.hbm := rfl
@[simp] theorem State.setHc_mad (o : Nat) (x : HCache) : (s.setHc o x).mad = s.mad := rfl
@[simp] theorem State.setHc_kl (o : Nat) (x : HCache) : (s.setHc o x).kl = s.kl := rfl
@[simp] theorem State.setHc_coll (o : Nat) (x : HCache) : (s.setHc o x).coll = s.coll := rfl
@[simp] theorem State.setHc_sep (o : Nat) (x : HCache) : (s.setHc o x).sep = s.sep := rfl
@[simp] theorem State.setHc_vel (o : Nat) (x : HCache) : (s.setHc o x).vel = s.vel := rfl
@[simp] theorem State.setHc_plant (o : Nat) (x : HCache) : (s.setHc o x).plant = s.plant := rfl
@[simp] theorem State.setHc_dbg (o : Nat) (x : HCache) : (s.setHc o x).dbg = s.dbg := rfl
@[simp] theorem State.setHc_pwr (o : Nat) (x : HCache) : (s.setHc o x).pwr = s.pwr := rfl
@[simp] theorem State.setHc_host (o : Nat) (x : HCache) : (s.setHc o x).host = s.host := rfl
@[simp] theorem State.setHc_pq (o : Nat) (x : HCache) : (s.setHc o x).pq = s.pq := rfl
@[simp] theorem State.setHc_part (o : Nat) (x : HCache) : (s.setHc o x).part = s.part := rfl
@[simp] theorem State.setHc_xing (o : Nat) (x : HCache) : (s.setHc o x).xing = s.xing := rfl
@[simp] theorem State.setHc_latch (o : Nat) (x : HCache) : (s.setHc o x).latch = s.latch := rfl
@[simp] theorem State.setHc_inbox (o : Nat) (x : HCache) : (s.setHc o x).inbox = s.inbox := rfl
@[simp] theorem State.setHc_swapBuf (o : Nat) (x : HCache) : (s.setHc o x).swapBuf = s.swapBuf := rfl
@[simp] theorem State.setHc_placed (o : Nat) (x : HCache) : (s.setHc o x).placed = s.placed := rfl
@[simp] theorem State.setHc_rdLatch (o : Nat) (x : HCache) : (s.setHc o x).rdLatch = s.rdLatch := rfl
@[simp] theorem State.setHc_wrLatch (o : Nat) (x : HCache) : (s.setHc o x).wrLatch = s.wrLatch := rfl
@[simp] theorem State.setHc_svc (o : Nat) (x : HCache) : (s.setHc o x).svc = s.svc := rfl
@[simp] theorem State.setHc_ink_enable (o : Nat) (x : HCache) : (s.setHc o x).ink.enable = s.ink.enable := rfl
@[simp] theorem State.setHc_ink_well (o : Nat) (x : HCache) : (s.setHc o x).ink.well = s.ink.well := rfl
@[simp] theorem State.setHc_ink_pageOwner (o : Nat) (x : HCache) : (s.setHc o x).ink.pageOwner = s.ink.pageOwner := rfl
@[simp] theorem State.setHc_ink_reqs (o : Nat) (x : HCache) : (s.setHc o x).ink.reqs = s.ink.reqs := rfl
@[simp] theorem State.setHc_ink_fetches (o : Nat) (x : HCache) : (s.setHc o x).ink.fetches = s.ink.fetches := rfl
@[simp] theorem State.setHc_ink_errlog (o : Nat) (x : HCache) : (s.setHc o x).ink.errlog = s.ink.errlog := rfl

@[simp] theorem State.setSrc_at (n : Nat) (x : Src) : (s.setSrc n x).mad.src = kset {} s.mad.src n x := rfl
@[simp] theorem State.setSrc_pending (n : Nat) (x : Src) : (s.setSrc n x).pending = s.pending := rfl
@[simp] theorem State.setSrc_now (n : Nat) (x : Src) : (s.setSrc n x).now = s.now := rfl
@[simp] theorem State.setSrc_fresh (n : Nat) (x : Src) : (s.setSrc n x).fresh = s.fresh := rfl
@[simp] theorem State.setSrc_rsp (n : Nat) (x : Src) : (s.setSrc n x).rsp = s.rsp := rfl
@[simp] theorem State.setSrc_glb (n : Nat) (x : Src) : (s.setSrc n x).glb = s.glb := rfl
@[simp] theorem State.setSrc_tk (n : Nat) (x : Src) : (s.setSrc n x).tk = s.tk := rfl
@[simp] theorem State.setSrc_ls (n : Nat) (x : Src) : (s.setSrc n x).ls = s.ls := rfl
@[simp] theorem State.setSrc_sched (n : Nat) (x : Src) : (s.setSrc n x).sched = s.sched := rfl
@[simp] theorem State.setSrc_sync (n : Nat) (x : Src) : (s.setSrc n x).sync = s.sync := rfl
@[simp] theorem State.setSrc_syncWr (n : Nat) (x : Src) : (s.setSrc n x).syncWr = s.syncWr := rfl
@[simp] theorem State.setSrc_ink (n : Nat) (x : Src) : (s.setSrc n x).ink = s.ink := rfl
@[simp] theorem State.setSrc_hbm (n : Nat) (x : Src) : (s.setSrc n x).hbm = s.hbm := rfl
@[simp] theorem State.setSrc_kl (n : Nat) (x : Src) : (s.setSrc n x).kl = s.kl := rfl
@[simp] theorem State.setSrc_coll (n : Nat) (x : Src) : (s.setSrc n x).coll = s.coll := rfl
@[simp] theorem State.setSrc_sep (n : Nat) (x : Src) : (s.setSrc n x).sep = s.sep := rfl
@[simp] theorem State.setSrc_vel (n : Nat) (x : Src) : (s.setSrc n x).vel = s.vel := rfl
@[simp] theorem State.setSrc_plant (n : Nat) (x : Src) : (s.setSrc n x).plant = s.plant := rfl
@[simp] theorem State.setSrc_dbg (n : Nat) (x : Src) : (s.setSrc n x).dbg = s.dbg := rfl
@[simp] theorem State.setSrc_pwr (n : Nat) (x : Src) : (s.setSrc n x).pwr = s.pwr := rfl
@[simp] theorem State.setSrc_host (n : Nat) (x : Src) : (s.setSrc n x).host = s.host := rfl
@[simp] theorem State.setSrc_pq (n : Nat) (x : Src) : (s.setSrc n x).pq = s.pq := rfl
@[simp] theorem State.setSrc_part (n : Nat) (x : Src) : (s.setSrc n x).part = s.part := rfl
@[simp] theorem State.setSrc_xing (n : Nat) (x : Src) : (s.setSrc n x).xing = s.xing := rfl
@[simp] theorem State.setSrc_latch (n : Nat) (x : Src) : (s.setSrc n x).latch = s.latch := rfl
@[simp] theorem State.setSrc_inbox (n : Nat) (x : Src) : (s.setSrc n x).inbox = s.inbox := rfl
@[simp] theorem State.setSrc_swapBuf (n : Nat) (x : Src) : (s.setSrc n x).swapBuf = s.swapBuf := rfl
@[simp] theorem State.setSrc_placed (n : Nat) (x : Src) : (s.setSrc n x).placed = s.placed := rfl
@[simp] theorem State.setSrc_rdLatch (n : Nat) (x : Src) : (s.setSrc n x).rdLatch = s.rdLatch := rfl
@[simp] theorem State.setSrc_wrLatch (n : Nat) (x : Src) : (s.setSrc n x).wrLatch = s.wrLatch := rfl
@[simp] theorem State.setSrc_svc (n : Nat) (x : Src) : (s.setSrc n x).svc = s.svc := rfl
@[simp] theorem State.setSrc_mad_inst (n : Nat) (x : Src) : (s.setSrc n x).mad.inst = s.mad.inst := rfl
@[simp] theorem State.setSrc_mad_fatal (n : Nat) (x : Src) : (s.setSrc n x).mad.fatal = s.mad.fatal := rfl
@[simp] theorem State.setSrc_mad_two (n : Nat) (x : Src) : (s.setSrc n x).mad.two = s.mad.two := rfl
@[simp] theorem State.setSrc_mad_started (n : Nat) (x : Src) : (s.setSrc n x).mad.started = s.mad.started := rfl
@[simp] theorem State.setSrc_mad_offer (n : Nat) (x : Src) : (s.setSrc n x).mad.offer = s.mad.offer := rfl

@[simp] theorem State.setInst_at (i : Nat) (x : Drbg) : (s.setInst i x).mad.inst = kset {} s.mad.inst i x := rfl
@[simp] theorem State.setInst_pending (i : Nat) (x : Drbg) : (s.setInst i x).pending = s.pending := rfl
@[simp] theorem State.setInst_now (i : Nat) (x : Drbg) : (s.setInst i x).now = s.now := rfl
@[simp] theorem State.setInst_fresh (i : Nat) (x : Drbg) : (s.setInst i x).fresh = s.fresh := rfl
@[simp] theorem State.setInst_rsp (i : Nat) (x : Drbg) : (s.setInst i x).rsp = s.rsp := rfl
@[simp] theorem State.setInst_glb (i : Nat) (x : Drbg) : (s.setInst i x).glb = s.glb := rfl
@[simp] theorem State.setInst_tk (i : Nat) (x : Drbg) : (s.setInst i x).tk = s.tk := rfl
@[simp] theorem State.setInst_ls (i : Nat) (x : Drbg) : (s.setInst i x).ls = s.ls := rfl
@[simp] theorem State.setInst_sched (i : Nat) (x : Drbg) : (s.setInst i x).sched = s.sched := rfl
@[simp] theorem State.setInst_sync (i : Nat) (x : Drbg) : (s.setInst i x).sync = s.sync := rfl
@[simp] theorem State.setInst_syncWr (i : Nat) (x : Drbg) : (s.setInst i x).syncWr = s.syncWr := rfl
@[simp] theorem State.setInst_ink (i : Nat) (x : Drbg) : (s.setInst i x).ink = s.ink := rfl
@[simp] theorem State.setInst_hbm (i : Nat) (x : Drbg) : (s.setInst i x).hbm = s.hbm := rfl
@[simp] theorem State.setInst_kl (i : Nat) (x : Drbg) : (s.setInst i x).kl = s.kl := rfl
@[simp] theorem State.setInst_coll (i : Nat) (x : Drbg) : (s.setInst i x).coll = s.coll := rfl
@[simp] theorem State.setInst_sep (i : Nat) (x : Drbg) : (s.setInst i x).sep = s.sep := rfl
@[simp] theorem State.setInst_vel (i : Nat) (x : Drbg) : (s.setInst i x).vel = s.vel := rfl
@[simp] theorem State.setInst_plant (i : Nat) (x : Drbg) : (s.setInst i x).plant = s.plant := rfl
@[simp] theorem State.setInst_dbg (i : Nat) (x : Drbg) : (s.setInst i x).dbg = s.dbg := rfl
@[simp] theorem State.setInst_pwr (i : Nat) (x : Drbg) : (s.setInst i x).pwr = s.pwr := rfl
@[simp] theorem State.setInst_host (i : Nat) (x : Drbg) : (s.setInst i x).host = s.host := rfl
@[simp] theorem State.setInst_pq (i : Nat) (x : Drbg) : (s.setInst i x).pq = s.pq := rfl
@[simp] theorem State.setInst_part (i : Nat) (x : Drbg) : (s.setInst i x).part = s.part := rfl
@[simp] theorem State.setInst_xing (i : Nat) (x : Drbg) : (s.setInst i x).xing = s.xing := rfl
@[simp] theorem State.setInst_latch (i : Nat) (x : Drbg) : (s.setInst i x).latch = s.latch := rfl
@[simp] theorem State.setInst_inbox (i : Nat) (x : Drbg) : (s.setInst i x).inbox = s.inbox := rfl
@[simp] theorem State.setInst_swapBuf (i : Nat) (x : Drbg) : (s.setInst i x).swapBuf = s.swapBuf := rfl
@[simp] theorem State.setInst_placed (i : Nat) (x : Drbg) : (s.setInst i x).placed = s.placed := rfl
@[simp] theorem State.setInst_rdLatch (i : Nat) (x : Drbg) : (s.setInst i x).rdLatch = s.rdLatch := rfl
@[simp] theorem State.setInst_wrLatch (i : Nat) (x : Drbg) : (s.setInst i x).wrLatch = s.wrLatch := rfl
@[simp] theorem State.setInst_svc (i : Nat) (x : Drbg) : (s.setInst i x).svc = s.svc := rfl
@[simp] theorem State.setInst_mad_src (i : Nat) (x : Drbg) : (s.setInst i x).mad.src = s.mad.src := rfl
@[simp] theorem State.setInst_mad_fatal (i : Nat) (x : Drbg) : (s.setInst i x).mad.fatal = s.mad.fatal := rfl
@[simp] theorem State.setInst_mad_two (i : Nat) (x : Drbg) : (s.setInst i x).mad.two = s.mad.two := rfl
@[simp] theorem State.setInst_mad_started (i : Nat) (x : Drbg) : (s.setInst i x).mad.started = s.mad.started := rfl
@[simp] theorem State.setInst_mad_offer (i : Nat) (x : Drbg) : (s.setInst i x).mad.offer = s.mad.offer := rfl

@[simp] theorem State.setGrp_at (g : Nat) (x : Grp) : (s.setGrp g x).coll.grp = kset {} s.coll.grp g x := rfl
@[simp] theorem State.setGrp_pending (g : Nat) (x : Grp) : (s.setGrp g x).pending = s.pending := rfl
@[simp] theorem State.setGrp_now (g : Nat) (x : Grp) : (s.setGrp g x).now = s.now := rfl
@[simp] theorem State.setGrp_fresh (g : Nat) (x : Grp) : (s.setGrp g x).fresh = s.fresh := rfl
@[simp] theorem State.setGrp_rsp (g : Nat) (x : Grp) : (s.setGrp g x).rsp = s.rsp := rfl
@[simp] theorem State.setGrp_glb (g : Nat) (x : Grp) : (s.setGrp g x).glb = s.glb := rfl
@[simp] theorem State.setGrp_tk (g : Nat) (x : Grp) : (s.setGrp g x).tk = s.tk := rfl
@[simp] theorem State.setGrp_ls (g : Nat) (x : Grp) : (s.setGrp g x).ls = s.ls := rfl
@[simp] theorem State.setGrp_sched (g : Nat) (x : Grp) : (s.setGrp g x).sched = s.sched := rfl
@[simp] theorem State.setGrp_sync (g : Nat) (x : Grp) : (s.setGrp g x).sync = s.sync := rfl
@[simp] theorem State.setGrp_syncWr (g : Nat) (x : Grp) : (s.setGrp g x).syncWr = s.syncWr := rfl
@[simp] theorem State.setGrp_ink (g : Nat) (x : Grp) : (s.setGrp g x).ink = s.ink := rfl
@[simp] theorem State.setGrp_hbm (g : Nat) (x : Grp) : (s.setGrp g x).hbm = s.hbm := rfl
@[simp] theorem State.setGrp_mad (g : Nat) (x : Grp) : (s.setGrp g x).mad = s.mad := rfl
@[simp] theorem State.setGrp_kl (g : Nat) (x : Grp) : (s.setGrp g x).kl = s.kl := rfl
@[simp] theorem State.setGrp_sep (g : Nat) (x : Grp) : (s.setGrp g x).sep = s.sep := rfl
@[simp] theorem State.setGrp_vel (g : Nat) (x : Grp) : (s.setGrp g x).vel = s.vel := rfl
@[simp] theorem State.setGrp_plant (g : Nat) (x : Grp) : (s.setGrp g x).plant = s.plant := rfl
@[simp] theorem State.setGrp_dbg (g : Nat) (x : Grp) : (s.setGrp g x).dbg = s.dbg := rfl
@[simp] theorem State.setGrp_pwr (g : Nat) (x : Grp) : (s.setGrp g x).pwr = s.pwr := rfl
@[simp] theorem State.setGrp_host (g : Nat) (x : Grp) : (s.setGrp g x).host = s.host := rfl
@[simp] theorem State.setGrp_pq (g : Nat) (x : Grp) : (s.setGrp g x).pq = s.pq := rfl
@[simp] theorem State.setGrp_part (g : Nat) (x : Grp) : (s.setGrp g x).part = s.part := rfl
@[simp] theorem State.setGrp_xing (g : Nat) (x : Grp) : (s.setGrp g x).xing = s.xing := rfl
@[simp] theorem State.setGrp_latch (g : Nat) (x : Grp) : (s.setGrp g x).latch = s.latch := rfl
@[simp] theorem State.setGrp_inbox (g : Nat) (x : Grp) : (s.setGrp g x).inbox = s.inbox := rfl
@[simp] theorem State.setGrp_swapBuf (g : Nat) (x : Grp) : (s.setGrp g x).swapBuf = s.swapBuf := rfl
@[simp] theorem State.setGrp_placed (g : Nat) (x : Grp) : (s.setGrp g x).placed = s.placed := rfl
@[simp] theorem State.setGrp_rdLatch (g : Nat) (x : Grp) : (s.setGrp g x).rdLatch = s.rdLatch := rfl
@[simp] theorem State.setGrp_wrLatch (g : Nat) (x : Grp) : (s.setGrp g x).wrLatch = s.wrLatch := rfl
@[simp] theorem State.setGrp_svc (g : Nat) (x : Grp) : (s.setGrp g x).svc = s.svc := rfl
@[simp] theorem State.setGrp_coll_reason (g : Nat) (x : Grp) : (s.setGrp g x).coll.reason = s.coll.reason := rfl
@[simp] theorem State.setGrp_coll_errlog (g : Nat) (x : Grp) : (s.setGrp g x).coll.errlog = s.coll.errlog := rfl

@[simp] theorem State.setSport_at (n : Nat) (x : Sport) : (s.setSport n x).vel.sport = kset {} s.vel.sport n x := rfl
@[simp] theorem State.setSport_pending (n : Nat) (x : Sport) : (s.setSport n x).pending = s.pending := rfl
@[simp] theorem State.setSport_now (n : Nat) (x : Sport) : (s.setSport n x).now = s.now := rfl
@[simp] theorem State.setSport_fresh (n : Nat) (x : Sport) : (s.setSport n x).fresh = s.fresh := rfl
@[simp] theorem State.setSport_rsp (n : Nat) (x : Sport) : (s.setSport n x).rsp = s.rsp := rfl
@[simp] theorem State.setSport_glb (n : Nat) (x : Sport) : (s.setSport n x).glb = s.glb := rfl
@[simp] theorem State.setSport_tk (n : Nat) (x : Sport) : (s.setSport n x).tk = s.tk := rfl
@[simp] theorem State.setSport_ls (n : Nat) (x : Sport) : (s.setSport n x).ls = s.ls := rfl
@[simp] theorem State.setSport_sched (n : Nat) (x : Sport) : (s.setSport n x).sched = s.sched := rfl
@[simp] theorem State.setSport_sync (n : Nat) (x : Sport) : (s.setSport n x).sync = s.sync := rfl
@[simp] theorem State.setSport_syncWr (n : Nat) (x : Sport) : (s.setSport n x).syncWr = s.syncWr := rfl
@[simp] theorem State.setSport_ink (n : Nat) (x : Sport) : (s.setSport n x).ink = s.ink := rfl
@[simp] theorem State.setSport_hbm (n : Nat) (x : Sport) : (s.setSport n x).hbm = s.hbm := rfl
@[simp] theorem State.setSport_mad (n : Nat) (x : Sport) : (s.setSport n x).mad = s.mad := rfl
@[simp] theorem State.setSport_kl (n : Nat) (x : Sport) : (s.setSport n x).kl = s.kl := rfl
@[simp] theorem State.setSport_coll (n : Nat) (x : Sport) : (s.setSport n x).coll = s.coll := rfl
@[simp] theorem State.setSport_sep (n : Nat) (x : Sport) : (s.setSport n x).sep = s.sep := rfl
@[simp] theorem State.setSport_plant (n : Nat) (x : Sport) : (s.setSport n x).plant = s.plant := rfl
@[simp] theorem State.setSport_dbg (n : Nat) (x : Sport) : (s.setSport n x).dbg = s.dbg := rfl
@[simp] theorem State.setSport_pwr (n : Nat) (x : Sport) : (s.setSport n x).pwr = s.pwr := rfl
@[simp] theorem State.setSport_host (n : Nat) (x : Sport) : (s.setSport n x).host = s.host := rfl
@[simp] theorem State.setSport_pq (n : Nat) (x : Sport) : (s.setSport n x).pq = s.pq := rfl
@[simp] theorem State.setSport_part (n : Nat) (x : Sport) : (s.setSport n x).part = s.part := rfl
@[simp] theorem State.setSport_xing (n : Nat) (x : Sport) : (s.setSport n x).xing = s.xing := rfl
@[simp] theorem State.setSport_latch (n : Nat) (x : Sport) : (s.setSport n x).latch = s.latch := rfl
@[simp] theorem State.setSport_inbox (n : Nat) (x : Sport) : (s.setSport n x).inbox = s.inbox := rfl
@[simp] theorem State.setSport_swapBuf (n : Nat) (x : Sport) : (s.setSport n x).swapBuf = s.swapBuf := rfl
@[simp] theorem State.setSport_placed (n : Nat) (x : Sport) : (s.setSport n x).placed = s.placed := rfl
@[simp] theorem State.setSport_rdLatch (n : Nat) (x : Sport) : (s.setSport n x).rdLatch = s.rdLatch := rfl
@[simp] theorem State.setSport_wrLatch (n : Nat) (x : Sport) : (s.setSport n x).wrLatch = s.wrLatch := rfl
@[simp] theorem State.setSport_svc (n : Nat) (x : Sport) : (s.setSport n x).svc = s.svc := rfl
@[simp] theorem State.setSport_vel_release (n : Nat) (x : Sport) : (s.setSport n x).vel.release = s.vel.release := rfl
@[simp] theorem State.setSport_vel_stage (n : Nat) (x : Sport) : (s.setSport n x).vel.stage = s.vel.stage := rfl
@[simp] theorem State.setSport_vel_frames (n : Nat) (x : Sport) : (s.setSport n x).vel.frames = s.vel.frames := rfl
@[simp] theorem State.setSport_vel_gcfg (n : Nat) (x : Sport) : (s.setSport n x).vel.gcfg = s.vel.gcfg := rfl
@[simp] theorem State.setSport_vel_loaded (n : Nat) (x : Sport) : (s.setSport n x).vel.loaded = s.vel.loaded := rfl
@[simp] theorem State.setSport_vel_lock (n : Nat) (x : Sport) : (s.setSport n x).vel.lock = s.vel.lock := rfl
@[simp] theorem State.setSport_vel_ufl (n : Nat) (x : Sport) : (s.setSport n x).vel.ufl = s.vel.ufl := rfl
@[simp] theorem State.setSport_vel_cfl (n : Nat) (x : Sport) : (s.setSport n x).vel.cfl = s.vel.cfl := rfl

-- Updates of a partition and of a logical Quill, where there is one
@[simp] theorem State.modPart_pending (p : PartId) (f : Part → Part) : (s.modPart p f).pending = s.pending := by
  unfold State.modPart; split <;> rfl
@[simp] theorem State.modLq_pending (i : LqId) (f : Lq → Lq) : (s.modLq i f).pending = s.pending := State.modPart_pending ..
@[simp] theorem State.modPart_now (p : PartId) (f : Part → Part) : (s.modPart p f).now = s.now := by
  unfold State.modPart; split <;> rfl
@[simp] theorem State.modLq_now (i : LqId) (f : Lq → Lq) : (s.modLq i f).now = s.now := State.modPart_now ..
@[simp] theorem State.modPart_fresh (p : PartId) (f : Part → Part) : (s.modPart p f).fresh = s.fresh := by
  unfold State.modPart; split <;> rfl
@[simp] theorem State.modLq_fresh (i : LqId) (f : Lq → Lq) : (s.modLq i f).fresh = s.fresh := State.modPart_fresh ..
@[simp] theorem State.modPart_rsp (p : PartId) (f : Part → Part) : (s.modPart p f).rsp = s.rsp := by
  unfold State.modPart; split <;> rfl
@[simp] theorem State.modLq_rsp (i : LqId) (f : Lq → Lq) : (s.modLq i f).rsp = s.rsp := State.modPart_rsp ..
@[simp] theorem State.modPart_glb (p : PartId) (f : Part → Part) : (s.modPart p f).glb = s.glb := by
  unfold State.modPart; split <;> rfl
@[simp] theorem State.modLq_glb (i : LqId) (f : Lq → Lq) : (s.modLq i f).glb = s.glb := State.modPart_glb ..
@[simp] theorem State.modPart_tk (p : PartId) (f : Part → Part) : (s.modPart p f).tk = s.tk := by
  unfold State.modPart; split <;> rfl
@[simp] theorem State.modLq_tk (i : LqId) (f : Lq → Lq) : (s.modLq i f).tk = s.tk := State.modPart_tk ..
@[simp] theorem State.modPart_ls (p : PartId) (f : Part → Part) : (s.modPart p f).ls = s.ls := by
  unfold State.modPart; split <;> rfl
@[simp] theorem State.modLq_ls (i : LqId) (f : Lq → Lq) : (s.modLq i f).ls = s.ls := State.modPart_ls ..
@[simp] theorem State.modPart_sched (p : PartId) (f : Part → Part) : (s.modPart p f).sched = s.sched := by
  unfold State.modPart; split <;> rfl
@[simp] theorem State.modLq_sched (i : LqId) (f : Lq → Lq) : (s.modLq i f).sched = s.sched := State.modPart_sched ..
@[simp] theorem State.modPart_sync (p : PartId) (f : Part → Part) : (s.modPart p f).sync = s.sync := by
  unfold State.modPart; split <;> rfl
@[simp] theorem State.modLq_sync (i : LqId) (f : Lq → Lq) : (s.modLq i f).sync = s.sync := State.modPart_sync ..
@[simp] theorem State.modPart_syncWr (p : PartId) (f : Part → Part) : (s.modPart p f).syncWr = s.syncWr := by
  unfold State.modPart; split <;> rfl
@[simp] theorem State.modLq_syncWr (i : LqId) (f : Lq → Lq) : (s.modLq i f).syncWr = s.syncWr := State.modPart_syncWr ..
@[simp] theorem State.modPart_ink (p : PartId) (f : Part → Part) : (s.modPart p f).ink = s.ink := by
  unfold State.modPart; split <;> rfl
@[simp] theorem State.modLq_ink (i : LqId) (f : Lq → Lq) : (s.modLq i f).ink = s.ink := State.modPart_ink ..
@[simp] theorem State.modPart_hbm (p : PartId) (f : Part → Part) : (s.modPart p f).hbm = s.hbm := by
  unfold State.modPart; split <;> rfl
@[simp] theorem State.modLq_hbm (i : LqId) (f : Lq → Lq) : (s.modLq i f).hbm = s.hbm := State.modPart_hbm ..
@[simp] theorem State.modPart_mad (p : PartId) (f : Part → Part) : (s.modPart p f).mad = s.mad := by
  unfold State.modPart; split <;> rfl
@[simp] theorem State.modLq_mad (i : LqId) (f : Lq → Lq) : (s.modLq i f).mad = s.mad := State.modPart_mad ..
@[simp] theorem State.modPart_kl (p : PartId) (f : Part → Part) : (s.modPart p f).kl = s.kl := by
  unfold State.modPart; split <;> rfl
@[simp] theorem State.modLq_kl (i : LqId) (f : Lq → Lq) : (s.modLq i f).kl = s.kl := State.modPart_kl ..
@[simp] theorem State.modPart_coll (p : PartId) (f : Part → Part) : (s.modPart p f).coll = s.coll := by
  unfold State.modPart; split <;> rfl
@[simp] theorem State.modLq_coll (i : LqId) (f : Lq → Lq) : (s.modLq i f).coll = s.coll := State.modPart_coll ..
@[simp] theorem State.modPart_sep (p : PartId) (f : Part → Part) : (s.modPart p f).sep = s.sep := by
  unfold State.modPart; split <;> rfl
@[simp] theorem State.modLq_sep (i : LqId) (f : Lq → Lq) : (s.modLq i f).sep = s.sep := State.modPart_sep ..
@[simp] theorem State.modPart_vel (p : PartId) (f : Part → Part) : (s.modPart p f).vel = s.vel := by
  unfold State.modPart; split <;> rfl
@[simp] theorem State.modLq_vel (i : LqId) (f : Lq → Lq) : (s.modLq i f).vel = s.vel := State.modPart_vel ..
@[simp] theorem State.modPart_plant (p : PartId) (f : Part → Part) : (s.modPart p f).plant = s.plant := by
  unfold State.modPart; split <;> rfl
@[simp] theorem State.modLq_plant (i : LqId) (f : Lq → Lq) : (s.modLq i f).plant = s.plant := State.modPart_plant ..
@[simp] theorem State.modPart_dbg (p : PartId) (f : Part → Part) : (s.modPart p f).dbg = s.dbg := by
  unfold State.modPart; split <;> rfl
@[simp] theorem State.modLq_dbg (i : LqId) (f : Lq → Lq) : (s.modLq i f).dbg = s.dbg := State.modPart_dbg ..
@[simp] theorem State.modPart_pwr (p : PartId) (f : Part → Part) : (s.modPart p f).pwr = s.pwr := by
  unfold State.modPart; split <;> rfl
@[simp] theorem State.modLq_pwr (i : LqId) (f : Lq → Lq) : (s.modLq i f).pwr = s.pwr := State.modPart_pwr ..
@[simp] theorem State.modPart_host (p : PartId) (f : Part → Part) : (s.modPart p f).host = s.host := by
  unfold State.modPart; split <;> rfl
@[simp] theorem State.modLq_host (i : LqId) (f : Lq → Lq) : (s.modLq i f).host = s.host := State.modPart_host ..
@[simp] theorem State.modPart_pq (p : PartId) (f : Part → Part) : (s.modPart p f).pq = s.pq := by
  unfold State.modPart; split <;> rfl
@[simp] theorem State.modLq_pq (i : LqId) (f : Lq → Lq) : (s.modLq i f).pq = s.pq := State.modPart_pq ..
@[simp] theorem State.modPart_xing (p : PartId) (f : Part → Part) : (s.modPart p f).xing = s.xing := by
  unfold State.modPart; split <;> rfl
@[simp] theorem State.modLq_xing (i : LqId) (f : Lq → Lq) : (s.modLq i f).xing = s.xing := State.modPart_xing ..
@[simp] theorem State.modPart_latch (p : PartId) (f : Part → Part) : (s.modPart p f).latch = s.latch := by
  unfold State.modPart; split <;> rfl
@[simp] theorem State.modLq_latch (i : LqId) (f : Lq → Lq) : (s.modLq i f).latch = s.latch := State.modPart_latch ..
@[simp] theorem State.modPart_inbox (p : PartId) (f : Part → Part) : (s.modPart p f).inbox = s.inbox := by
  unfold State.modPart; split <;> rfl
@[simp] theorem State.modLq_inbox (i : LqId) (f : Lq → Lq) : (s.modLq i f).inbox = s.inbox := State.modPart_inbox ..
@[simp] theorem State.modPart_swapBuf (p : PartId) (f : Part → Part) : (s.modPart p f).swapBuf = s.swapBuf := by
  unfold State.modPart; split <;> rfl
@[simp] theorem State.modLq_swapBuf (i : LqId) (f : Lq → Lq) : (s.modLq i f).swapBuf = s.swapBuf := State.modPart_swapBuf ..
@[simp] theorem State.modPart_placed (p : PartId) (f : Part → Part) : (s.modPart p f).placed = s.placed := by
  unfold State.modPart; split <;> rfl
@[simp] theorem State.modLq_placed (i : LqId) (f : Lq → Lq) : (s.modLq i f).placed = s.placed := State.modPart_placed ..
@[simp] theorem State.modPart_rdLatch (p : PartId) (f : Part → Part) : (s.modPart p f).rdLatch = s.rdLatch := by
  unfold State.modPart; split <;> rfl
@[simp] theorem State.modLq_rdLatch (i : LqId) (f : Lq → Lq) : (s.modLq i f).rdLatch = s.rdLatch := State.modPart_rdLatch ..
@[simp] theorem State.modPart_wrLatch (p : PartId) (f : Part → Part) : (s.modPart p f).wrLatch = s.wrLatch := by
  unfold State.modPart; split <;> rfl
@[simp] theorem State.modLq_wrLatch (i : LqId) (f : Lq → Lq) : (s.modLq i f).wrLatch = s.wrLatch := State.modPart_wrLatch ..
@[simp] theorem State.modPart_svc (p : PartId) (f : Part → Part) : (s.modPart p f).svc = s.svc := by
  unfold State.modPart; split <;> rfl
@[simp] theorem State.modLq_svc (i : LqId) (f : Lq → Lq) : (s.modLq i f).svc = s.svc := State.modPart_svc ..

-- Reading back
theorem State.setPq_pqAt (q : Nat) (x : Pq) (h : kwf {} s.pq = true) : (s.setPq q x).pqAt q = x := kget_kset_self _ h _ _
theorem State.setPq_pqAt_ne (q : Nat) (x : Pq) (j : Nat) (h : kwf {} s.pq = true) (hj : j ≠ q) : (s.setPq q x).pqAt j = s.pqAt j :=
  kget_kset_ne _ h _ hj
theorem State.setOwn_ownAt (o : Nat) (x : Own) (h : kwf {} s.sched.own = true) : (s.setOwn o x).ownAt o = x := kget_kset_self _ h _ _
theorem State.setOwn_ownAt_ne (o : Nat) (x : Own) (j : Nat) (h : kwf {} s.sched.own = true) (hj : j ≠ o) : (s.setOwn o x).ownAt j = s.ownAt j :=
  kget_kset_ne _ h _ hj
theorem State.setSync_syncAt (n : Nat) (x : SyncObj) (h : kwf {} s.sync = true) : (s.setSync n x).syncAt n = x := kget_kset_self _ h _ _
theorem State.setSync_syncAt_ne (n : Nat) (x : SyncObj) (j : Nat) (h : kwf {} s.sync = true) (hj : j ≠ n) : (s.setSync n x).syncAt j = s.syncAt j :=
  kget_kset_ne _ h _ hj
theorem State.setCore_coreAt (c : Nat) (x : Core) (h : kwf {} s.sep.core = true) : (s.setCore c x).coreAt c = x := kget_kset_self _ h _ _
theorem State.setCore_coreAt_ne (c : Nat) (x : Core) (j : Nat) (h : kwf {} s.sep.core = true) (hj : j ≠ c) : (s.setCore c x).coreAt j = s.coreAt j :=
  kget_kset_ne _ h _ hj
theorem State.setDcore_dcoreAt (c : Nat) (x : DbgCore) (h : kwf {} s.dbg.core = true) : (s.setDcore c x).dcoreAt c = x := kget_kset_self _ h _ _
theorem State.setDcore_dcoreAt_ne (c : Nat) (x : DbgCore) (j : Nat) (h : kwf {} s.dbg.core = true) (hj : j ≠ c) : (s.setDcore c x).dcoreAt j = s.dcoreAt j :=
  kget_kset_ne _ h _ hj
theorem State.setLink_linkAt (l : Nat) (x : Link) (h : kwf {} s.kl.link = true) : (s.setLink l x).linkAt l = x := kget_kset_self _ h _ _
theorem State.setLink_linkAt_ne (l : Nat) (x : Link) (j : Nat) (h : kwf {} s.kl.link = true) (hj : j ≠ l) : (s.setLink l x).linkAt j = s.linkAt j :=
  kget_kset_ne _ h _ hj
theorem State.setDom_domAt (d : Nat) (x : Dom) (h : kwf {} s.pwr.dom = true) : (s.setDom d x).domAt d = x := kget_kset_self _ h _ _
theorem State.setDom_domAt_ne (d : Nat) (x : Dom) (j : Nat) (h : kwf {} s.pwr.dom = true) (hj : j ≠ d) : (s.setDom d x).domAt j = s.domAt j :=
  kget_kset_ne _ h _ hj
theorem State.setSrc_srcAt (n : Nat) (x : Src) (h : kwf {} s.mad.src = true) : (s.setSrc n x).srcAt n = x := kget_kset_self _ h _ _
theorem State.setSrc_srcAt_ne (n : Nat) (x : Src) (j : Nat) (h : kwf {} s.mad.src = true) (hj : j ≠ n) : (s.setSrc n x).srcAt j = s.srcAt j :=
  kget_kset_ne _ h _ hj
theorem State.setInst_instAt (i : Nat) (x : Drbg) (h : kwf {} s.mad.inst = true) : (s.setInst i x).instAt i = x := kget_kset_self _ h _ _
theorem State.setInst_instAt_ne (i : Nat) (x : Drbg) (j : Nat) (h : kwf {} s.mad.inst = true) (hj : j ≠ i) : (s.setInst i x).instAt j = s.instAt j :=
  kget_kset_ne _ h _ hj
theorem State.setSport_sportAt (n : Nat) (x : Sport) (h : kwf {} s.vel.sport = true) : (s.setSport n x).sportAt n = x := kget_kset_self _ h _ _
theorem State.setSport_sportAt_ne (n : Nat) (x : Sport) (j : Nat) (h : kwf {} s.vel.sport = true) (hj : j ≠ n) : (s.setSport n x).sportAt j = s.sportAt j :=
  kget_kset_ne _ h _ hj
theorem State.setGrp_grpAt (g : Nat) (x : Grp) (h : kwf {} s.coll.grp = true) : (s.setGrp g x).grpAt g = x := kget_kset_self _ h _ _
theorem State.setGrp_grpAt_ne (g : Nat) (x : Grp) (j : Nat) (h : kwf {} s.coll.grp = true) (hj : j ≠ g) : (s.setGrp g x).grpAt j = s.grpAt j :=
  kget_kset_ne _ h _ hj
theorem State.setWell_wellAt (k : Nat) (x : Inkwell) (h : kwf {} s.ink.well = true) : (s.setWell k x).wellAt k = x := kget_kset_self _ h _ _
theorem State.setWell_wellAt_ne (k : Nat) (x : Inkwell) (j : Nat) (h : kwf {} s.ink.well = true) (hj : j ≠ k) : (s.setWell k x).wellAt j = s.wellAt j :=
  kget_kset_ne _ h _ hj
theorem State.setHc_hcAt (o : Nat) (x : HCache) (h : kwf {} s.ink.hc = true) : (s.setHc o x).hcAt o = x := kget_kset_self _ h _ _
theorem State.setHc_hcAt_ne (o : Nat) (x : HCache) (j : Nat) (h : kwf {} s.ink.hc = true) (hj : j ≠ o) : (s.setHc o x).hcAt j = s.hcAt j :=
  kget_kset_ne _ h _ hj
theorem State.setQueue_queueAt (o k : Nat) (x : Queue) (h : kwf {} s.sched.queue = true) : (s.setQueue o k x).queueAt o k = x :=
  kget_kset_self _ h _ _
@[simp] theorem State.setPart_partAt (x : Part) : (s.setPart x).partAt x.id = some x := kfind_kput_self ..
theorem State.setPart_partAt_ne (x : Part) (p : PartId) (h : p.key ≠ x.id.key) : (s.setPart x).partAt p = s.partAt p := kfind_kput_ne _ _ h
/-- Two partitions have the same key only if they are the same. -/
theorem PartId.key_inj {p q : PartId} (h : p.key = q.key) : p = q := by
  obtain ⟨o, i⟩ := p
  obtain ⟨o', i'⟩ := q
  simp only [PartId.key] at h
  have h1 := i.isLt
  have h2 := i'.isLt
  have ho : o = o' := BitVec.eq_of_toNat_eq (by omega)
  subst ho
  have hi : i = i' := BitVec.eq_of_toNat_eq (by omega)
  subst hi
  rfl

end Sys2Proof.Machine
end

