-- ==== Sys2Proof/Tests/Slice0.lean ====
section
/-!
SUPPORT. Tests: ill-formed commands, reference values of the spec, and for each statement states and operands that meet its
hypotheses.
-/
namespace Sys2Proof.Machine.Tests
open Sys2Proof Sys2Proof.Machine
set_option Elab.async false

-- Well-formed commands
/-- One ill-formed command for each check of Instr.wf. -/
theorem test_ill_formed_commands_are_refused : ∀ i ∈
    [Instr.pairReadLo 0x110 0x030000000002, .pairReadLo 0x1FF 0x030000000000, .storeWindowRead 0x110 0x010000000000 65,
     .storeWindowRead 0x110 0x010000000000 0, .storeWindowWrite 0x110 0x010000000004 0xFF 0, .nnCalibrationEnd 0 [] true 0,
     .nnCalibrationEnd 0 (List.replicate 256 0) true 4097, .launchTick 65 0, .doorbell 66 0 0, .syncAlloc 0x1FE 1, .syncAlloc 0x110 65,
     .pageResident 0 [(5, 0), (5, 1)], .ringSlotFetch 1 0 [(9, 0), (3, 0)], .bar4Access 0 false 65 0, .bar4Access 63 false 2 0,
     .bar4Access 0 true 0 0, .pageOwnerWrite 49152 0, .hbmRefresh 6, .patrolRead 7, .instantiate 5, .sepClaim 0x108 0, .rxdata 0x100 6,
     .txdata 7 0, .velDly 192 0, .tapStep 255, .irqSourceActive 29, .flashOperationDone 3, .bramCollision 0 [(2 ^ 20, true)],
     .domainGateRequest 41, .supplyFault [3, 63], .telemetrySample 0 [], .msixCauseActive 64, .msixCauseActive 80, .msixUnmask 80,
     .barAccessError 1 0 true, .pcieLinkUp true 3,
     .lsRecordReceive { epoch := 0, cCmd := 0, cQ := [], regions := [0], words := [] }], i.wf = false := by decide +kernel

theorem test_well_formed_commands : ∀ i ∈
    [Instr.pairReadLo 0x110 0x030000000004, .storeWindowRead 0x107 0x010000000000 64, .launchTick 64 63, .bar4Access 0 true 64 0,
     .hbmRefresh 5, .velDly 191 63, .domainGateRequest 40, .telemetrySample 0 (List.replicate 8 0), .msixUnmask 79], i.wf = true := by decide +kernel

-- Reference values of the spec
/-- R304, Table 08.3. -/
theorem test_woad_vectors :
    woad 0 0 0 0 = 0x0F8C4505AAD28114F6B132AA106056CE ∧ woad 0x5EED0003 0 0 0 = 0xC3587BFC10CBE1DE7104506A88AB696C ∧
    woad 0 0x0B37 0x40 1 = 0xD02A68C6ACEB1445045F484E03A6F043 ∧ variate 0 0x0B37 0x40 1 = 61507 := by decide +kernel

/-- Table 08.4: the state of vector 1 after rounds 0 and 4. -/
theorem test_woad_rounds :
    woadRound 0 0 0 ⟨0, 0, 0, 0x5E97A3C1⟩ = ⟨0, 0xC934629F, 0x5E97A3C1, 0⟩ ∧
    woadRound 0 0 4 ⟨0x17F778E1, 0xBBB6DF23, 0x4BA5557E, 0xA0D0C7E3⟩ = ⟨0xD3AE5808, 0x3CB1FEC1, 0xEC761D61, 0xBE5C63B3⟩ := by
  decide +kernel

/-- R453: the check value of the CRC-32. -/
theorem test_crc32 : crc32 [0x31, 0x32, 0x33, 0x34, 0x35, 0x36, 0x37, 0x38, 0x39] = 0xCBF43926 := by decide +kernel

/-- Chapter 05: the instruction words of its examples, and what they say. -/
theorem test_instruction_words :
    insOf 0x940000020D800000 = ⟨0x25, 0, false, 0, 0, 0, 2, 0x0D800000⟩ ∧ insOf 0x900010031CE00000 = ⟨0x24, 0, false, 0, 1, 0, 3, 0x1CE00000⟩ ∧
    insOf 0x8000200000000000 = ⟨0x20, 0, false, 0, 2, 0, 0, 0⟩ ∧ insOf 0xA400000000000100 = ⟨0x29, 0, false, 0, 0, 0, 0, 0x100⟩ ∧
    insOf 0xA000000000000200 = ⟨0x28, 0, false, 0, 0, 0, 0, 0x200⟩ ∧ insOf 0x8400300000000000 = ⟨0x21, 0, false, 0, 3, 0, 0, 0⟩ ∧
    [0x940000020D800000, 0x900010031CE00000, 0x8000200000000000, 0xA400000000000100, 0xA000000000000200, 0x8400300000000000].all
      (fun w => encOk (insOf w) 0) = true ∧ (insOf 0x940000020D800000).im 26 6 = 3 ∧ (insOf 0x940000020D800000).im 21 5 = 12 ∧
    (insOf 0x900010031CE00000).im 26 6 = 7 ∧ (insOf 0x900010031CE00000).im 21 5 = 7 := by decide +kernel

/-- R143: words that fail the encoding checks: an undefined OP, a reserved FN, an IMM where none is allowed. -/
theorem test_undefined_words : [0xFC00000100000000, 0x0400000E00000000, 0x0400000000000001, 0x5400000000000000].all
    (fun w => !encOk (insOf w) 0) = true := by decide +kernel

-- A Quill at work
/-- An instruction word from its fields. -/
def ins (op fn rd ra rb imm : Nat) : W64 := BitVec.ofNat 64 (op * 2 ^ 58 + rd * 2 ^ 49 + ra * 2 ^ 44 + rb * 2 ^ 39 + fn * 2 ^ 32 + imm)

/-- Partition 0 of context 1, its logical Quill 0, and the address registers a0 (state), a1 (model), a2 (scratch). -/
def pid : PartId := { owner := 1, pid := 0 }
def id0 : LqId := { part := pid, l := 0 }
def lq0 : Lq :=
  { s := [(1, 2), (2, 7)], a := [(1, 0x200000000000), (2, 0x100000000000)], len := 4, xt := 100, chIn := [(0, [5])]
    frames := [(0, { page := some 0 })], plane0 := { fmt := some 0 }, plane1 := { fmt := some 2 } }
def part0 : Part :=
  { id := pid, st := .running, nlq := 2, handles := [(0, some 5)], lqs := [(0, lq0)]
    chans := [{ src := 0, outCh := 0, dst := 1, inCh := 0 }, { src := 1, outCh := 0, dst := 0, inCh := 0 }] }

/-- Quill 0 runs that logical Quill, with `w` at index 0 of the image. -/
def quillAtWork (w : W64) : State :=
  { pq := [(0, { res := some id0, running := true, st := { tag := 1, written := [(prBase / 64, true)], mem := kbytes 0 [] prBase (wordBytes 8 w) } })]
    part := [(64, part0)], sync := [(5, { owner := 1 })], plant := { decBind := [(0, pid)], evBind := [(0, pid)] } }

/-- What the sequencer of Quill 0 is given in `s` for the word `w`. -/
def ctxIn (s : State) (w : W64) : QCtx :=
  match quillAt 0 s with
  | some c => { c with i := insOf w }
  | none => { q := 0, id := id0, part := part0, lq := lq0, pq := {}, i := insOf w }

/-- Quill 0 is at the issue tick of `w`, decidably. -/
def atIssueB (w : W64) (s : State) : Bool :=
  match quillAt 0 s with
  | none => false
  | some c0 => decide (c0.i = insOf 0) && decide (c0.lq.pc < c0.lq.len) && decide (c0.lq.board.next ≤ c0.lq.xt) &&
    decide (c0.lq.board.issueAt (tmOf (insOf w) c0.lq) ≤ c0.lq.xt) &&
    (match quillRead 0 (prBase + 8 * c0.lq.pc) 8 s with
     | (.ok bs, t) => bs == wordBytes 8 w && decide (t = s)
     | _ => false)

theorem atIssue_in {w : W64} {s : State} (h : atIssueB w s = true) : AtIssue 0 w (ctxIn s w) s := by
  unfold atIssueB at h
  split at h
  · cases h
  · next c0 hc =>
    simp only [Bool.and_eq_true, decide_eq_true_eq] at h
    obtain ⟨⟨⟨⟨h0, h1⟩, h2⟩, h3⟩, h4⟩ := h
    split at h4
    · next bs t he =>
      simp only [Bool.and_eq_true, beq_iff_eq, decide_eq_true_eq] at h4
      obtain ⟨rfl, rfl⟩ := h4
      have hx : ctxIn t w = { c0 with i := insOf w } := by simp [ctxIn, hc]
      rw [hx]
      exact ⟨by rw [show (0 : Byte).toNat = 0 from rfl, hc, ← h0], rfl, h1, he, h2, h3⟩
    · cases h4

/-- It meets no exception, decidably. -/
def clearB (c : QCtx) (s : State) : Bool :=
  !planeBad c && (ctlCheck c).isNone && (!(c.i.op == 0x28 || c.i.op == 0x29) || (handleObj s c.part (c.i.im 0 4)).isSome) &&
    (memOps c.i c.lq).all MemOp.ok && (strokeAddr c.i c.lq).isNone && (pagesOf c.i c.lq).all (fun p => (c.lq.frameOf p.1).isSome) &&
    (chanCheck c s).isNone && !mailboxBad c s

theorem clear_in {c : QCtx} {s : State} (h : clearB c s = true) : Clear c s := by
  simp only [clearB, Bool.and_eq_true, Bool.not_eq_true', List.all_eq_true, Option.isNone_iff_eq_none] at h
  obtain ⟨⟨⟨⟨⟨⟨⟨h1, h2⟩, h3⟩, h4⟩, h5⟩, h6⟩, h7⟩, h8⟩ := h
  refine ⟨h1, h2, fun ho => ?_, h4, h5, h6, h7, h8⟩
  rcases ho with ho | ho <;> simpa [ho] using h3

/-- A row issues `w` in `s` and meets no exception, decidably. -/
def runsB (row : Ins → Bool) (w : W64) (s : State) : Bool :=
  atIssueB w s && encOk (insOf w) (ctxIn s w).lq.pc && row (insOf w) && (ctxIn s w).lq.guard (insOf w) && clearB (ctxIn s w) s

/-- The row issues `w` in `s` and meets no exception. -/
def Runs (row : Ins → Bool) (w : W64) (s : State) : Prop := Clear (ctxIn s w) s ∧ Issues row 0 w (ctxIn s w) s

theorem runs {row : Ins → Bool} {w : W64} {s : State} (h : runsB row w s = true) : Runs row w s := by
  simp only [runsB, Bool.and_eq_true] at h
  obtain ⟨⟨⟨⟨h1, h2⟩, h3⟩, h4⟩, h5⟩ := h
  obtain ⟨a, b, c, d, e, f⟩ := atIssue_in h1
  exact ⟨clear_in h5, a, b, c, d, h2, h3, e, f, h4⟩

/-- A word of each row of quillTable, in its order. -/
def rowWords : List W64 :=
  [ins 0x01 0 3 1 2 0, ins 0x02 0 3 1 0 9, ins 0x03 2 1 1 2 0, ins 0x04 0 1 0 0 0, ins 0x08 0 3 1 0 0x10000010, ins 0x08 1 3 0 0 0x12,
   ins 0x08 2 3 1 2 4, ins 0x08 3 4 1 0 0, ins 0x0C 0 0 0 0 0, ins 0x0C 1 0 0 0 3, ins 0x0C 2 0 1 0 0, ins 0x0C 3 0 0 0 0,
   ins 0x0C 4 3 0 1 0, ins 0x0C 5 3 0 4 0, ins 0x0D 0 0 0 0 0x00030002, ins 0x10 0 3 0 0 8, ins 0x11 0 0 0 1 8, ins 0x18 0x00 0 0 0 0,
   ins 0x18 0x10 0 0 1 0, ins 0x18 0x20 0 0 0 0, ins 0x18 0x30 0 0 1 0, ins 0x18 0x40 0 0 2 0, ins 0x19 0x00 0 0 0 0, ins 0x19 0x10 0 0 0 0,
   ins 0x19 0x20 0 0 0 0, ins 0x1C 0x00 0 0 0 0, ins 0x1C 0x10 0 0 0 0, ins 0x1C 0x21 0 0 0 0, ins 0x1C 0x30 0 0 0 0, ins 0x1D 0 0 1 0 7,
   ins 0x1E 0x00 0 0 0 0, ins 0x1E 0x10 0 0 0 0x7FF, ins 0x1E 0x20 0 2 0 3, ins 0x1E 0x30 0 2 0 3, ins 0x1E 0x40 0 2 0 0, ins 0x1E 0x50 0 1 2 0,
   ins 0x20 0 0 0 0 0, ins 0x21 0 0 0 0 0, ins 0x24 4 0 0 1 0, ins 0x25 4 3 0 0 0, ins 0x28 0 0 0 0 0x200, ins 0x29 0 0 0 0 0x100,
   ins 0x2C 0 0 1 0 0, ins 0x30 0 0 1 0 9, ins 0x3F 0 0 0 0 1]

/-- The hypotheses of the statements about issuing instructions, for each row (QuillScalarResult, QuillControl, QuillAccess,
QuillRegisterFrame). -/
theorem test_every_quill_row_issues : ∀ e ∈ ((quillTable 0).map (·.2)).zip rowWords, Runs e.1 e.2 (quillAtWork e.2) := by
  have h : (((quillTable 0).map (·.2)).zip rowWords).all (fun e => runsB e.1 e.2 (quillAtWork e.2)) = true := by decide +kernel
  exact fun e he => runs (List.all_eq_true.mp h e he)

theorem length_kreadFrom {α : Type} (d : α) (n a : Nat) (m : KMap α) : (kreadFrom d n a m).length = n := by
  induction n generalizing a m with
  | zero => rfl
  | succ n ih =>
    cases m with
    | nil => simp [kreadFrom, ih]
    | cons e m => simp only [kreadFrom]; split <;> simp [ih]

/-- The stores of `quillAtWork` read zero outside the image. -/
theorem reads_zero (w : W64) {t : State} {off n : Nat} (h : (t.pqAt 0).st = ((quillAtWork w).pqAt 0).st)
    (hr : off + n ≤ prBase ∨ scBase ≤ off) : Reads 0 off n (List.replicate n 0) t := by
  have hst : ((quillAtWork w).pqAt 0).st =
    { tag := 1, written := [(prBase / 64, true)], mem := kbytes 0 [] prBase (wordBytes 8 w) } := rfl
  have hb : (((kread 0 (kbytes 0 [] prBase (wordBytes 8 w)) off n).zipIdx off).map (fun e =>
      if Stores.isWritten { tag := 1, written := [(prBase / 64, true)], mem := kbytes 0 [] prBase (wordBytes 8 w) } e.2 then e.1 else 0)) =
      List.replicate n (0 : Byte) := by
    refine List.eq_replicate_iff.mpr ⟨by simp [kread, length_kreadFrom], fun b hb => ?_⟩
    obtain ⟨e, he, rfl⟩ := List.mem_map.mp hb
    have hi := List.mem_zipIdx (x := e.1) (i := e.2) (k := off) he
    have hl : (kread 0 (kbytes 0 [] prBase (wordBytes 8 w)) off n).length = n := length_kreadFrom ..
    have hne : prBase / 64 ≠ e.2 / 64 := by simp only [prBase, scBase] at hr ⊢; omega
    simp only [Stores.isWritten, kget, if_neg hne]
    simp
  simp only [Reads, quillRead, h, hst, Stores.read, Stores.checks, List.filter_nil, hb]
  simp [eccNote]

/-- QuillControl: the β word has good parity, and a PC past the image. -/
theorem test_QuillControl_hypotheses :
    kget false (ctxIn (quillAtWork 0) 0).pq.parB (ctxIn (quillAtWork 0) 0).lq.ptr.toNat = false ∧
    ∃ c s, quillAt 0 s = some c ∧ c.lq.len ≤ c.lq.pc ∧ c.lq.board.next ≤ c.lq.xt :=
  ⟨by decide +kernel, _, { quillAtWork 0 with part := [(64, { part0 with lqs := [(0, { lq0 with pc := 4 })] })] }, rfl, by decide, by decide⟩

/-- States like `quillAtWork w`: EXACT timing with debug taking BRK, and another logical Quill 0. -/
def quillExact (w : W64) : State :=
  { quillAtWork w with part := [(64, { part0 with timing := .exact })], dbg := { qbrkEn := true } }
def quillWith (l : Lq) (w : W64) : State := { quillAtWork w with part := [(64, { part0 with lqs := [(0, l)] })] }

theorem test_QuillAccess_hypotheses :
    (∃ w s m bs, Runs (isOp 0x10) w s ∧ memOps (insOf w) (ctxIn s w).lq = [m] ∧
      Reads 0 (m.loc (ctxIn s w).lq) m.width bs (touchPages (ctxIn s w) s)) ∧
    (∃ w s m, Runs (isOp 0x11) w s ∧ memOps (insOf w) (ctxIn s w).lq = [m]) ∧
    (∃ w s, Runs (isOp 0x2C) w s ∧ (ctxIn s w).part.exact = true) ∧
    (∃ w s, Runs (isOp 0x2C) w s ∧ (ctxIn s w).part.exact = false ∧
      (ctxIn s w).lq.frameOf (aOff ((ctxIn s w).lq.aReg (insOf w).ra) / 0x10000) = none) ∧
    (∃ w s, Runs (isOp 0x3F) w s ∧ s.dbg.qbrkEn = true) ∧ (∃ w s, Runs (isOp 0x3F) w s ∧ s.dbg.qbrkEn = false) :=
  ⟨⟨ins 0x10 0 3 0 0 8, quillAtWork (ins 0x10 0 3 0 0 8), _, _, runs (by decide +kernel), rfl,
      reads_zero (ins 0x10 0 3 0 0 8) (by decide +kernel) (by decide +kernel)⟩,
    ⟨ins 0x11 0 0 0 1 8, quillAtWork (ins 0x11 0 0 0 1 8), _, runs (by decide +kernel), rfl⟩,
    ⟨ins 0x2C 0 0 1 0 0, quillExact (ins 0x2C 0 0 1 0 0), runs (by decide +kernel), by decide +kernel⟩,
    ⟨ins 0x2C 0 0 3 0 0, quillWith { lq0 with a := [(3, 0x200000020000)] } (ins 0x2C 0 0 3 0 0), runs (by decide +kernel),
      by decide +kernel, by decide +kernel⟩,
    ⟨ins 0x3F 0 0 0 0 1, quillExact (ins 0x3F 0 0 0 0 1), runs (by decide +kernel), rfl⟩,
    ⟨ins 0x3F 0 0 0 0 1, quillAtWork (ins 0x3F 0 0 0 0 1), runs (by decide +kernel), rfl⟩⟩

theorem readsAll_one {q off n : Nat} {bs : List Byte} {s : State} (h : Reads q off n bs s) : ReadsAll q [(off, n)] bs s := by
  intro f
  simp only [withReads, withRead, show quillRead q off n s = (.ok bs, s) from h, List.nil_append]

theorem scatter_ok {c : QCtx} {rows : List (List (Nat × Int))} {s : State} (h : (s.pqAt c.q).st.ecc = []) : ScatterOk c rows s := by
  intro f
  simp [withScatter, Stores.checks, h, eccNote]

/-- A factor stroke whose slots all read 0 contributes nothing. -/
theorem nibsRun_zero (w : W64) {c : QCtx} {s : State} (hq : c.q = 0) (hs : (s.pqAt 0).st = ((quillAtWork w).pqAt 0).st)
    (hk : c.i.im 5 3 = 0) (ns : List Nat) (acc : List (List (List Int))) (f : List (List (List Int)) → State → QRes) :
    nibsRun c ns acc s f = f (acc ++ List.replicate ns.length []) s := by
  induction ns generalizing acc with
  | nil => simp [nibsRun]
  | cons n ns ih =>
    have hr := reads_zero w (off := scBase + aOff (c.lq.aReg c.i.rb) + 16 * n) (n := 2) hs (.inr (by omega))
    have hz : halves (List.replicate 2 0) = [0] := by decide
    simp only [nibsRun, withRead, hq, hk, show quillRead 0 (scBase + aOff (c.lq.aReg c.i.rb) + 16 * n) (2 * (0 + 1)) s =
      (.ok (List.replicate 2 0), s) from hr, hz, slotsRun, slotRun]
    simp [bit, ih, List.replicate_succ]

theorem test_QuillStrokes_hypotheses :
    (∃ w s, Runs (isStroke 0) w s ∧ (insOf w).im 8 1 = 1) ∧
    (∃ w s bs, Runs (isStroke 0) w s ∧ (insOf w).im 8 1 ≠ 1 ∧ (insOf w).cat = false ∧
      Reads 0 (storeOff (aSpace ((ctxIn s w).lq.aReg (insOf w).ra)) (aOff ((ctxIn s w).lq.aReg (insOf w).ra)))
        (512 * (insOf w).states) bs (touchPages (ctxIn s w) s)) ∧
    (∃ w s bs, Runs (isStroke 1) w s ∧ ReadsAll 0 (couplingAt (ctxIn s w).lq (aOff ((ctxIn s w).lq.aReg (insOf w).rb))
      (planeBytes ((insOf w).im 0 2))) bs (touchPages (ctxIn s w) s)) ∧
    (∀ cat : Bool, ∃ w s bs, Runs (isStroke 2) w s ∧ (insOf w).cat = cat ∧
      Reads 0 (storeOff (aSpace ((ctxIn s w).lq.aReg (insOf w).ra)) (aOff ((ctxIn s w).lq.aReg (insOf w).ra)))
        (if cat then 128 else 32) bs (touchPages (ctxIn s w) s)) ∧
    (∀ cat : Bool, ∃ w s bs, Runs (isStroke 3) w s ∧ (insOf w).cat = cat ∧
      ReadsAll 0 (couplingAt (ctxIn s w).lq (aOff ((ctxIn s w).lq.aReg (insOf w).rb)) (256 * rowBytes (insOf w))) bs (touchPages (ctxIn s w) s) ∧
      ScatterOk (ctxIn s w) (sparseRows (ctxIn s w) bs) (touchPages (ctxIn s w) s)) ∧
    (∀ cat : Bool, ∃ w s ts, Runs (isStroke 4) w s ∧ (insOf w).cat = cat ∧
      ∀ f, nibsRun (ctxIn s w) (List.range 256) [] (touchPages (ctxIn s w) s) f = f ts (touchPages (ctxIn s w) s)) := by
  refine ⟨⟨ins 0x18 0 0 0 0 0x100, quillAtWork (ins 0x18 0 0 0 0 0x100), runs (by decide +kernel), by decide +kernel⟩,
    ⟨ins 0x18 0 0 0 0 0, quillAtWork (ins 0x18 0 0 0 0 0), _, runs (by decide +kernel), by decide +kernel, by decide +kernel,
      reads_zero (ins 0x18 0 0 0 0 0) (by decide +kernel) (by decide +kernel)⟩,
    ⟨ins 0x18 0x10 0 0 1 0, quillAtWork (ins 0x18 0x10 0 0 1 0), _, runs (by decide +kernel),
      readsAll_one (reads_zero (ins 0x18 0x10 0 0 1 0) (off := 0) (n := 0x8000) (by decide +kernel) (by decide +kernel))⟩,
    fun cat => ?_, fun cat => ?_, fun cat => ?_⟩
  · cases cat
    · exact ⟨ins 0x18 0x20 0 0 0 0, quillAtWork (ins 0x18 0x20 0 0 0 0), _, runs (by decide +kernel), by decide +kernel,
        reads_zero (ins 0x18 0x20 0 0 0 0) (by decide +kernel) (by decide +kernel)⟩
    · exact ⟨ins 0x18 0x21 0 0 0 0, quillAtWork (ins 0x18 0x21 0 0 0 0), _, runs (by decide +kernel), by decide +kernel,
        reads_zero (ins 0x18 0x21 0 0 0 0) (by decide +kernel) (by decide +kernel)⟩
  · cases cat
    · exact ⟨ins 0x18 0x30 0 0 1 0, quillAtWork (ins 0x18 0x30 0 0 1 0), _, runs (by decide +kernel), by decide +kernel,
        readsAll_one (reads_zero (ins 0x18 0x30 0 0 1 0) (off := 0) (n := 4096) (by decide +kernel) (by decide +kernel)),
        scatter_ok (by decide +kernel)⟩
    · exact ⟨ins 0x18 0x31 0 0 1 0, quillAtWork (ins 0x18 0x31 0 0 1 0), _, runs (by decide +kernel), by decide +kernel,
        readsAll_one (reads_zero (ins 0x18 0x31 0 0 1 0) (off := 0) (n := 4096) (by decide +kernel) (by decide +kernel)),
        scatter_ok (by decide +kernel)⟩
  · cases cat
    · exact ⟨ins 0x18 0x40 0 0 2 0, quillAtWork (ins 0x18 0x40 0 0 2 0), _, runs (by decide +kernel), by decide +kernel,
        nibsRun_zero (ins 0x18 0x40 0 0 2 0) rfl (by decide +kernel) (by decide +kernel) _ _⟩
    · exact ⟨ins 0x18 0x41 0 0 2 0, quillAtWork (ins 0x18 0x41 0 0 2 0), _, runs (by decide +kernel), by decide +kernel,
        nibsRun_zero (ins 0x18 0x41 0 0 2 0) rfl (by decide +kernel) (by decide +kernel) _ _⟩

/-- The operand at a[RA] reads `n` bytes. -/
def OperandReads (w : W64) (s : State) (n : Nat) (bs : List Byte) : Prop :=
  Reads 0 (storeOff (aSpace ((ctxIn s w).lq.aReg (insOf w).ra)) (aOff ((ctxIn s w).lq.aReg (insOf w).ra))) n bs (touchPages (ctxIn s w) s)

theorem operand_reads (w : W64) (n : Nat)
    (h : ((touchPages (ctxIn (quillAtWork w) w) (quillAtWork w)).pqAt 0).st = ((quillAtWork w).pqAt 0).st)
    (hr : storeOff (aSpace ((ctxIn (quillAtWork w) w).lq.aReg (insOf w).ra)) (aOff ((ctxIn (quillAtWork w) w).lq.aReg (insOf w).ra)) + n ≤ prBase ∨
      scBase ≤ storeOff (aSpace ((ctxIn (quillAtWork w) w).lq.aReg (insOf w).ra)) (aOff ((ctxIn (quillAtWork w) w).lq.aReg (insOf w).ra))) :
    OperandReads w (quillAtWork w) n (List.replicate n 0) := reads_zero w h hr

theorem test_QuillMatrixAndBeta_hypotheses :
    (∃ w s bs, Runs (isMma 0) w s ∧ (insOf w).sub ≠ 5 ∧ OperandReads w s (mmaBytes (insOf w).sub) bs) ∧
    (∃ w s bs, Runs (isMma 0) w s ∧ (insOf w).sub = 5 ∧ OperandReads w s 512 bs) ∧
    (∃ w s bs, Runs (isBeta 2) w s ∧ OperandReads w s 512 bs) ∧ (∃ w s bs, Runs (isBeta 3) w s ∧ OperandReads w s 512 bs) ∧
    (∃ w s bs, Runs (isBeta 4) w s ∧ OperandReads w s 2048 bs) :=
  ⟨⟨ins 0x19 0 0 0 0 0, quillAtWork (ins 0x19 0 0 0 0 0), _, runs (by decide +kernel), by decide +kernel,
      operand_reads (ins 0x19 0 0 0 0 0) 32 (by decide +kernel) (by decide +kernel)⟩,
    ⟨ins 0x19 5 0 0 0 4, quillAtWork (ins 0x19 5 0 0 0 4), _, runs (by decide +kernel), by decide +kernel,
      operand_reads (ins 0x19 5 0 0 0 4) 512 (by decide +kernel) (by decide +kernel)⟩,
    ⟨ins 0x1E 0x20 0 2 0 3, quillAtWork (ins 0x1E 0x20 0 2 0 3), _, runs (by decide +kernel),
      operand_reads (ins 0x1E 0x20 0 2 0 3) 512 (by decide +kernel) (by decide +kernel)⟩,
    ⟨ins 0x1E 0x30 0 2 0 3, quillAtWork (ins 0x1E 0x30 0 2 0 3), _, runs (by decide +kernel),
      operand_reads (ins 0x1E 0x30 0 2 0 3) 512 (by decide +kernel) (by decide +kernel)⟩,
    ⟨ins 0x1E 0x40 0 2 0 0, quillAtWork (ins 0x1E 0x40 0 2 0 0), _, runs (by decide +kernel),
      operand_reads (ins 0x1E 0x40 0 2 0 0) 2048 (by decide +kernel) (by decide +kernel)⟩⟩

/-- A parity map with no bad entry finds none, whatever the indices. -/
theorem tabBad_none {p : Pq} {t : Nat} {ns : List Nat} (h : p.parA = [] ∧ p.parC = [] ∧ p.parB = []) : tabBad p t ns = none := by
  unfold tabBad
  split <;> simp [h.1, h.2.1, h.2.2]

theorem test_QuillAccept_hypotheses :
    (∀ mh : Bool, ∃ w s bs nn s1 xs s2, Runs (isAccept (if mh then 1 else 0)) w s ∧ OperandReads w s 32 bs ∧ (∀ t ns, tabBad (ctxIn s w).pq t ns = none) ∧
      nnFall (ctxIn s w) (touchPages (ctxIn s w) s) = (nn, s1) ∧ (if nn then drawN 256 s1 else ([], s1)) = (xs, s2)) ∧
    (∃ w s bs, Runs (isAccept 2) w s ∧ OperandReads w s 128 bs ∧ ∀ t ns, tabBad (ctxIn s w).pq t ns = none) ∧
    (∃ w s bs, Runs (isAccept 3) w s ∧ OperandReads w s 32 bs) := by
  refine ⟨fun mh => ?_, ⟨ins 0x1C 0x21 0 0 0 0, quillAtWork (ins 0x1C 0x21 0 0 0 0), _, runs (by decide +kernel),
      operand_reads (ins 0x1C 0x21 0 0 0 0) 128 (by decide +kernel) (by decide +kernel), fun _ _ => tabBad_none (by decide +kernel)⟩,
    ⟨ins 0x1C 0x30 0 0 0 0, quillAtWork (ins 0x1C 0x30 0 0 0 0), _, runs (by decide +kernel),
      operand_reads (ins 0x1C 0x30 0 0 0 0) 32 (by decide +kernel) (by decide +kernel)⟩⟩
  cases mh
  · exact ⟨ins 0x1C 0 0 0 0 0, quillAtWork (ins 0x1C 0 0 0 0 0), _, _, _, _, _, runs (by decide +kernel),
      operand_reads (ins 0x1C 0 0 0 0 0) 32 (by decide +kernel) (by decide +kernel), fun _ _ => tabBad_none (by decide +kernel), rfl, rfl⟩
  · exact ⟨ins 0x1C 0x10 0 0 0 0, quillAtWork (ins 0x1C 0x10 0 0 0 0), _, _, _, _, _, runs (by decide +kernel),
      operand_reads (ins 0x1C 0x10 0 0 0 0) 32 (by decide +kernel) (by decide +kernel), fun _ _ => tabBad_none (by decide +kernel), rfl, rfl⟩

theorem test_QuillExchange_hypotheses :
    (∃ w s k bs, Runs (isOp 0x20) w s ∧ (ctxIn s w).part.outChan (ctxIn s w).id.l ((insOf w).im 0 5) = some k ∧ OperandReads w s 32 bs) ∧
    (∃ w s d ds, Runs (isOp 0x21) w s ∧ kget [] (ctxIn s w).lq.chIn ((insOf w).im 0 5) = d :: ds) ∧
    (∃ w s, Runs (isOp 0x24) w s ∧ (insOf w).fn = 4) ∧
    (∃ w s o os bs, Runs (isOp 0x24) w s ∧ (insOf w).fn ≠ 4 ∧ memOps (insOf w) (ctxIn s w).lq = o :: os ∧
      Reads 0 (o.loc (ctxIn s w).lq) 4 bs (touchPages (ctxIn s w) s)) ∧
    (∃ w s n, Runs (isOp 0x28) w s ∧ handleObj (touchPages (ctxIn s w) s) (ctxIn s w).part ((insOf w).im 0 4) = some n) ∧
    (∃ w s n, Runs (isOp 0x29) w s ∧ handleObj (touchPages (ctxIn s w) s) (ctxIn s w).part ((insOf w).im 0 4) = some n) :=
  ⟨⟨ins 0x20 0 0 0 0 0, quillAtWork (ins 0x20 0 0 0 0 0), _, _, runs (by decide +kernel), rfl,
      operand_reads (ins 0x20 0 0 0 0 0) 32 (by decide +kernel) (by decide +kernel)⟩,
    ⟨ins 0x21 0 0 0 0 0, quillAtWork (ins 0x21 0 0 0 0 0), _, _, runs (by decide +kernel), rfl⟩,
    ⟨ins 0x24 4 0 0 1 0, quillAtWork (ins 0x24 4 0 0 1 0), runs (by decide +kernel), by decide +kernel⟩,
    ⟨ins 0x24 3 0 0 0 0x00E00008, quillAtWork (ins 0x24 3 0 0 0 0x00E00008), _, _, _, runs (by decide +kernel), by decide +kernel, rfl,
      reads_zero (ins 0x24 3 0 0 0 0x00E00008) (by decide +kernel) (by decide +kernel)⟩,
    ⟨ins 0x28 0 0 0 0 0x200, quillAtWork (ins 0x28 0 0 0 0 0x200), 5, runs (by decide +kernel), by decide +kernel⟩,
    ⟨ins 0x29 0 0 0 0 0x100, quillAtWork (ins 0x29 0 0 0 0 0x100), 5, runs (by decide +kernel), by decide +kernel⟩⟩

/-- AluResults and UndefinedAndGuardedOff: an undefined FN, a word that fails the encoding checks, and a guard that is 0. -/
theorem test_AluResults_hypotheses :
    (∃ w s, AtIssue 0 w (ctxIn s w) s ∧ (insOf w).op = 1 ∧ aluInt (insOf w).fn 0 0 = none) ∧
    (∃ w s, AtIssue 0 w (ctxIn s w) s ∧ (insOf w).op = 2 ∧ aluInt (insOf w).fn 0 0 = none) :=
  ⟨⟨ins 0x01 0x0E 3 1 2 0, quillAtWork (ins 0x01 0x0E 3 1 2 0), atIssue_in (by decide +kernel), by decide +kernel, by decide +kernel⟩,
    ⟨ins 0x02 0x13 3 1 0 0, quillAtWork (ins 0x02 0x13 3 1 0 0), atIssue_in (by decide +kernel), by decide +kernel, by decide +kernel⟩⟩

theorem test_UndefinedAndGuardedOff_hypotheses :
    (∃ w s, AtIssue 0 w (ctxIn s w) s ∧ encOk (insOf w) (ctxIn s w).lq.pc = false) ∧
    (∃ w s, AtIssue 0 w (ctxIn s w) s ∧ encOk (insOf w) (ctxIn s w).lq.pc = true ∧ isOp 1 (insOf w) = true ∧
      (ctxIn s w).lq.guard (insOf w) = false) ∧
    (∃ w s, AtIssue 0 w (ctxIn s w) s ∧ encOk (insOf w) (ctxIn s w).lq.pc = true ∧ isOp 1 (insOf w) = false) :=
  ⟨⟨ins 0x3E 0 0 0 0 0, quillAtWork (ins 0x3E 0 0 0 0 0), atIssue_in (by decide +kernel), by decide +kernel⟩,
    ⟨ins 0x01 0 3 1 2 0 ||| 0x0040000000000000, quillAtWork (ins 0x01 0 3 1 2 0 ||| 0x0040000000000000), atIssue_in (by decide +kernel),
      by decide +kernel, by decide +kernel, by decide +kernel⟩,
    ⟨ins 0x0C 0 0 0 0 0, quillAtWork (ins 0x0C 0 0 0 0 0), atIssue_in (by decide +kernel), by decide +kernel, by decide +kernel⟩⟩

-- Crossings and traffic
/-- An item of each kind that a Quill takes or sends, released at its island. -/
def item (p : Payload) (metered : Bool) : XItem :=
  { cls := .mesh, src := 1, dst := 0, stamp := 90, metered := metered, arrived := true, rel := 100, pay := p }
def lqHome : Lq := { lq0 with place := some 0 }
def atTick (t : W64) (l : Lq) (box : List XItem) : State := { quillWith l 0 with now := t, inbox := box }
def flit0 (metered : Bool) : XItem := item (.flit id0 { part := pid, l := 1 } 0 0 7 0xABC 0) metered

/-- FlitDelivery: swapped out, a free buffer slot, after the END, and the full buffer (4 entries). -/
theorem test_FlitDelivery_hypotheses :
    inboxTake isFlit (fun x => x.rel.toNat) (atTick 100 lq0 [flit0 true]) = some (flit0 true, atTick 100 lq0 []) ∧
    swappedOut id0 (atTick 100 lq0 []) = true ∧ swappedOut id0 (atTick 100 lqHome []) = false ∧
    (atTick 100 lqHome []).partAt pid = some { part0 with lqs := [(0, lqHome)] } ∧
    ({ part0 with lqs := [(0, lqHome)] }.lqAt 0).ended = false ∧ (kget [] lqHome.chIn 0).length < 4 ∧
    inboxTake isFlit (fun x => x.rel.toNat) (atTick 100 lqHome [flit0 true]) = some (flit0 true, atTick 100 lqHome []) ∧
    inboxTake isFlit (fun x => x.rel.toNat) (atTick 100 { lqHome with ended := true } [flit0 true]) =
      some (flit0 true, atTick 100 { lqHome with ended := true } []) ∧
    swappedOut id0 (atTick 100 { lqHome with ended := true } []) = false ∧
    inboxTake isFlit (fun x => x.rel.toNat) (atTick 100 { lqHome with chIn := [(0, [1, 2, 3, 4])] } [flit0 true]) =
      some (flit0 true, atTick 100 { lqHome with chIn := [(0, [1, 2, 3, 4])] } []) ∧
    ({ atTick 100 lqHome [] with swapBuf := [flit0 true] } : State).swapBuf[0]? = some (flit0 true) ∧
    swappedOut id0 { atTick 100 lqHome [] with swapBuf := [flit0 true] } = false := by decide +kernel

def clampReq0 : XItem := { item (.clampReq id0 5 88) true with cls := .q2p, src := 0 }
def clampRep0 : XItem := { item (.clampRep id0 88 77) true with cls := .p2q, src := 0 }
def lqClamp (f : Option (Nat × Nat × Nat)) : Lq := { lqHome with clamps := [⟨88, 5, f, 3, 2, none⟩] }

/-- ClampAndCrossings: a reply on tick t + 12 exactly, with and without a field; an arrival in time and a late one; the latch. -/
theorem test_ClampAndCrossings_hypotheses :
    (∃ s', inboxTake isClampReq (fun x => x.rel.toNat) (atTick 100 lqHome [clampReq0]) = some (clampReq0, s')) ∧
    (∀ f, (atTick 100 (lqClamp f) [clampRep0]).resAt 0 = some id0 ∧
      (∃ s', inboxTake (isClampRep id0) (fun x => x.rel.toNat) (atTick 100 (lqClamp f) [clampRep0]) = some (clampRep0, s')) ∧
      (atTick 100 (lqClamp f) [clampRep0]).now.ult (88 + 12) = false ∧
      (lqClamp f).clamps.find? (fun k => k.t == 88) = some ⟨88, 5, f, 3, 2, none⟩) ∧
    (∀ e ∈ [((98 : W64), false), (1000, true)], ∃ x : XItem, x.arrives e.1 = true ∧ x.dueAt.ult e.1 = e.2) ∧
    (∃ x : XItem, x.ripe x.dueAt = true) ∧
    mayPlace 0 clampReq0 { atTick 100 lqHome [] with latch := [clampReq0] } = true :=
  ⟨⟨_, rfl⟩, fun _ => ⟨rfl, ⟨_, rfl⟩, show (100 : W64).ult (88 + 12) = false by decide, rfl⟩,
    fun e he => ⟨{ item (.reply id0) true with cls := .s2q, arrived := false }, by
      simp only [List.mem_cons, List.not_mem_nil, or_false] at he; rcases he with rfl | rfl <;> decide +kernel⟩,
    ⟨item (.reply id0) true, by decide +kernel⟩, by decide +kernel⟩

def query0 : XItem := { item (.query id0 5 0) true with cls := .q2s, src := 0 }
def lqWait : Lq := { lqHome with wait := some { obj := 5, v := 0, t := 80, handle := 0 } }
def lsWait : LockStep := { ctrl := 0x00004003, wait := [({ epoch := 0, cCmd := 0, cQ := [], regions := [], words := [] }, 0)] }

/-- WaitAndSignalTraffic: a count that equals the awaited value; a SIGNAL due on this tick, metered and not; an increment of its owner's
object and of another's. -/
theorem test_WaitAndSignalTraffic_hypotheses :
    (atTick 100 lqWait [query0]).inbox[0]? = some query0 ∧ syncSettled (atTick 100 lqWait [query0]) = true ∧
    reached (seenCount 5 (atTick 100 lqWait [query0])) 0 = true ∧ lsHolds (atTick 100 lqWait []) id0 lqWait 0 = false ∧
    (∃ ls, lsHolds { atTick 100 lqWait [] with ls := ls } id0 lqWait 0 = true) ∧
    (lqWait.heldReply = false ∧
      ∃ s', inboxTake (isReply id0) (fun x => x.rel.toNat) (atTick 100 lqWait [item (.reply id0) true]) = some (item (.reply id0) true, s')) ∧
    (∀ g : SigHeld, g = ⟨5, 1, 28, 2, some 28⟩ → g.dueAt.ule (atTick 100 { lqHome with sig := [g] } []).now = true ∧
      (atTick 100 { lqHome with sig := [g] } []).latch.any (earlierFlit id0 g.n) = false ∧
      (g.t.ule 100 = true ∧ outstanding (atTick 100 { lqHome with sig := [g] } []) (earlierFlit id0 g.n) = false)) ∧
    (∃ s', inboxTake isIncr (fun x => x.rel.toNat) (atTick 100 lqHome [item (.incr 1 5 1 0 none) true]) =
      some (item (.incr 1 5 1 0 none) true, s') ∧ (s'.syncAt 5).owner = 1 ∧ setsDone s' = true) ∧
    (∃ s', inboxTake isIncr (fun x => x.rel.toNat) (atTick 100 lqHome [item (.incr 2 5 1 0 none) true]) =
      some (item (.incr 2 5 1 0 none) true, s') ∧ (s'.syncAt 5).owner ≠ 2) :=
  ⟨rfl, by decide +kernel, by decide +kernel, by decide +kernel, ⟨lsWait, by decide +kernel⟩, ⟨rfl, _, rfl⟩,
    fun g hg => by subst hg; decide +kernel, ⟨_, rfl, by decide +kernel, by decide +kernel⟩, ⟨_, rfl, by decide +kernel⟩⟩

-- Results that a premise names
def okOf {ε α σ : Type} : (r : Except ε α × σ) → r.1.isOk = true → α
  | (.ok a, _), _ => a
theorem ok_eq {ε α σ : Type} {r : Except ε α × σ} (h : r.1.isOk = true) : r = (.ok (okOf r h), r.2) := by
  obtain ⟨a, s⟩ := r
  cases a with
  | error e => cases h
  | ok a => rfl
theorem some_eq {α : Type} {o : Option α} (h : o.isSome = true) : o = some (o.get h) := (Option.some_get h).symm
theorem none_eq {α σ : Type} {r : Option α × σ} (h : r.1.isNone = true) : r = (none, r.2) := by
  obtain ⟨a, s⟩ := r
  cases a with
  | none => rfl
  | some a => cases h
/-- The error of a result. -/
def errOf {ε α σ : Type} : (r : Except ε α × σ) → r.1.isOk = false → ε
  | (.error e, _), _ => e
theorem err_eq {ε α σ : Type} {r : Except ε α × σ} (h : r.1.isOk = false) : r = (.error (errOf r h), r.2) := by
  obtain ⟨a, s⟩ := r
  cases a with
  | error e => rfl
  | ok a => cases h

-- Commands
/-- A command with the given fields (bit position, value). -/
def cmd (fs : List (Nat × Nat)) : Cmd := BitVec.ofNat 512 (fs.foldl (fun a e => a + e.2 * 2 ^ e.1) 0)
def disp0 (c : Cmd) : Disp := { id := { owner := 1 }, cmd := c, start := 10, got := true }
/-- Memory is up; page 0 of owner 1 is a page of host memory at 0x10000, page 1 one of HBM. -/
def up : State :=
  { quillAtWork 0 with
    now := 100, hbm := { trained := true }, sched := { own := [(1, { enable := true, key := some 1, timing := 2, ptbase := 0x1000 })] }
    ink := { enable := true, well := [(0, { l2 := [⟨1, 0, 0x10003⟩, ⟨1, 1, 0x20001⟩] })], pageOwner := [(0, 1)] } }
def withDisp (d : Disp) : State := { up with sched := { up.sched with disp := [d] } }
def withCmd (fs : List (Nat × Nat)) : State := withDisp (disp0 (cmd fs))
/-- Host memory from 0x10000. -/
def mapped (bs : List Byte) : HostBytes := (bs.zipIdx).map (fun e => (0x10000 + e.2, e.1))
def zeros (n : Nat) : HostBytes := mapped (List.replicate n 0)
def tk (op : Nat) (s : State) : Disp := (takeDisp 1 0 0 op s).getD (disp0 0)

def ctxUp (o : Own) : State := { up with glb := { surrEn := true }, sched := { up.sched with own := [(1, o)] }, part := [] }

/-- Contexts, the highest owner among them. -/
theorem test_Contexts_hypotheses :
    (∀ o ∈ [({ ptbase := 0x1000 } : Own)], o.draining = false ∧ o.enable = false ∧ ∀ b : Bool,
      firstReason (ctxChecks 1 { ctxUp o with mad := { inst := [(1, { ready := true, need := if b then 0 else 2 })] } }) = none ∧
      canGenerate 1 { ctxUp o with mad := { inst := [(1, { ready := true, need := if b then 0 else 2 })] } } = b) ∧
    firstReason (ctxChecks 64 (ctxUp {})) = some 0x0302 ∧ 
    firstReason (ctxChecks 1 { ctxUp { ptbase := 0x1000 } with mad := { inst := [(1, { ready := true, stopped := true })] } }) = some 0x0802 ∧
    ((ctxUp {}).ownAt 64).draining = false ∧
    ((ctxUp { draining := true }).ownAt 1).draining = true ∧
    (((ctxUp { enable := true }).ownAt 1).enable = true ∧ (ctxUp { enable := true }).part = [] ∧ (ctxUp { enable := true }).sched.disp = []) ∧
    (∀ d ∈ (ctxUp { draining := true }).sched.disp, d.id.owner ≠ 1) ∧
    (∀ f ∈ (ctxUp { draining := true }).ink.fetches, f.lq.part.owner ≠ 1) ∧
    (∀ e ∈ (ctxUp { draining := true }).part, e.2.id.owner = 1 → e.2.st = .idle) := by decide +kernel

def queueUp (q : Queue) : State := { up with sched := { up.sched with queue := [(8, q)] } }
def qOn : Queue := { enable := true, head := 3, tail := 5 }

/-- Queues: the last slot of the smallest ring, the first value past it, sizes 4 and 16, an entry read and one not mapped. -/
theorem test_Queues_hypotheses :
    ((queueUp qOn).queueAt 1 0 = qOn ∧ (15 : W32).toNat < 2 ^ qOn.size.toNat ∧ 2 ^ qOn.size.toNat ≤ (16 : W32).toNat) ∧
    (∀ n ∈ [(4 : BitVec 5), 16], (queueUp { size := n }).queueAt 1 0 = ({ size := n } : Queue) ∧ ((queueUp { size := n }).ownAt 1).enable = true ∧
      4 ≤ n.toNat ∧ n.toNat ≤ 16) ∧ (3 : BitVec 5).toNat < 4 ∧ 16 < (17 : BitVec 5).toNat ∧
    mayFetchSlot { qOn with host := true, base := 0x10000 } = true ∧
    (slotRead_ 1 { qOn with host := true, base := 0x10000 } (zeros 256) up).1.isSome = true ∧
    (slotRead_ 1 { qOn with host := true, base := 0x10000 } [] up).1.isNone = true ∧ mayFetchSlot qOn = true := by decide +kernel

/-- QueueHead: a NOP that waits for object 5, consumes, and dispatches on its turn; an undefined opcode is refused. -/
def slot0 (c : Cmd) (checked waited : Bool) : QSlot := { cmd := c, checked := checked, waited := waited }
def headUp (x : QSlot) : State := { queueUp { qOn with slots := [x] } with now := 8, sync := [(5, { owner := 1, count := 1 })] }
theorem test_QueueHead_hypotheses :
    headerReason 1 (cmd []) (headUp (slot0 (cmd []) false false)) = none ∧ headerReason 1 (cmd [(0, 0x55)]) (headUp (slot0 0 false false)) = some 0x0310 ∧
    (∀ c ∈ [false, true], (cmd [(8, 1), (9, c.toNat), (16, 5)]).waitEn = true ∧ (cmd [(8, 1), (9, c.toNat), (16, 5)]).consume = c ∧
      (cmd [(8, 1), (9, c.toNat), (16, 5)]).waitObj = 5 ∧ syncSettled (headUp (slot0 0 true false)) = true ∧
      waitMet ((headUp (slot0 0 true false)).syncAt 5) = true ∧ waitBefore 5 8 (headUp (slot0 (cmd [(8, 1), (9, c.toNat), (16, 5)]) true false)) = false) ∧
    (readyHead 1 0 (headUp (slot0 0 true true)) = some 0 ∧ dispatchTurn 8 (headUp (slot0 0 true true)) = (true, false)) ∧
    (∀ d : Disp, d = { disp0 0 with st := .done {}, back := true } → pickFirst (isDone 1 0 0 0) [d] = some (d, [])) :=
  ⟨by decide +kernel, by decide +kernel, by decide +kernel, by decide +kernel, fun d h => by subst h; decide +kernel⟩

def launch0 : List (Nat × Nat) := [(0, 0x08), (64, 3), (72, 1)]
def desc0 (d : Disp) : Acc := { o := d.id.owner, ag := agSched, k := 0, unm := 0x0584 }
/-- A partition of owner 1 in a given launch state. -/
def partUp (p : Part) : State := { up with part := [(64, { p with id := pid })], sched := { up.sched with disp := [{ disp0 (cmd [(0, 0x08), (72, 1)]) with st := .running }] } }
def placing0 : Part := { id := pid, cmd := { owner := 1 }, st := .placing, recs := [{ len := 1 }] }
def freeUp (p : Part) : State := { partUp p with pq := [] }

theorem some_ok_eq {ε α σ : Type} {r : Option (Except ε α × σ)} (h : (match r with | some (.ok _, _) => true | _ => false) = true) :
    ∃ a s, r = some (.ok a, s) := by
  match r with
  | some (.ok a, s) => exact ⟨a, s, rfl⟩
  | some (.error _, _) | none => cases h
theorem load_eq {σ : Type} {r : LoadEnd × σ} (h : (match r.1 with | .ok => true | _ => false) = true) : r = (.ok, r.2) := by
  obtain ⟨a, s⟩ := r
  cases a with
  | ok => rfl
  | wait | fail _ => cases h
def dLaunch : Disp := disp0 (cmd launch0)

/-- Launches: a command that passes, one logical Quill of the size refused (257), placement on free Quills, the launch tick of
each timing, an agreed count that equals the counter. -/
theorem test_Launches_hypotheses :
    (∃ s' bs x, takeDisp 1 0 0 0x08 (withCmd launch0) = some dLaunch ∧ dLaunch.got = true ∧
      earlierQueued dLaunch 0x08 (withCmd launch0) = false ∧ ((withCmd launch0).ownAt 1).draining = false ∧
      launchReason 1 dLaunch.cmd (withCmd launch0) = none ∧ hbmUp (withCmd launch0) = true ∧
      lmaRead (desc0 dLaunch) (dLaunch.cmd.f 40 0 40) (64 + 64 * dLaunch.cmd.nlq + 4 * dLaunch.cmd.f 48 0 14) (zeros 128) (withCmd launch0) =
        (.ok bs, s') ∧
      launchDescOf 1 dLaunch.cmd.nlq (dLaunch.cmd.f 48 0 14) (dLaunch.cmd.f 12 0 12) bs (withCmd launch0) = some x ∧
      ∃ key t, launchKey dLaunch.cmd s' = some (.ok key, t)) ∧
    launchReason 1 (cmd [(0, 0x08), (64, 3), (72, 257)]) (withCmd launch0) = some 0x0314 ∧
    ((freeUp placing0).partAt pid = some placing0 ∧ firstLaunch (freeUp placing0) = some placing0.cmd ∧ hbmUp (freeUp placing0) = true ∧
      1 ≤ (freeQuills (freeUp placing0)).length ∧
      ∃ t, loadLqs placing0 false (zeros 64) placing0.nlq 0 ((freeQuills (freeUp placing0)).take placing0.nlq) (freeUp placing0) = (.ok, t)) ∧
    (∀ m : Bool, mayLaunch { placing0 with st := .ready, timing := if m then .exact else .loose }
      { freeUp placing0 with now := if m then 8192 else 100 } = true) ∧
    ((100 : W64).ule (freeUp placing0).now = true ∧ (100 : W64).ult ({ placing0 with launchAt := 108 }).launchAt = true) :=
  ⟨⟨_, _, _, by decide +kernel, by decide +kernel, by decide +kernel, by decide +kernel, by decide +kernel, by decide +kernel,
      ok_eq (by decide +kernel), some_eq (by decide +kernel), some_ok_eq (by decide +kernel)⟩,
    by decide +kernel, ⟨by decide +kernel, by decide +kernel, by decide +kernel, by decide +kernel, _, load_eq (by decide +kernel)⟩,
    by decide +kernel, by decide +kernel⟩

def exch0 : List (Nat × Nat) := [(0, 0x09), (64, 2), (96, 1), (192, 0x10000)]
/-- Two replicas, partitions 1 and 2, with objects 5 and 5; the receive table is in HBM. -/
def exchHost : HostBytes :=
  mapped (wordBytes 8 0x02800141#64 ++ wordBytes 8 0x02800142#64 )
def dExch : Disp := disp0 (cmd exch0)
def sSet : List (Nat × Nat) := [(0, 1), (64, 5), (96, 7)]
def exSt0 : ExSt := { reps := [(0, 5, 5)], rounds := 1 }
def sRound (d : Disp) : State := { withDisp d with sync := [(5, { owner := 1, count := 2 })] }
def exchRun : Disp := { disp0 (cmd exch0) with st := .running, ex := some exSt0 }

/-- SweepCommands: each command once, the two outcomes of a SYNC_SET and a RELEASE, a STOP of a missing partition. -/
theorem test_SweepCommands_hypotheses :
    (takeDisp 1 0 0 0x00 (withCmd []) = some (disp0 0)) ∧
    (takeDisp 1 0 0 0x01 (withCmd sSet) = some (disp0 (cmd sSet)) ∧ (10 : W64).ult (withCmd sSet).now = true ∧
      payloadOk (cmd sSet) [(8, 0, 17), (8, 24, 3), (12, 0, 64)] = true ∧ ((withCmd sSet).syncAt ((cmd sSet).f 8 0 17)).owner = 1) ∧
    ((withCmd [(0, 1), (64, 131071)]).syncAt ((cmd [(0, 1), (64, 131071)]).f 8 0 17)).owner ≠ 1 ∧
    (∀ n ∈ [0x0A, 0x0B], takeDisp 1 0 0 n (withCmd [(0, n)]) = some (disp0 (cmd [(0, n)])) ∧
      (disp0 (cmd [(0, n)])).got = true ∧ payloadOk (cmd [(0, n)]) [(8, 0, 6)] = true ∧
      (withCmd [(0, n)]).partAt ((cmd [(0, n)]).pid 1) = some part0 ∧ partRuns part0 = true ∧ part0.st ≠ .idle) ∧
    (withCmd [(0, 0x0A), (64, 63)]).partAt ((cmd [(0, 0x0A), (64, 63)]).pid 1) = none ∧
    (∃ s' t bs rx, takeDisp 1 0 0 0x09 (withCmd exch0) = some dExch ∧ dExch.got = true ∧
      exchangeReason dExch.cmd = none ∧ hbmUp (withCmd exch0) = true ∧
      lmaRead (desc0 dExch) (dExch.cmd.f 16 0 40) (8 * dExch.cmd.f 8 0 7) exchHost (withCmd exch0) = (.ok bs, s') ∧
      listBad 1 ((chop 8 (dExch.cmd.f 8 0 7) bs).map (fun b => repOf (leWord 64 b))) s' = false ∧
      lmaRead (desc0 dExch) (dExch.cmd.f 24 0 40) 512 exchHost s' = (.ok rx, t)) ∧
    (runDisp 1 0 0 0x09 (sRound exchRun) = some exchRun ∧ syncSettled (sRound exchRun) = true ∧
      (sRound exchRun).partAt pid = some part0 ∧ arrived exSt0 part0 5 (sRound exchRun) = true) :=
  ⟨by decide +kernel, by decide +kernel, by decide +kernel, by decide +kernel, by decide +kernel,
    ⟨_, _, _, _, by decide +kernel, by decide +kernel, by decide +kernel, by decide +kernel, ok_eq (by decide +kernel), by decide +kernel,
      ok_eq (by decide +kernel)⟩, by decide +kernel⟩

def copy0 (n : Nat) : List (Nat × Nat) := [(0, 0x10), (64, 0x100), (128, 0x10000), (192, n), (224, 1)]
def bind0 (un : Nat) (m : Nat) : List (Nat × Nat) := [(0, 0x28), (72, un), (128, m), (192, m)]
def arm0 (a : Nat) : List (Nat × Nat) := [(0, 0x29), (64, a)]
def boundUp (p : Plant) (fs : List (Nat × Nat)) : State := { withCmd fs with plant := p, part := [(64, { part0 with st := .idle })] }

def copyAcc : Acc := { o := 1, ag := agInk 0, k := 0, unm := 0x0584 }

/-- InkwellAndPlantCommands: a copy of one line and its error, one that goes on, the last page of model space and a tag that cannot be
cleared, a binding of mailbox 0 and of 63. -/
theorem test_InkwellAndPlantCommands_hypotheses :
    (takeDisp 1 0 0 0x10 (withCmd (copy0 64)) = some (disp0 (cmd (copy0 64))) ∧
      (disp0 (cmd (copy0 64))).got = true ∧ copyReason 1 (cmd (copy0 64)) (withCmd (copy0 64)) = none ∧
      hbmUp (withCmd (copy0 64)) = true ∧ copySlot 0 (withCmd (copy0 64)) = true ∧ (copyEnd 1 1 0x100 64 (withCmd (copy0 64))).isSome = true ∧
      (copyEnd 1 0 0x10000 64 (withCmd (copy0 64))).isSome = true) ∧
    (∀ d : Disp, d = { disp0 (cmd (copy0 64)) with st := .running } → takeDisp 1 0 0 0x10 (withDisp d) = none ∧
      runDisp 1 0 0 0x10 (withDisp d) = some d) ∧
    (0 < ({ held := 1 } : Xfer).held ∧ ({ held := 1 } : Xfer).line < 1 ∧ lineSlot 0 (withCmd (copy0 64)) = true ∧
      (copyLine copyAcc (.dpa 0x100) (.lma 0x10000) [] (withCmd (copy0 64))).1 = none ∧
      (copyLine copyAcc (.lma 0) (.lma 0x10000) [] (withCmd (copy0 64))).1 ≠ none) ∧
    (∀ c ∈ [[(0, 0x11), (64, 0), (96, 0x1000000)], [(0, 0x11), (64, 0xFFFFFF), (96, 1)]],
      pagesWalked 1 ((cmd c).f 8 0 24) ((cmd c).f 12 0 25) (withCmd c) = false ∧ ((withCmd c).hcAt 1).enable = false ∧
      (pageForget 1 ((cmd c).f 8 0 24) ((cmd c).f 12 0 25) (withCmd c)).1 = none) ∧
    (∃ s : State, (pageForget 1 0 1 s).1 ≠ none) ∧
    (∀ c ∈ [[(0, 0x11), (64, 0), (96, 0x1000000)], [(0, 0x11), (64, 0xFFFFFF), (96, 1)]],
      takeDisp 1 0 0 0x11 (withCmd c) = some (disp0 (cmd c)) ∧ (disp0 (cmd c)).got = true ∧
      payloadOk (cmd c) [(8, 0, 24), (12, 0, 25)] = true ∧ (cmd c).f 12 0 25 ≠ 0 ∧ (cmd c).f 8 0 24 + (cmd c).f 12 0 25 ≤ 0x1000000) ∧
    (∀ e ∈ [(0, 2 ^ 63), (1, 1)], ∀ s, s = boundUp { evBind := [(0, pid)], decBind := [(0, pid)] } (bind0 e.1 e.2) →
      takeDisp 1 0 0 0x28 s = some (disp0 (cmd (bind0 e.1 e.2))) ∧ (disp0 (cmd (bind0 e.1 e.2))).got = true ∧
      payloadOk (cmd (bind0 e.1 e.2)) [(8, 0, 6), (9, 0, 1), (16, 0, 64), (24, 0, 64)] = true ∧ (cmd (bind0 e.1 e.2)).pid 1 = pid ∧
      bindBad ((cmd (bind0 e.1 e.2)).bitAt 9 0) pid (BitVec.ofNat 64 e.2) s.plant.evBind = false ∧
      (s.partAt pid).any partRuns = false) ∧
    (∀ a ∈ [0, 1], ∀ s, s = boundUp { decBind := [(0, pid)] } (arm0 a) → takeDisp 1 0 0 0x29 s = some (disp0 (cmd (arm0 a))) ∧
      (disp0 (cmd (arm0 a))).got = true ∧ payloadOk (cmd (arm0 a)) [(8, 0, 1)] = true ∧
      armReason (boundMask s.plant.decBind (fun p => p.owner == 1)) s = none) ∧
    armReason 0 up = some 0x0A05 := by
  refine ⟨by decide +kernel, fun d h => by subst h; decide +kernel, by decide +kernel, by decide +kernel,
    ⟨{ up with ink := { up.ink with hc := [(1, { enable := true, frames := 1, tags := 0x200000 })] } }, by decide +kernel⟩, by decide +kernel, ?_, ?_,
    by decide +kernel⟩
  · simp only [List.forall_mem_cons, forall_eq]; decide +kernel
  · simp only [List.forall_mem_cons, forall_eq]; decide +kernel

def syncUp (quota : BitVec 18) (m : KMap SyncObj) : State :=
  { up with sync := m, sched := { up.sched with own := [(1, { enable := true, quota := quota })] } }

/-- SyncRows: a quota that is reached and one that is not, the last object, one that is bound, one that a queue awaits. -/
theorem test_SyncRows_hypotheses :
    ((syncUp 1 [(5, { owner := 1 })]).ownAt 1).quota.toNat ≤ syncUsed 1 (syncUp 1 [(5, { owner := 1 })]) ∧
    (syncUsed 1 (syncUp 2 [(5, { owner := 1 })]) < ((syncUp 2 [(5, { owner := 1 })]).ownAt 1).quota.toNat ∧
      lowestFree 0 (syncUp 2 [(5, { owner := 1 })]).sync < syncCount) ∧
    ((131071 : W32).toNat < syncCount ∧ syncCount ≤ (131072 : W32).toNat) ∧
    (((syncUp 2 [(131071, { owner := 1 })]).syncAt 131071).owner = 1 ∧ ((syncUp 2 [(131071, { owner := 1 })]).syncAt 131071).bound = 0 ∧
      awaited 131071 (syncUp 2 [(131071, { owner := 1 })]) = false) ∧
    ((syncUp 2 [(5, { owner := 1, bound := 1 })]).syncAt 5).bound ≠ 0 ∧ ((syncUp 2 []).syncAt 5).owner ≠ 1 ∧
    awaited 5 { syncUp 2 [(5, { owner := 1 })] with sched := { up.sched with queue := [(8, { qOn with slots := [slot0 (cmd [(8, 1), (16, 5)]) true false] })] } } =
      true := by decide +kernel

/-- Every object is owned and the quota is not reached: SYNC_ALLOC finds none free. -/
theorem test_SyncRows_none_free : ∃ m : KMap SyncObj, syncCount ≤ lowestFree 0 m ∧ ∀ s : State, s.sync = m → syncUsed 1 s = 0 := by
  have key : ∀ (n k : Nat), lowestFree k ((List.range' k n).map (fun i => (i, ({ owner := 2 } : SyncObj)))) = k + n := by
    intro n
    induction n with
    | zero => intro k; rfl
    | succ n ih => intro k; rw [List.range'_succ, List.map_cons, lowestFree, if_pos rfl, if_neg (by decide), ih]; omega
  refine ⟨(List.range' 0 syncCount).map (fun i => (i, { owner := 2 })), by rw [key]; omega, fun s h => ?_⟩
  simp only [syncUsed, h, List.length_eq_zero_iff, List.filter_eq_nil_iff]
  intro e he
  obtain ⟨i, _, rfl⟩ := List.mem_map.mp he
  show ¬((2 : Owner) == 1) = true
  decide

def geo (a b c me : Byte) : KMap Byte := [(0x40, a), (0x41, b), (0x42, c), (0x43, me)]
def inkOff : State := { up with ink := { up.ink with enable := false }, glb := { surrEn := true } }
def hcUp (h : HCache) : State := { up with ink := { up.ink with hc := [(1, h)] } }
def hc0 : HCache := { base := 0, tags := 0, frames := 1 }

/-- InkwellControl: INK_ENABLE's checks, a cache of one frame, the tags of a cache, a grant, the owner of the first granule. -/
theorem test_InkwellControl_hypotheses :
    (∃ g, firstReason (inkChecks { inkOff with glb := g }) = none) ∧ firstReason (inkChecks { inkOff with glb := {} }) = some 0x0501 ∧
    ((hcUp hc0).hcAt 1 = hc0 ∧ ((hcUp hc0).ownAt 1).enable = true ∧ hc0.frames.toNat ≠ 0 ∧
      granulesOwned 1 hc0.base.toNat (hc0.frames.toNat * 0x10000) (hcUp hc0) = true ∧
      granulesOwned 1 hc0.tags.toNat (4 * hc0.frames.toNat) (hcUp hc0) = true) ∧
    (((hcUp { hc0 with init := true }).hcAt 1).init = true ∧ hbmUp (hcUp { hc0 with init := true }) = true) ∧
    (∃ w : Inkwell, 0 < w.tagWait ∧ w.tagsUsed.toNat < 4096) ∧ (49151 : W16).toNat < 49152 ∧ (fld (64 : W32) 0 7 : BitVec 7).toNat ≤ 64 ∧
    (up.granuleOwner 1 = 0x7F ∧ (up.ownAt (up.granuleOwner 0).toNat).enable = true ∧ up.granuleOwner 0 ≠ 0x7F) :=
  ⟨⟨{ surrEn := true, active := (List.range 6).flatMap (fun k => [(0x10 + 8 * k, 1), (0x11 + 8 * k, 16)]) }, by decide +kernel⟩, by decide +kernel, by decide +kernel, by decide +kernel,
    ⟨{ tagWait := 1, tagsUsed := 4095 }, by decide, by decide⟩, by decide +kernel, by decide +kernel, by decide +kernel⟩

def barUp : State := { up with ink := { up.ink with bar4Owner := 1 } }

def barNot : State := { up with ink := { up.ink with bar4Owner := 2 } }

/-- HbmAccess: the last bytes of HBM and the first past it, D3hot, a line of the BAR4 owner and one of another owner, the last owner
and one past it, patrol due on this tick. -/
theorem test_HbmAccess_hypotheses :
    (barUp.domRun 40 = true ∧ bar4Dpa 0 barUp = 0 ∧ hbmUp barUp = true ∧ barUp.ink.bar4Owner.toNat ≤ 64 ∧ barUp.host.d3hot = false ∧
      (barUp.wellAt (inkAt 0)).tagsUsed.toNat < 4096 ∧ ({ d3hot := true } : HostBlk).d3hot = true ∧ (64 : BitVec 7).toNat ≤ 64 ∧
      64 < (65 : BitVec 7).toNat ∧ barNot.ink.bar4Owner.toNat ≤ 64) ∧
    (∃ bs s', hbmRead 1 agHost 0 64 barUp = (.ok bs, s')) ∧
    (∃ s', hbmWrite (inkAt 0) 1 agHost 0 (wordBytes 64 (7 : BitVec 512)) barUp = (none, s')) ∧
    (∃ e s', hbmRead 2 agHost 0 64 barNot = (.error e, s')) ∧
    (∃ e s', hbmWrite (inkAt 0) 2 agHost 0 (wordBytes 64 (7 : BitVec 512)) barNot = (some e, s')) ∧
    (∃ off s, bar4Dpa off s = hbmTop ∧ bar4Dpa off s % 64 + 64 ≤ 64) ∧ (bar4Dpa 0 inkOff < hbmTop ∧ inkOff.ink.enable = false) ∧
    (up.ink.patrolEn = true ∧ up.domRun 23 = true ∧ kget false up.ink.busy 5 = false ∧ ((4 : W64) + 4096).ule 4100 = true ∧
      hbmChecks (stackDpa 5 (64 * kget 0 up.hbm.patrol 5)) 64 up.hbm = []) :=
  ⟨by decide +kernel, ⟨_, _, ok_eq (by decide +kernel)⟩, ⟨_, none_eq (by decide +kernel)⟩, ⟨_, _, err_eq (by decide +kernel)⟩,
    ⟨_, _, Prod.ext (some_eq (o := (hbmWrite (inkAt 0) 2 agHost 0 (wordBytes 64 (7 : BitVec 512)) barNot).1) (by decide +kernel)) rfl⟩,
    ⟨hbmTop, { up with host := { up.host with bar4Base := 0 } }, by decide +kernel, by decide +kernel⟩, by decide +kernel,
    by decide +kernel⟩

def corrUp : State := { barUp with hbm := { barUp.hbm with ecc := [(0, .corr)] } }

/-- HbmReadsBackWrites: two bytes on either side of a line's end, a corrected word in the line; a whole line through BAR4. -/
theorem test_HbmReadsBackWrites_hypotheses :
    (Memory.wf corrUp.hbm.mem = true ∧ kwf 0 corrUp.hbm.key = true ∧ ([1, 2] : List Byte) ≠ [] ∧
      (∀ b, 0x3F ≤ b → b < 0x3F + 2 → hbmGate 1 b corrUp = none) ∧
      ∀ e ∈ corrUp.hbm.ecc, 0x3F / 64 ≤ e.1 / 8 → e.1 / 8 ≤ (0x3F + 2 - 1) / 64 → e.2 ≠ .bad) ∧
    (corrUp.domRun 40 = true ∧ hbmUp corrUp = true ∧ corrUp.ink.bar4Owner.toNat ≤ 64 ∧ bar4Dpa 0 corrUp = 0 ∧
      hbmGate corrUp.ink.bar4Owner 0 corrUp = none ∧ ∀ e ∈ corrUp.hbm.ecc, e.1 / 8 = 0 / 64 → e.2 ≠ .bad) :=
  ⟨⟨by decide +kernel, by decide +kernel, by decide, fun b h1 h2 => by
      have h : b = 0x3F ∨ b = 0x40 := by omega
      rcases h with rfl | rfl <;> decide +kernel, by decide +kernel⟩, by decide +kernel⟩

-- Collectives, Madder and Kysto
def sort0 (iin n k mode : Nat) : List (Nat × Nat) := [(0, 0x18), (64, 0x40), (128, iin), (192, 0x10000), (256, 0x10040), (320, n), (356, mode), (384, k)]
def sAcc : Acc := collAcc 1 agSort
def sortHost : HostBytes := mapped (List.replicate 64 0 ++ [1, 0, 2, 0] ++ List.replicate 188 0)

def sorting : State := withDisp { disp0 (cmd (sort0 0 2 0 0)) with st := .running }

/-- SortAndGroups: two keys with generated and with given indices, the refusals at n = 0 and k = n, a failing read, group 15. -/
theorem test_SortAndGroups_hypotheses :
    (takeDisp 1 0 0 0x18 (withCmd (sort0 0 2 0 0)) = some (disp0 (cmd (sort0 0 2 0 0))) ∧
      (disp0 (cmd (sort0 0 2 0 0))).got = true ∧ sortBusy (withCmd (sort0 0 2 0 0)) = false ∧
      earlierQueued (disp0 (cmd (sort0 0 2 0 0))) 0x18 (withCmd (sort0 0 2 0 0)) = false ∧ sortReason (cmd (sort0 0 2 0 0)) = none ∧
      sortReason (cmd (sort0 0x80 2 0 0)) = none ∧ hbmUp (withCmd (sort0 0 2 0 0)) = true ∧
      sortReason (cmd (sort0 0 0 0 0)) = some 0x0602 ∧ sortReason (cmd (sort0 0 2 2 2)) = some 0x0602 ∧
      takeDisp 1 0 0 0x18 sorting = none ∧ runDisp 1 0 0 0x18 sorting = some { disp0 (cmd (sort0 0 2 0 0)) with st := .running } ∧
      hbmUp sorting = true ∧ (sortOf (cmd (sort0 0 2 0 0))).iin = 0 ∧ (sortOf (cmd (sort0 0x80 2 0 0))).iin ≠ 0) ∧
    (∃ kb s1 seed s3 s4 s5, lmaRead sAcc 0x40 4 sortHost sorting = (.ok kb, s1) ∧ tieSeed 1 kb s1 = (seed, s3) ∧
      lmaWrite sAcc 0x10000 (sortOut (sortOf (cmd (sort0 0 2 0 0))) seed kb []).1 s3 = (none, s4) ∧
      lmaWrite sAcc 0x10040 (sortOut (sortOf (cmd (sort0 0 2 0 0))) seed kb []).2 s4 = (none, s5)) ∧
    (∃ ib s2, lmaRead sAcc 0x80 8 sortHost sorting = (.ok ib, s2)) ∧
    (∃ e s1, lmaRead sAcc 0x40 4 [] sorting = (.error e, s1)) ∧
    (∃ s : State, ((15 : BitVec 4) ≠ 0 ∧ (s.grpAt 15).valid = false ∧ s.glb.surrEn = true ∧ chipNo s ∈ grpMembers s 15 ∧
      ∀ c ∈ grpMembers s 15, c < chipCount s)) ∧
    (∃ s : State, chipNo s ∉ grpMembers s 15) ∧
    (∃ s : State, grpValid s 15 = true ∧ 1 ∈ grpMembers s 15 ∧ 1 ≠ chipNo s ∧ (s.grpAt 15).ctl.length < 65536) := by
  refine ⟨by decide +kernel, ⟨_, _, _, _, _, _, ok_eq (by decide +kernel), rfl, none_eq (by decide +kernel), none_eq (by decide +kernel)⟩,
    ⟨_, _, ok_eq (by decide +kernel)⟩, ⟨_, _, err_eq (by decide +kernel)⟩,
    ⟨{ up with glb := { surrEn := true, active := geo 2 1 1 0 }, coll := { grp := [(15, { members := [(0, 3)] })] } }, by decide +kernel⟩,
    ⟨up, by decide +kernel⟩,
    ⟨{ up with glb := { surrEn := true, active := geo 2 1 1 0 }, coll := { grp := [(15, { valid := true, members := [(0, 3)] })] } },
      by decide +kernel⟩⟩

/-- A collective `op` of group 0 on a mesh of `n` chips, from chip `me`. -/
def coll0 (op : Nat) : List (Nat × Nat) :=
  [(0, 0x20), (64, op), (128, if op = 4 then 0 else 0x40), (192, if op = 4 then 0 else 0x10000), (256, if op = 4 then 0 else 1)]
def collUp (n me : Byte) (op : Nat) (st : DispSt) : State :=
  { withDisp { disp0 (cmd (coll0 op)) with st := st } with glb := { surrEn := true, active := geo n 1 1 me } }
def cAcc : Acc := collAcc 1 agColl

/-- Collectives: each operation on one chip, a broadcast's receiver and a member whose fields differ on two. -/
theorem test_Collectives_hypotheses :
    (∀ op ∈ [0, 1, 2, 4, 5], (∀ st ∈ [DispSt.queued, .running], collDisp 1 0 0 (collUp 1 0 op st) =
        some { disp0 (cmd (coll0 op)) with st := st }) ∧ (collOf (cmd (coll0 op))).op = op ∧
      collReason 1 (cmd (coll0 op)) (collUp 1 0 op .running) = none ∧
      groupBusy { disp0 (cmd (coll0 op)) with st := .running } (collUp 1 0 op .running) = false ∧
      ctlVerdict (collOf (cmd (coll0 op))) (collUp 1 0 op .running) = some true ∧ hbmUp (collUp 1 0 op .running) = true) ∧
    (∃ s : State, ctlVerdict (collOf (cmd (coll0 4))) s = some false) ∧
    (∀ op ∈ [0, 1, 2], ∃ mine s' vs t, lmaRead cAcc 0x40 4 (zeros 0x100) (collUp 1 0 op .running) = (.ok mine, s') ∧
      rankData (collOf (cmd (coll0 op))) mine [] s' = some vs ∧ lmaWrite cAcc 0x10000 (reduceAll 0 0 1 vs) s' = (none, t)) ∧
    (∀ op ∈ [1, 2], ∃ t, lmaWrite cAcc 0x10000 [1, 2, 3, 4] (collUp 1 0 op .running) = (none, t)) ∧
    (collOf (cmd (coll0 2))).root ≠ chipNo (collUp 2 1 2 .running) ∧ (collOf (cmd (coll0 2))).root = chipNo (collUp 1 0 2 .running) ∧
    (∃ t, sampleSort (collOf (cmd (coll0 5))) cAcc (zeros 0x100) [] (collUp 1 0 5 .running) = some ({}, t)) := by
  refine ⟨by decide +kernel, ⟨{ collUp 2 1 4 .running with coll := { grp := [(0, { ctl := [(0, 99)] })] } }, by decide +kernel⟩, ?_, ?_,
    by decide +kernel, by decide +kernel, ?_⟩
  · simp only [List.forall_mem_cons]
    exact ⟨⟨_, _, _, _, ok_eq (by decide +kernel), some_eq (by decide +kernel), none_eq (by decide +kernel)⟩,
      ⟨_, _, _, _, ok_eq (by decide +kernel), some_eq (by decide +kernel), none_eq (by decide +kernel)⟩,
      ⟨_, _, _, _, ok_eq (by decide +kernel), some_eq (by decide +kernel), none_eq (by decide +kernel)⟩, nofun⟩
  · simp only [List.forall_mem_cons]
    exact ⟨⟨_, none_eq (by decide +kernel)⟩, ⟨_, none_eq (by decide +kernel)⟩, nofun⟩
  · have h : (sampleSort (collOf (cmd (coll0 5))) cAcc (zeros 0x100) [] (collUp 1 0 5 .running)).map (·.1) = some {} := by decide +kernel
    obtain ⟨⟨a, t⟩, h1, h2⟩ := Option.map_eq_some_iff.mp h
    exact ⟨t, by rw [h1]; simp only at h2; rw [h2]⟩

def bx0 (dst count : Nat) : List (Nat × Nat) := [(0, 0x20), (64, 3), (128, 0x40), (192, dst), (256, count)]
def bxSt0 : BxSt := { arrive := 5, release := 5, rounds := 2 }
def bxUp (b : BxSt) : State :=
  { withDisp { disp0 (cmd (bx0 0 0)) with st := .running, bx := some b } with
    sync := [(5, { owner := 1, count := 2 })], part := [(64, { part0 with resident := true, launchAt := 92 })] }
def bxD (b : BxSt) : Disp := { disp0 (cmd (bx0 0 0)) with st := .running, bx := some b }
def bxOk (fs : List (Nat × Nat)) : State := { withCmd fs with part := [(64, { part0 with resident := true })] }

/-- BoundaryExchange: the refusals, a firing round whose arrivals are just reached, the last round and one before it, a batch on a
multiple of the period, and the timeout on its tick. -/
theorem test_BoundaryExchange_hypotheses :
    (takeDisp 1 0 0 0x20 (bxOk (bx0 0 0)) = some (disp0 (cmd (bx0 0 0))) ∧ (disp0 (cmd (bx0 0 0))).got = true ∧
      (collOf (cmd (bx0 0 0))).op = 3 ∧ bxReason 1 (cmd (bx0 0 0)) (bxOk (bx0 0 0)) = none ∧ hbmUp (bxOk (bx0 0 0)) = true ∧
      bxReason 1 (cmd (bx0 0 2048)) (bxOk (bx0 0 2048)) = none ∧ bxReason 1 (cmd (bx0 0 2049)) (bxOk (bx0 0 2049)) = some 0x0706 ∧
      bxReason 1 (cmd (bx0 0 0)) (withCmd (bx0 0 0)) = some 0x0707) ∧
    (runDisp 1 0 0 0x20 (bxUp bxSt0) = some (bxD bxSt0) ∧ bxFires (bxD bxSt0) bxSt0 (bxUp bxSt0) = true) ∧
    (∀ r ∈ [0, 1], bxComplete { bxSt0 with firedAt := some 90, round := r } = true) ∧
    (∀ p, (bxUp bxSt0).partAt pid = some p → ({ bxSt0 with period := 8 } : BxSt).period ≠ 0 ∧ p.st = .running) ∧
    (0 < ((100 : W64) - 92).toNat ∧ ((100 : W64) - 92).toNat % (8 : BitVec 20).toNat = 0) ∧
    (bxComplete { bxSt0 with firedAt := some 0, ins := [(0, 0, 0)] } = false ∧ ((0 : W64) + 1048576).ule 1048576 = true) :=
  ⟨by decide +kernel, by decide +kernel, by decide +kernel, fun p h => by
      have h' : p = { part0 with resident := true, launchAt := 92 } := by
        have : (bxUp bxSt0).partAt pid = some { part0 with resident := true, launchAt := 92 } := rfl
        rw [this] at h; exact (Option.some.inj h).symm
      subst h'; exact ⟨by decide +kernel, rfl⟩,
    by decide +kernel, by decide +kernel⟩

def src0 : Src := { on := true, healthy := true }
def srcStart (seen : Nat) (bad : Bool) : Src := { on := true, starting := true, seen := seen, bad := bad }
def drbg0 : Drbg := { ready := true, out := [] }
def madUp (m : Mad) : State := { up with mad := m }

/-- MadderPorts: the last bit of the start-up test and its end, a repetition of 61, each port, an input of 48 words and of 49. -/
theorem test_MadderPorts_hypotheses :
    ((srcStart 1023 false).starting = true ∧ (srcStart 1023 false).seen < 1024 ∧ (srcStart 1024 true).seen = 1024) ∧
    ((src0.test true).2 = (false, false) ∧ (({ src0 with last := true, runLen := 60 } : Src).test true).2.1 = true) ∧
    ((madUp { started := true }).mad.two = false ∧ (madUp { started := true }).mad.fatal = false) ∧
    (({} : Mad).offer = none ∧ nextInst (madUp { offer := some (0, []) }) = none ∧
      ∃ i, nextInst (madUp { offer := some (0, []), inst := [(4, { need := 1 })] }) = some i) ∧
    (({ len := 48 } : Drbg).len.toNat ≤ 48 ∧ ({} : Drbg).need = 0 ∧ ({} : Drbg).full = false ∧ ({ need := 1 } : Drbg).need ≠ 0 ∧
      ({ full := true } : Drbg).full = true ∧ 48 < ({ len := 49 } : Drbg).len.toNat ∧ ({ wrap := [[1]] } : Mad).wrap ≠ []) ∧
    (({ drbg0 with reqs := 65536 } : Drbg).ready = true ∧ ({ drbg0 with reqs := 65536 } : Drbg).need = 0 ∧
      ({ drbg0 with reqs := 65536 } : Drbg).full = false ∧ 65536 ≤ ({ drbg0 with reqs := 65536 } : Drbg).reqs.toNat) ∧
    ((madUp { src := [(0, src0), (2, src0)], rota := [0, 2] }).mad.rota.filter
      (fun k => ((madUp { src := [(0, src0), (2, src0)], rota := [0, 2] }).srcAt k).healthy) = [0, 2]) ∧
    (canGenerate 0 (madUp { inst := [(0, { drbg0 with reqs := 65535 })] }) = true ∧
      ∀ i ∈ [3, 4], ((madUp { inst := [(i, drbg0)] }).instAt i).out = [] ∧ canGenerate i (madUp { inst := [(i, drbg0)] }) = true) ∧
    ((0x107 : Agent).toNat < 0x108 ∧ 0x100 ≤ (0x100 : Agent).toNat ∧ ((madUp { inst := [(3, { drbg0 with out := [5] })] }).instAt 3).out = [5] ∧
      ((madUp { inst := [(4, { drbg0 with out := [5] })] }).instAt 4).out = [5]) :=
  ⟨by decide +kernel, by decide +kernel, by decide +kernel, ⟨rfl, by decide +kernel, _, some_eq (by decide +kernel)⟩, by decide +kernel, by decide +kernel,
    by decide +kernel, by decide +kernel, by decide +kernel⟩

/-- A frame with its CRC. -/
def frame (hdr : W32) (pay : BitVec 1024) : BitVec 1088 := crc32 (wordBytes 132 (pay ++ hdr)) ++ (pay ++ hdr)
theorem frHdr_frame (h : W32) (p : BitVec 1024) : frHdr (frame h p) = h := by
  ext i hi
  simp only [frHdr, frame, fld, BitVec.getElem_extractLsb', BitVec.getLsbD_append, Nat.zero_add]
  rw [if_pos (by omega), if_pos hi]; simp [hi]
theorem frPay_frame (h : W32) (p : BitVec 1024) : frPay (frame h p) = p := by
  ext i hi
  simp only [frPay, frame, fld, BitVec.getElem_extractLsb', BitVec.getLsbD_append]
  rw [if_pos (by omega), if_neg (by omega)]; simp [hi]
theorem frGood_frame (h : W32) (p : BitVec 1024) : frGood (frame h p) = true := by
  have h1 : fld (frame h p) 1056 32 = crc32 (wordBytes 132 (p ++ h)) := by
    ext i hi
    simp only [frame, fld, BitVec.getElem_extractLsb', BitVec.getLsbD_append]
    rw [if_neg (by omega)]; simp [hi]
  have h2 : wordBytes 132 (frame h p) = wordBytes 132 (p ++ h) := by
    refine List.map_congr_left fun i hi => ?_
    have := List.mem_range.mp hi
    ext j hj
    simp only [frame, BitVec.getElem_extractLsb', BitVec.getLsbD_append (x := crc32 _)]
    rw [if_pos (by omega)]
  simp [frGood, h1, h2]
def linkUp (k : Link) : State :=
  { up with glb := { surrEn := true, active := [(0x40, 2), (0x41, 1), (0x42, 1), (0x50, 1), (0x51, 9)] }, kl := { enable := 1, link := [(0, k)] } }
def lk : Link := { st := .up }
/-- A packet for chip `dst` with operation `op`, in class 0. -/
def pkt (dst op st : Nat) : Pkt := { buf := 0, frames := [BitVec.ofNat 1024 (dst + op * 0x10000 + st * 2 ^ 46)] }
def rtag : RTag := { cmd := { owner := 1 }, sentAt := 0, chip := 1, addr := 0, wr := false, len := 1 }

/-- KystoLinks: a frame of each type, a resend that still has a try and the ninth, packets for here, for chip 1 and for none, the
timeouts on their ticks. -/
theorem test_KystoLinks_hypotheses :
    (firstReason (klChecks { linkUp lk with kl := {} } 0) = none ∧ neighbour (linkUp lk) 0 = 1 ∧ linkDim (linkUp lk) 0 = 0) ∧
    (∃ f, frGood f = true ∧ fld (frHdr f) 30 2 = (0 : BitVec 2) ∧ fld (frHdr f) 17 10 = lk.rxSeq ∧
      fld (frHdr f) 27 3 ≠ (6 : BitVec 3) ∧ fld (frHdr f) 27 3 ≠ (7 : BitVec 3)) ∧
    (∃ f k', frGood f = true ∧ fld (frHdr f) 30 2 = (1 : BitVec 2) ∧ lk.takeLink f 5 = some k') ∧
    (∃ (k : Link) (f : BitVec 1088), frGood f = true ∧ fld (frHdr f) 30 2 = (1 : BitVec 2) ∧ k.takeLink f 5 = none) ∧
    (∃ k', ({ lk with stuck := 7, replay := [⟨0, 0, 0⟩] } : Link).resendFrom 0 2048 = some k') ∧
    ({ lk with stuck := 8, replay := [⟨0, 0, 0⟩] } : Link).resendFrom 0 2048 = none ∧
    ((0 : W64) + 2048).ule 2048 = true ∧ ((0 : W64) + 1024).ule 1024 = true ∧
    (∀ p ∈ [pkt 0 6 0, pkt 1 0 0, pkt 2 0 0, pkt 0 7 0], (({ lk with rx := [p] } : Link).takeRx 0).map (·.1) = some p ∧
      (p.metered && (0 : W64).ult (p.dueAt 0)) = false) ∧
    ((pkt 0 6 0).op ≤ 6 ∧ (pkt 0 6 0).dst = chipNo (linkUp lk) ∧ (pkt 1 0 0).dst < chipCount (linkUp lk) ∧ (pkt 1 0 0).dst ≠ chipNo (linkUp lk) ∧
      chipCount (linkUp lk) ≤ (pkt 2 0 0).dst ∧ 6 < (pkt 0 7 0).op) ∧
    (hbmUp { up with kl := { reqIn := [pkt 0 0 0] } } = true ∧ rspSlots { up with kl := { reqIn := [pkt 0 0 0] } } < 256) ∧
    ((pkt 0 2 0).status = 0 ∧ (pkt 0 2 1).status ≠ 0 ∧ kfind [(0, rtag)] (pkt 0 2 1).tag.toNat = some rtag ∧
      kfind ([] : KMap RTag) (pkt 0 2 1).tag.toNat = none) ∧
    (rtag.sentAt + 1048576).ule 1048576 = true := by
  refine ⟨by decide +kernel, 
    ⟨frame 0 0, frGood_frame .., by rw [frHdr_frame]; decide +kernel⟩,
    ⟨frame 0x40000000 0, _, frGood_frame .., by rw [frHdr_frame]; decide +kernel,
      some_eq (by unfold Link.takeLink; rw [frPay_frame, frHdr_frame]; decide +kernel)⟩,
    ⟨{ lk with sent := [(0, 0x8000)] }, frame 0x40000000 0, frGood_frame .., by rw [frHdr_frame]; decide +kernel,
      Option.isNone_iff_eq_none.mp (by unfold Link.takeLink; rw [frPay_frame, frHdr_frame]; decide +kernel)⟩,
    ⟨_, some_eq (by decide +kernel)⟩, by decide +kernel, by decide +kernel, by decide +kernel, by decide +kernel, by decide +kernel,
    by decide +kernel, by decide +kernel, by decide +kernel⟩

/-- Chip 1 of two, its parent on link 0. -/
def child (t : W64) (k : Kl) : State :=
  { up with glb := { surrEn := true, active := [(0x40, 2), (0x41, 1), (0x42, 1), (0x43, 1), (0x50, 1), (0x51, 9)] }, now := t
            kl := { k with link := [(0, lk), (1, lk)] }, tk := { syncEn := true } }

/-- TickSynchronisation: a request on a multiple of 2048, a request and a reply, the eighth reply missing, a pulse. -/
theorem test_TickSynchronisation_hypotheses :
    (∃ n, parentLink (child 2048 {}) = some n ∧ exchanging (child 2048 {}) = true ∧ (child 2048 {}).now.toNat % 2048 = 0 ∧
      ((child 2048 {}).linkAt n).st = .up) ∧
    (∃ f, frGood f = true ∧ fld (frHdr f) 30 2 = (2 : BitVec 2) ∧ fld (frPay f) 0 8 = (0 : Byte)) ∧
    (∃ f, frGood f = true ∧ fld (frHdr f) 30 2 = (2 : BitVec 2) ∧ fld (frPay f) 0 8 = (1 : Byte) ∧
      (child 2048 { t1 := some 0 }).kl.t1 = some (fld (frPay f) 96 64) ∧ (child 2048 { t1 := some 0 }).kl.acqBusy = false) ∧
    (8 ≤ (child 2048 { missed := 8 }).kl.missed ∧ (child 2048 { missed := 8 }).kl.acqBusy = false) ∧
    (∃ s : State, s.tk.syncEn = false ∧ anyCtx s = false ∧ parentUp s = true) ∧
    ((child 8192 { syncOutEn := true }).kl.syncOutEn = true ∧ (child 8192 {}).now.toNat % 8192 = 0) ∧
    (child 0 { src := true, acqBusy := true }).kl.inEdges.length ≠ 63 :=
  ⟨⟨_, some_eq (by decide +kernel), by decide +kernel, by decide +kernel, by decide +kernel⟩, 
    ⟨frame 0x80000000 0, frGood_frame .., by rw [frHdr_frame]; decide +kernel, by rw [frPay_frame]; decide +kernel⟩,
    ⟨frame 0x80000000 1, frGood_frame .., by rw [frHdr_frame]; decide +kernel, by rw [frPay_frame]; decide +kernel,
      by rw [frPay_frame]; decide +kernel, by decide +kernel⟩, by decide +kernel,
    ⟨{ child 0 {} with tk := {}, sched := {} }, by decide +kernel⟩, by decide +kernel, by decide +kernel⟩

-- Sepia
def line0 : Nat := sramLine0
def busReq (op : BusOp) : BusReq := { ag := 0x100, op := op, line := line0 }
def sepUp (x : Sep) : State := { up with glb := { atReset := false }, sep := { x with run := 1 } }
/-- A core at the first word of control SRAM, with that line in its instruction cache. -/
def coreUp (k : Core) (w : W32) : State :=
  sepUp { core := [(0, { k with pc := 0x10000000, ic := [(setOf line0, [(line0, w.setWidth 512)])] })] }
def addiWord : W32 := 0x00500093
def fres (r : FetchRes) : Option W16 := match r with | .got h _ => some h | _ => none
theorem got_eq {r : FetchRes} {h : W16} (e : fres r = some h) : ∃ s, r = .got h s := by
  cases r with
  | got h' s => exact ⟨s, by simp only [fres, Option.some.injEq] at e; rw [e]⟩
  | miss s => cases e
  | fault s => cases e
def missed (r : FetchRes) : Bool := match r with | .miss _ => true | _ => false
theorem miss_eq {r : FetchRes} (e : missed r = true) : ∃ s, r = .miss s := by
  cases r with
  | miss s => exact ⟨s, rfl⟩
  | got h s => cases e
  | fault s => cases e
def accOk (r : AccR × State) : Option W32 := match r.1 with | .ok d => some d | _ => none
theorem acc_eq {r : AccR × State} {d : W32} (e : accOk r = some d) : ∃ s, r = (.ok d, s) := by
  obtain ⟨a, s⟩ := r
  cases a with
  | ok d' => exact ⟨s, by simp only [accOk, Option.some.injEq] at e; rw [e]⟩
  | _ => cases e
def accErr (r : AccR) : Bool := match r with | .err => true | _ => false
theorem acc_err {r : AccR} (e : accErr r = true) : r = .err := by
  cases r with
  | err => rfl
  | _ => cases e
/-- Two accesses, the second after the first. -/
theorem acc2_eq {a : AccR × State} {f : State → AccR × State} {d e : W32} (h : accOk a = some d) (h' : accOk (f a.2) = some e) :
    ∃ t u, a = (.ok d, t) ∧ f t = (.ok e, u) := by
  obtain ⟨t, ht⟩ := acc_eq h
  rw [ht] at h'
  obtain ⟨u, hu⟩ := acc_eq h'
  exact ⟨t, u, ht, hu⟩

/-- SepiaBus: a request of each kind that no snoop defers, a grant after the last port, a holder to time out. -/
theorem test_SepiaBus_hypotheses :
    (∀ p : Nat, p = 9 → busUp (sepUp { port := [(9, [busReq .nrd])], lastPort := 9 }) = true ∧
      ((List.range 10).map (fun i => ((9 : BitVec 4).toNat + 1 + i) % 10)).find?
        (fun p => (kget [] (sepUp { port := [(9, [busReq .nrd])], lastPort := 9 }).sep.port p) ≠ []) = some p) ∧
    (∀ op ∈ [BusOp.busRd, .busRdX, .busUpgr, .evc, .wb, .nrd, .nwr 1 2, .namo 0 3 4],
      (sepUp { cur := some (busReq op) }).sep.cur = some (busReq op) ∧ busUp (sepUp { cur := some (busReq op) }) = true ∧
      defers (sepUp { cur := some (busReq op) }) line0 (holders (sepUp { cur := some (busReq op) }) line0 0) = false) ∧
    (7 : BitVec 3).toNat ∈ holders (sepUp { cur := some (busReq .busRd), filt := [(8 * line0 + 7, true)] }) line0 0 :=
  ⟨fun p h => by subst h; decide +kernel, by decide +kernel, by decide +kernel⟩

def unc (wr : Bool) (r : Option (Bool × W32)) : Uncached :=
  { addr := 0x030000000000, wr := wr, funct3 := 2, rd := 5, v := 7, va := 0x80000000, npc := 0x10000004, sent := r.isSome, resp := r }

/-- SepiaCores: an instruction of 32 bits and one of 16 that hit, a miss, each interrupt, an uncached load and its responses. -/
theorem test_SepiaCores_hypotheses :
    (coreRuns (coreUp {} addiWord) 0 = true ∧ ((coreUp {} addiWord).coreAt 0).uncached = none ∧ ((coreUp {} addiWord).coreAt 0).wfi = false ∧
      softIrq (coreUp {} addiWord) 0 = none) ∧
    (∃ cause, softIrq { coreUp { mstatus := 8, mie := 8 } addiWord with
      sep := { (coreUp { mstatus := 8, mie := 8 } addiWord).sep with msip := 1 } } 0 = some cause) ∧
    (∃ s1, fetch16 0 0x10000000 (coreUp {} addiWord) = .got 0x0093 s1 ∧ fld (0x0093 : W16) 0 2 = (3 : BitVec 2) ∧
      ∃ s2, fetch16 0 (0x10000000 + 2) s1 = .got 0x0050 s2) ∧
    (∃ s1 w, fetch16 0 0x10000000 (coreUp {} 0x0505) = .got 0x0505 s1 ∧ fld (0x0505 : W16) 0 2 ≠ (3 : BitVec 2) ∧ expand 0x0505 = some w) ∧
    (∃ s1, fetch16 0 0x10000000 (sepUp { core := [(0, { pc := 0x10000000 })] }) = .miss s1) ∧
    (isEbreakDbg 0 addiWord (coreUp { skipCmp := true } addiWord) = false ∧ ((coreUp { skipCmp := true } addiWord).coreAt 0).skipCmp = true ∧
      (match execRv 0 addiWord 4 (coreUp { skipCmp := true } addiWord) with
        | .ok _ t => decide ((t.dcoreAt 0).cause ≠ 7) && !(t.coreAt 0).stepping | _ => false) = true) ∧
    (∀ wr : Bool, (unc wr none).sent = false ∧ (unc wr none).funct3 = 2) ∧
    (∃ d, ∃ t, memRead 0x100 0x030000000000 4 (coreUp { uncached := some { unc false none with sent := true } } 0) = (.ok d, t)) ∧
    (∃ d, ∃ t, memWrite 0x100 0x030000000000 4 7 (coreUp { uncached := some { unc true none with sent := true } } 0) = (.ok d, t)) ∧
    (∀ wr e : Bool, ((coreUp { uncached := some (unc wr (some (e, 9))) } 0).coreAt 0).uncached = some (unc wr (some (e, 9)))) ∧
    (∃ s : State, coreRuns s 0 = true ∧ (s.coreAt 0).stepping = false ∧ extLine s 0 = true ∧ bit (s.coreAt 0).mie 11 = true ∧
      ((s.coreAt 0).mmode = true → bit (s.coreAt 0).mstatus 3 = true)) ∧
    (mtimecmpOf (sepUp { mtimecmp := [(0, 100)] }) 0).ule (sepUp { mtimecmp := [(0, 100)] }).now = true := by
  refine ⟨by decide +kernel, ⟨_, some_eq (by decide +kernel)⟩, ?_, ?_, miss_eq (by decide +kernel), by decide +kernel, by decide +kernel,
    ⟨_, acc_eq (d := 0x5E000111) (by decide +kernel)⟩, ⟨_, acc_eq (d := 0) (by decide +kernel)⟩, by decide +kernel,
    ⟨{ coreUp { mstatus := 8, mie := 0x800 } 0 with
        sep := { (coreUp { mstatus := 8, mie := 0x800 } 0).sep with pend := [(5, true)], src := [(5, 0x101)] } }, by decide +kernel⟩,
    by decide +kernel⟩
  · obtain ⟨s1, h1⟩ := got_eq (r := fetch16 0 0x10000000 (coreUp {} addiWord)) (h := 0x0093) (by decide +kernel)
    refine ⟨s1, h1, by decide, got_eq ?_⟩
    have h2 : (match fetch16 0 0x10000000 (coreUp {} addiWord) with
      | .got _ s1 => fres (fetch16 0 (0x10000000 + 2) s1) | _ => none) = some 0x0050 := by decide +kernel
    rw [h1] at h2; exact h2
  · obtain ⟨s1, h1⟩ := got_eq (r := fetch16 0 0x10000000 (coreUp {} 0x0505)) (h := 0x0505) (by decide +kernel)
    exact ⟨s1, _, h1, by decide, some_eq (by decide +kernel)⟩

/-- SepiaControl: sources 1, 16 and 20, a claim and none, SEP_RUN on the last core, a page that is written and one refused. -/
theorem test_SepiaControl_hypotheses :
    srcActive { up with mad := { fatal := true } } 18 = true ∧
    kget false (sepUp {}).sep.pend 20 = false ∧ kget false (sepUp {}).sep.claimed 20 = false ∧
    (∃ n, bestSource (sepUp { pend := [(5, true)], src := [(5, 0x8001)] }) 7 = some n) ∧ bestSource (sepUp {}) 7 = none ∧
    ((sepUp {}).domRun 17 = true ∧ (sepUp { resetting := true }).sep.resetting = true) ∧
    (∃ s : State, s.domRun 17 = false) ∧
    ((1 : Byte) &&& ~~~(sepUp {}).sep.run = 0 ∧ (0x80 : Byte) &&& ~~~(sepUp {}).sep.run ≠ 0 ∧
      (∀ c < 8, bit (0x80 : Byte) c = true → bit (sepUp {}).sep.run c = false → (kget 0 (sepUp {}).sep.owner c).toNat ≤ 64) ∧
      64 < (kget 0 (sepUp { owner := [(7, 65)] }).sep.owner 7).toNat) ∧
    ((sepUp {}).sep.down = false ∧ (sepUp {}).sep.bfl.op = none ∧ (sepUp {}).sep.bfl.refuses 0 = false ∧
      (sepUp { bfl := { progd := [(0, true)] } }).sep.bfl.refuses 0 = true) ∧
    (∃ t, sramPage 0 4 (sepUp { down := true }) = (none, t)) ∧ (∃ d t, sramPage 0 4 (sepUp {}) = (some d, t)) := by
  refine ⟨by decide +kernel, by decide +kernel, by decide +kernel, ⟨_, some_eq (by decide +kernel)⟩, by decide +kernel, by decide +kernel,
    ⟨{ up with pwr := { dom := [(17, { st := .gated })] } }, by decide +kernel⟩, by decide +kernel, by decide +kernel, ⟨_, none_eq (by decide +kernel)⟩, ?_⟩
  have h : (sramPage 0 4 (sepUp {})).1.isSome = true := by decide +kernel
  exact ⟨_, _, Prod.ext (some_eq h) rfl⟩

-- Vellum
def velUp (v : Vel) : State := { up with glb := { surrEn := true, atReset := false }, vel := v }
def gcfg0 (plan : KMap Plan) : GCfg := { plan := plan, sport := [], tap := [], mboxRam := 0, undef := false, syncA := none, syncB := none }

/-- VellumRelease: a loaded configuration with no plan passes, a missing one does not, and each stage up and down. -/
theorem test_VellumRelease_hypotheses :
    firstReason (releaseChecks (velUp { loaded := true, gcfg := some (gcfg0 []) })) = none ∧ firstReason (releaseChecks (velUp {})) = some 0x0902 ∧
    (∀ v ∈ [({ release := true, stage := 0 } : Vel), { release := true, stage := 1 }, { release := true, stage := 2 },
      { release := true, stage := 3, reversing := true }], v.release = true) ∧ (191 : Byte).toNat < 192 := by decide +kernel

def sportUp (p : Sport) : State :=
  { velUp { gcfg := some (gcfg0 []), sport := [(5, p)] } with glb := { surrEn := true, atReset := false, own := 0x20 } }

/-- UserFlashAndSerial: the fabric and the registers as owners, a page refused, FIFOs of 15 and 16 words. -/
theorem test_UserFlashAndSerial_hypotheses :
    (∀ fab : Bool, ∃ s : State, uflMine fab s = true ∧ (fab = true → 2 ≤ s.vel.stage.toNat) ∧ s.vel.ufl.op = none ∧ s.vel.ufl.refuses 0 = false) ∧
    (∃ s : State, uflMine true s = true ∧ s.vel.ufl.op = none ∧ s.vel.ufl.refuses 0 = true ∧ 2 ≤ s.vel.stage.toNat) ∧
    (∃ s : State, uflMine true s = false) ∧
    (sportReg (sportUp {}) 5 = true ∧ sportUndef 5 ({} : Sport).ctl = false) ∧ (∃ s : State, ∃ c, sportReg s 5 = true ∧ pinsOk s 5 c = true ∧ sportUndef 5 c = false) ∧
    (∃ s : State, ∃ c, sportReg s 5 = true ∧ pinsOk s 5 c = false) ∧
    (({ tx := List.replicate 15 0 } : Sport).tx.length < 16 ∧ 16 ≤ ({ tx := List.replicate 16 0 } : Sport).tx.length ∧
      ({ live := true, rx := List.replicate 15 0 } : Sport).rx.length < 16 ∧ 16 ≤ ({ live := true, rx := List.replicate 16 0 } : Sport).rx.length) := by
  refine ⟨fun fab => ?_, ⟨velUp { stage := 2, ufl := { progd := [(0, true)] } }, by decide +kernel⟩,
    ⟨{ velUp {} with glb := { own := 0x100 } }, by decide +kernel⟩, by decide +kernel,
    ⟨{ sportUp {} with vel := { gcfg := some (gcfg0 ((List.range 192).map (fun p => (p, .hard 5)))) } }, 0x20, by decide +kernel⟩,
    ⟨sportUp {}, 0x20, by decide +kernel⟩, by decide +kernel⟩
  cases fab
  · exact ⟨{ velUp {} with glb := { own := 0x100 } }, by decide +kernel⟩
  · exact ⟨velUp { stage := 2 }, by decide +kernel⟩

def slvUp : State := velUp { stage := 3, slvEn := true, mstEn := true, slv := [⟨0x110, 0, false, 0⟩] }

/-- FabricPorts: a probe on a spare pin and on one that is not, both ends of the slave window, a master read of a register. -/
theorem test_FabricPorts_hypotheses :
    (∃ (s : State) (n : BitVec 4), bit (kget 0 s.vel.probe n.toNat) 31 = false ∧ planOf s (fld (kget 0 s.vel.probe n.toNat) 16 8 : Byte).toNat = .spare ∧
      (∀ m < 16, m ≠ n.toNat → bit (kget 0 s.vel.probe m) 31 = true →
        (fld (kget 0 s.vel.probe m) 16 8 : Byte).toNat ≠ (fld (kget 0 s.vel.probe n.toNat) 16 8 : Byte).toNat) ∧
      gimSource (fld (kget 0 s.vel.probe n.toNat) 0 13 : BitVec 13).toNat = true) ∧
    planOf (velUp {}) 0 ≠ .spare ∧
    (0x030000C80000 ≤ (0x030000CFFFFC : Dpa).toNat ∧ (0x030000CFFFFC : Dpa).toNat < 0x030000D00000 ∧ (0x030000CFFFFC : Dpa).toNat % 4 = 0 ∧
      slvUp.vel.slvEn = true ∧ slvUp.vel.stage = 3) ∧
    (∃ t, mstAccess 0 (alignDown 2 (0x030000000003 : Dpa)) 0 { slvUp with vel := { slvUp.vel with
      mst := some { op := 0, a := alignDown 2 (0x030000000003 : Dpa), d := 0 } } } = (.ok 0x5E000111, t)) ∧
    (slvUp.vel.mst = none ∧ slvUp.sep.down = false ∧ slvUp.sep.resetting = false) :=
  ⟨⟨velUp { gcfg := some (gcfg0 [(0, .spare)]) }, 0, by decide +kernel⟩, by decide +kernel, by decide +kernel, acc_eq (by decide +kernel), by decide +kernel⟩

/-- ConfigurationLoad: a boot, each source of a commanded load, the FIFO at 63 and 64 words, the last frame that reads back. -/
theorem test_ConfigurationLoad_hypotheses :
    (velUp { bootDue := true }).domRun 18 = true ∧ (velUp { bootDue := true }).vel.recovery = false ∧ (velUp { bootDue := true }).vel.bootsrc = 0 ∧
    (velUp { bootDue := true, recovery := true }).vel.recovery = true ∧ ({ passed := true } : Vel).irpWords = [] ∧
    (∀ v ∈ [({ src := 0 } : Vel), { src := 1 }, { src := 2, ovf := true }, { src := 3 }], v.qspiDue = false ∧ v.release = false ∧ v.stage = 0 ∧ v.busy = false) ∧
    (fld (0x7FF000 : BitVec 24) 0 12 = (0 : BitVec 12) ∧ fld (0x7FF800 : BitVec 24) 0 12 ≠ (0 : BitVec 12) ∧ ({ qspiDue := true } : Vel).qspiDue = true ∧
      ({ busy := true } : Vel).busy = true ∧ ({ strm := some [] } : Vel).strm = some []) ∧
    (({ dinBusy := true, din := [0] } : Vel).din ≠ [] ∧ (readImage [0] (fun _ => false) .stream idcodeVal).fail.isSome = true ∧ ({} : Vel).din = [] ∧
      ((({} : Vel).dinShift >>> 1) ||| 0x80000000 ≠ 0x5E70C0DE) ∧ (List.replicate 7 true).length = 7 ∧ (List.replicate 6 true).length ≠ 7) ∧
    (({ fifo := List.replicate 63 0 } : Vel).fifo.length < 64 ∧ ({ fifo := List.replicate 63 0 } : Vel).strm = none ∧
      64 ≤ ({ fifo := List.replicate 64 0 } : Vel).fifo.length) ∧ (3263 : BitVec 12).toNat < 3264 := by decide +kernel

theorem succ_ne (c : W32) : c + 1 ≠ c := by
  intro h
  have := congrArg (· - c) h
  simp at this
def irpUp (v : Vel) : State := { velUp v with glb := { own := 0 } }

/-- RewritePort: either path as the owner, the last region and one past it, a frame in and out of its CRC, a region of one frame that
is complete and not. -/
theorem test_RewritePort_hypotheses :
    (∀ fab : Bool, (∃ s, irpMine fab s = true) ∧ ∃ s, irpMine fab s = false) ∧
    (bit (0x10 : BitVec 5) 4 = true ∧ bit (0 : BitVec 5) 4 = false ∧ (fld (0x10000000 : W32) 28 4 : BitVec 4) = 1) ∧
    ((0x20000000 : W32) &&& 0xFE00CFFF ≠ 0x10000000 ∧ 272 ≤ (fld (0x11100000 : W32) 16 9 : BitVec 9).toNat ∧ ({ irpOpen := true } : Vel).irpOpen = true ∧
      ({} : Vel).irpOpen = false ∧ ({} : Vel).irp ≠ .failed ∧ ({ irp := .failed } : Vel).irp = .failed) ∧
    ([(0x10000000 : W32), 0x110F3000].all (fun w => w &&& 0xFE00CFFF == 0x10000000 && decide ((fld w 16 9 : BitVec 9).toNat < 272)) = true) ∧
    (∀ d : BitVec 1024, ∃ c, c = frameCrcW 3072 d) ∧ (∀ d : BitVec 1024, ∃ c, c ≠ frameCrcW 3072 d) ∧
    (3072 < nFrames ∧ regionOf 3072 = (64 : BitVec 9).toNat) ∧
    framesOf (64 : BitVec 9).toNat = [3072] := by
  refine ⟨fun fab => ?_, by decide +kernel, by decide +kernel, by decide +kernel, fun d => ⟨frameCrcW 3072 d, rfl⟩, fun d => ⟨frameCrcW 3072 d + 1, succ_ne (frameCrcW 3072 d)⟩, by decide +kernel,
    by decide +kernel⟩
  cases fab
  · exact ⟨⟨{ irpUp {} with glb := { own := 0x200 } }, by decide +kernel⟩, irpUp {}, by decide +kernel⟩
  · exact ⟨⟨irpUp {}, by decide +kernel⟩, { irpUp {} with glb := { own := 0x200 } }, by decide +kernel⟩

/-- ConfigurationProtection: a locked slot and an open one, a page refused, a pass with every frame masked. -/
theorem test_ConfigurationProtection_hypotheses :
    (fld (4 : BitVec 4) 2 2 ≠ (velUp {}).vel.golden ∧ bit (velUp {}).vel.lock (velUp {}).vel.golden.toNat = false ∧
      bit (velUp { lock := 8 }).vel.lock (velUp { lock := 8 }).vel.golden.toNat = true) ∧
    (bit (velUp {}).vel.lock (cflSlot (velUp {})) = false ∧ (velUp {}).vel.cfl.refuses (cflPage (velUp {})) = false ∧
      bit (velUp { lock := 1 }).vel.lock (cflSlot (velUp { lock := 1 })) = true ∧ (1 : BitVec 5) ≠ 0 ∧
      (velUp { cfl := { progd := [(0, true)] } }).vel.cfl.refuses (cflPage (velUp { cfl := { progd := [(0, true)] } })) = true ∧
      ({ cfl := { op := some (.erase 0) } } : Vel).cfl.op = some (.erase 0) ∧ ({} : Vel).cfl.op = none ∧ ({ recovery := true } : Vel).recovery = true) ∧
    (∃ s : State, s.vel.scrubEn = true ∧ s.vel.scrubFault = false ∧ s.vel.loaded = true ∧ s.domRun 18 = true ∧ ∀ f < nFrames, scrubChecks s f = false) := by
  refine ⟨by decide +kernel, by decide +kernel, velUp { loaded := true, mask := (List.range 112).map (fun k => (k, 0xFFFFFFFF)) }, rfl, rfl, rfl,
    by decide +kernel, fun f hf => ?_⟩
  have h : ∀ k < 112, kget (0 : W32) ((List.range 112).map (fun k => (k, 0xFFFFFFFF))) k = 0xFFFFFFFF := by decide +kernel
  have hb : ∀ i < 32, bit (0xFFFFFFFF : W32) i = true := by decide
  have hk : bit (kget (0 : W32) ((List.range 112).map (fun k => (k, 0xFFFFFFFF))) (f / 32)) (f % 32) = true := by
    rw [h _ (by simp only [nFrames] at hf; omega)]; exact hb _ (by omega)
  have hm : bit (kget 0 (velUp { loaded := true, mask := (List.range 112).map (fun k => (k, 0xFFFFFFFF)) }).vel.mask (f / 32)) (f % 32) = true := hk
  rw [scrubChecks, hm, Bool.not_true, Bool.and_false, Bool.false_and]

-- Plant, debug, power and the host
/-- A surroundings table: one chip; mailbox 0 limited to 10 .. 20 with a given ACTION. -/
def surr0 (action : Byte) : KMap Byte :=
  [(0, 1), (0x40, 1), (0x41, 1), (0x42, 1), (0x60, 20), (0x62, 10), (0x63, 20), (0x500, 10), (0x504, 20), (0x50C, 2 * action)]
def post0 (v : W32) : XItem := { item (.post id0 0 v) true with cls := .q2p, src := 0 }
def plantUp (a : Byte) (p : Plant) (box : List XItem) : State := { up with glb := { surrEn := true, active := surr0 a }, plant := p, inbox := box }

/-- PlantPort and PlantBindingAndLimits: posts at the limits and just outside them, with each ACTION, with no binding, the trip. -/
theorem test_PlantPort_hypotheses :
    (∀ v ∈ [9, 10, 20, 21], ∀ a ∈ [0, 1, 2], (inboxTake isPost postKey (plantUp (BitVec.ofNat 8 a) { decBind := [(0, pid)] } [post0 (BitVec.ofNat 32 v)])).isSome = true ∧
      kfind (plantUp (BitVec.ofNat 8 a) { decBind := [(0, pid)] } []).plant.decBind 0 = some pid ∧
      (plantUp (BitVec.ofNat 8 a) {} []).mbAction 0 = BitVec.ofNat 2 a ∧
      (mbLess ((plantUp (BitVec.ofNat 8 a) {} []).mbSigned 0) (BitVec.ofNat 32 v) ((plantUp (BitVec.ofNat 8 a) {} []).mbLo 0) ||
        mbLess ((plantUp (BitVec.ofNat 8 a) {} []).mbSigned 0) ((plantUp (BitVec.ofNat 8 a) {} []).mbHi 0) (BitVec.ofNat 32 v)) =
        (v == 9 || v == 21) ∧
      (limitCheck ((plantUp (BitVec.ofNat 8 a) {} []).mbSigned 0) ((plantUp (BitVec.ofNat 8 a) {} []).mbAction 0)
        ((plantUp (BitVec.ofNat 8 a) {} []).mbLo 0) ((plantUp (BitVec.ofNat 8 a) {} []).mbHi 0) (BitVec.ofNat 32 v) 0).2 =
        (a != 0 && (v == 9 || v == 21))) ∧
    kfind (plantUp 0 {} []).plant.decBind 0 ≠ some pid ∧
    (bit ({} : Plant).evSrc 63 = false ∧ bit ({ evSrc := 0x8000000000000000 } : Plant).evSrc 63 = true ∧ ({ evTaken := 1 } : Plant).evTaken ≠ 0) ∧
    (({ tripUnseen := true } : Plant).tripUnseen = true ∧ ({} : Plant).tripPin = false ∧ ({ tripPin := true } : Plant).tripPin = true ∧
      ({ tripAge := 1 } : Plant).tripAge.toNat < 2 ∧ 2 ≤ ({ tripAge := 2 } : Plant).tripAge.toNat ∧ (plantUp 0 { tripUnseen := true } []).domRun 40 = true) := by decide +kernel

def wireUp (d : Dbg) : State := { up with dbg := { d with session := true, oscOn := true }, glb := { atReset := false } }

/-- DebugWire: the first register, an odd address and both ends of the register space, HBM, a halted core and a running one. -/
theorem test_DebugWire_hypotheses :
    (wireOk (wireUp {}) = true ∧ wireOk up = false) ∧
    ((0x030003FFFFFC : Dpa).toNat % 4 = 0 ∧ (0x030003FFFFFC : Dpa).toNat < 0x030004000000 ∧ 0x030000000000 ≤ (0x030000000000 : Dpa).toNat ∧
      0x030004000000 ≤ (0x030004000000 : Dpa).toNat ∧ (0x030000000001 : Dpa).toNat % 4 ≠ 0) ∧
    (∃ t, regRead agDbg 0x030000000000 (wireUp {}) = (.ok 0x5E000111, t)) ∧ (∃ t, regWrite agDbg 0x030000000010 0 (wireUp {}) = (.ok 0, t)) ∧
    ((0x17FFFFFFF8 : Dpa).toNat % 8 = 0 ∧ (0x17FFFFFFF8 : Dpa).toNat < hbmTop ∧ (hbmReach agDbg 0 (wireUp {})).isNone = true) ∧
    (∃ bs t, dbgHbmRead 0 (wireUp {}) = (some bs, t)) ∧ (∃ t, hbmWrite (inkAt 0) 1 agDbg 0 (wordBytes 8 (5 : W64)) (wireUp { accOwner := 1 }) = (none, t)) ∧
    (∃ e t, hbmWrite (inkAt 0) 2 agDbg 0 (wordBytes 8 (5 : W64)) (wireUp { accOwner := 2 }) = (some e, t)) ∧
    ((wireUp {}).wellAt (inkAt 0)).tagsUsed.toNat < 4096 ∧ (∀ e ∈ hbmChecks 0 8 (wireUp {}).hbm, e.2 ≠ .bad) ∧
    ((regRead agDbg 0x030003F00000 (wireUp {})).1 = .err) ∧ ((regWrite agDbg 0x030003F00000 0 (wireUp {})).1 = .err) ∧
    (0x030000100000 : Dpa).toNat % 8 = 0 ∧ isWindow 0x030000100000 = false ∧ isSepiaMem 0x030000100000 = false ∧
    (∃ t u, regRead agDbg 0x030000100000 (wireUp {}) = (.ok 100, t) ∧ regRead agDbg (0x030000100000 + 4) t = (.ok 0, u)) ∧
    (∃ t u, regWrite agDbg 0x030000100008 9 (wireUp {}) = (.ok 0, t) ∧ regWrite agDbg (0x030000100008 + 4) 0 t = (.ok 0, u)) ∧
    (((wireUp { core := [(7, { halted := true })] }).dcoreAt 7).halted = true ∧ ((wireUp {}).dcoreAt 7).halted = false) ∧
    (bit (wireUp {}).glb.own 10 = false ∧ bit ({ own := 0x400 } : Glb).own 10 = true) :=
  ⟨by decide +kernel, by decide +kernel, acc_eq (by decide +kernel), acc_eq (by decide +kernel), by decide +kernel,
    ⟨_, _, Prod.ext (some_eq (o := (dbgHbmRead 0 (wireUp {})).1) (by decide +kernel)) rfl⟩, ⟨_, none_eq (by decide +kernel)⟩,
    ⟨_, _, Prod.ext (some_eq (o := (hbmWrite (inkAt 0) 2 agDbg 0 (wordBytes 8 (5 : W64)) (wireUp { accOwner := 2 })).1) (by decide +kernel)) rfl⟩,
    by decide +kernel, by decide +kernel, acc_err (by decide +kernel), acc_err (by decide +kernel), by decide +kernel, by decide +kernel, by decide +kernel,
    acc2_eq (by decide +kernel) (by decide +kernel), acc2_eq (by decide +kernel) (by decide +kernel),
    by decide +kernel, by decide +kernel⟩

def xt0 (p : Payload) : XItem := { item p true with cls := .xtr, src := 0 }

/-- DebugUnits: a fire and a resume, register 31 and the pc, a Quill to drain after the last one, patch units on and off. -/
theorem test_DebugUnits_hypotheses :
    (∀ p ∈ [Payload.xt 1 0x80 agDbg, .xt 0 1 7], ∃ t, inboxTake isXt (fun x => x.rel.toNat) (atTick 100 lqHome [xt0 p]) = some (xt0 p, t)) ∧
    (∀ x ∈ up.latch, x.cls = .xtr → x.stamp ≠ up.now) ∧
    (∃ (s : State) (x : XItem), s.latch = [x] ∧ x.cls = .xtr ∧ x.stamp = s.now ∧ x.pay = .xt 1 2 agDbg) ∧ up.dbg.trDone = false ∧
    (∃ m : Byte, ∃ p : Part, m ≠ 0 ∧ p.haltOn &&& m ≠ 0) ∧
    (coreRuns (coreUp {} 0) 7 = false ∧ coreRuns (coreUp {} 0) 0 = true) ∧
    ((({ sel := 31 } : DbgCore).sel = (31 : BitVec 5).setWidth 13) ∧ ({ sel := 0x20 } : DbgCore).sel = 0x20) ∧
    (∀ e ∈ ({ watch := [(0, { ctl := 0x7FE })] } : Dbg).watch, bit e.2.ctl 0 = false) ∧
    (∃ e ∈ ({ watch := [(0, { ctl := 1 })] } : Dbg).watch, bit e.2.ctl 0 = true) ∧
    (∃ r rs, ((up.setPq 0 { fifo := [r] }).pqAt ((255 : Byte) + 1).toNat).fifo = r :: rs) ∧
    (∃ ln : W32 → Nat, ∀ w, ln w = bflLine0 + (fld w 5 17 : BitVec 17).toNat / 2) ∧
    (bit (kget 0 ({ patch := [(15, 0x80000000)] } : Dbg).patch 15) 31 = true ∧ bit (kget 0 ({} : Dbg).patch 15) 31 = false) ∧
    (isCore 0x107 = true ∧ isCore agHost = false ∧ agDbg = (if bit (wireUp {}).glb.own 10 then agHost else agDbg)) := by
  refine ⟨?_, by decide +kernel, ⟨{ up with latch := [xt0 (.xt 1 2 agDbg)], now := (xt0 (.xt 1 2 agDbg)).stamp }, _, rfl, rfl, rfl, rfl⟩,
    rfl, ⟨1, { part0 with haltOn := 1 }, by decide, by decide⟩, by decide +kernel, by decide +kernel, by decide +kernel, by decide +kernel, ⟨⟨0, 0, 0, 0, 0, 0⟩, [], by decide +kernel⟩, ⟨_, fun _ => rfl⟩,
    by decide +kernel, by decide +kernel⟩
  simp only [List.forall_mem_cons]
  exact ⟨⟨_, rfl⟩, ⟨_, rfl⟩, nofun⟩

def domUp (d : Nat) (x : Dom) : State := { up with ink := {}, pwr := { dom := [(d, x)] } }

/-- PowerDomains: a column, the banks and the host island, a domain that may not gate, the low-power requests and a wake-up. -/
theorem test_PowerDomains_hypotheses :
    (∀ d ∈ [1, 16], firstReason (gateChecks { domUp d {} with pq := [], part := [] } d) = none) ∧ firstReason (gateChecks (domUp 0 {}) 0) = some 0x0C01 ∧
    (((domUp 40 { st := .waking }).domAt 40).st = .waking ∧ ((domUp 19 { st := .drain }).domAt 19).inflight = 0 ∧
      ((domUp 19 { st := .gated }).domAt 19).byState = false) ∧
    (anyCtx { up with sched := {} } = false ∧ anyCtx up = true ∧ up.plant.armed = 0 ∧ up.sep.run = 0 ∧ (domUp 1 {}).ink.enable = false) ∧
    (({ state := 1 } : Pwr).going = 0 ∧ (1 : BitVec 5) &&& ({ state := 1 } : Pwr).wakeEn ≠ 0 ∧ ({ going := 1 } : Pwr).going ≠ 0) := by decide +kernel

/-- Resets: their straps, the hold of DBGRST_N, the release point after power-on and after another reset, the first and last Kysto domain. -/
theorem test_Resets_hypotheses :
    (∃ c t, (c = Instr.externalReset ∧ State.reset.glb.rstcfg = false ∨ c = .hostReset false ∨ c = .hostReset true ∨ c = .warm) ∧
      exec c State.reset = .next t) ∧
    (State.reset.glb.rstcfg = false ∧ ({ rstcfg := true } : Glb).rstcfg = true) ∧
    (({ resetHeld := true, xtal := true, lastReset := 1 } : Glb).lastReset.toNat ≤ 1 ∧ ({ resetHeld := true, xtal := true } : Glb).rstcfg = false) ∧
    (State.reset.glb.atReset = true ∧ State.reset.glb.resetHeld = false ∧ State.reset.glb.lastReset = 0 ∧ ({ lastReset := 4 } : Glb).lastReset ≠ 0) ∧
    (0 : BitVec 6) ∈ [(5 : BitVec 6), 0] ∧ (24 ≤ (24 : BitVec 6).toNat ∧ (39 : BitVec 6).toNat ≤ 39) :=
  ⟨⟨.warm, _, by decide, rfl⟩, by decide +kernel, by decide +kernel, by decide +kernel, by decide +kernel, by decide +kernel⟩

def surrUp (a : KMap Byte) (b : Bool) : State := { up with glb := { surrEn := b, shadow := a, active := surr0 0 }, sched := {}, ink := {} }

/-- SurroundingsAndTelemetry: a table that passes and one that does not, a move of a free owner field and of a busy one, samples below and at the limit. -/
theorem test_SurroundingsAndTelemetry_hypotheses :
    firstReason (surrChecks (surr0 0)) = none ∧ firstReason (surrChecks []) = some 0x0101 ∧
    (anyCtx (surrUp (surr0 0) true) = false ∧ anyCtx { surrUp (surr0 0) true with sched := up.sched } = true) ∧
    (surrDiffers (surrUp (surr0 0) true).glb.shadow (surrUp (surr0 0) true).glb.active 0x10 0x40 = false ∧
      surrDiffers (surrUp (surr0 0) true).glb.shadow (surrUp (surr0 0) true).glb.active 0x40 0x60 = false) ∧
    (((0x400 : BitVec 11) &&& 0x73F) ^^^ up.glb.own) &&& ownBusy up = 0 ∧
    (((0x400 : BitVec 11) &&& 0x73F) ^^^ up.glb.own) &&& ownBusy { up with dbg := { vtTx := some 0 } } ≠ 0 ∧
    ((List.replicate 8 (19 : Byte)).length = 8 ∧ (List.replicate 8 (19 : Byte)).all (fun t => decide (t.toInt < tjShut (surrUp [] true))) = true ∧
      (20 :: List.replicate 7 (19 : Byte)).any (fun t => decide (tjShut (surrUp [] true) ≤ t.toInt)) = true) ∧
    (({ bgPend := true, bgWait := 1024 } : Pq).bgPend = true ∧ 1024 ≤ ({ bgPend := true, bgWait := 1024 } : Pq).bgWait) := by decide +kernel

def hostUp (h : HostBlk) : State := { up with host := h, glb := { perst := false, surrEn := true } }

/-- HostInterface and InterruptsAndMessages: the first and last vector, masked and not, a message that waits. -/
theorem test_HostInterface_hypotheses :
    (65 ≤ (65 : Byte).toNat ∧ (79 : Byte).toNat ≤ 79) ∧ causeActive { up with sep := { down := true } } 0 = true ∧ bit ({} : HostBlk).irqStat 14 = false ∧
    (bit ({ irqEn := 4, msix := [(4 * 67 + 3, 0)] } : HostBlk).irqEn 2 = true ∧ ({ irqEn := 4, msix := [(4 * 67 + 3, 0)] } : HostBlk).masked 67 = false) ∧
    ({} : HostBlk).masked 67 = true ∧ (∀ k < 15, bit (4 : BitVec 15) k = true → causeActive up k = false) ∧
    (kget false ({ pba := [(80, true)] } : HostBlk).pba 80 = true ∧ kget false ({} : HostBlk).pba 80 = false ∧
      ({ pba := [(80, true)], msix := [(323, 0)] } : HostBlk).masked 80 = false) ∧
    ((hostUp {}).domRun 40 = true ∧ (hostUp {}).glb.perst = false) ∧
    (({} : HostBlk).msixEn = true ∧ (∀ n < 8, bit (1 : Byte) n = true → bit (({ msix := [(323, 0)] } : HostBlk).msixWord (4 * (80 + n) + 3)) 0 = false) ∧
      ∀ n < 8, bit (1 : Byte) n = true → bit (({} : HostBlk).msixWord (4 * (80 + n) + 3)) 0 = true) := by decide +kernel

/-- RefusedWrites: each of the conditions that keep SURR_ENABLE set, and a write of a lock bit. -/
theorem test_RefusedWrites_hypotheses :
    (∃ e ∈ up.sched.own, e.2.enable = true) ∧ (∃ e ∈ ({ watch := [(3, { ctl := 1 })] } : Dbg).watch, bit e.2.ctl 0 = true) ∧
    up.ink.enable = true ∧ ({ enable := 0x8000 } : Kl).enable ≠ 0 ∧ ({ armed := 1 } : Plant).armed ≠ 0 ∧ ({ recovery := true } : Vel).recovery = true ∧
    (∃ v : BitVec 5, v ≠ 0) := by
  decide +kernel

/-- SyncSetFields: a SYNC_SET with each combination of WCOUNT, WTHRESH and ADD. -/
theorem test_SyncSetFields_hypotheses : ∀ fl < 8, ∀ c, c = [(0, 1), (64, 5), (88, fl), (96, 7), (128, 9)] →
    takeDisp 1 0 0 0x01 (withCmd c) = some (disp0 (cmd c)) ∧ (disp0 (cmd c)).start.ult (withCmd c).now = true ∧
    payloadOk (cmd c) [(8, 0, 17), (8, 24, 3), (12, 0, 64)] = true ∧ ((withCmd c).syncAt ((cmd c).f 8 0 17)).owner = 1 ∧
    (cmd c).bitAt 11 0 = (fl % 2 == 1) ∧ (cmd c).bitAt 11 1 = (fl / 2 % 2 == 1) ∧ (cmd c).bitAt 11 2 = (fl / 4 == 1) := by
  simp only [forall_eq]; decide +kernel

/-- StepRunsFront, QueueUntouched and InvariantKept: a command in front of another, from reset, with memory and objects listed. -/
theorem test_whole_machine_hypotheses :
    (∃ s : State, s.pending = [.tick, .tickLoad] ∧ ∃ t, step s = .next t ∧ t.pending = [.tickLoad]) ∧ step State.reset = .next State.reset ∧
    (kwf (0 : Byte) [(0, 1), (0x17FFFFFFFF, 2)] = true ∧ kwf ({} : SyncObj) [(0, { owner := 1 }), (131071, { owner := 0x40 })] = true) ∧
    (kwf (0 : Byte) State.reset.hbm.mem = true ∧ kwf ({} : SyncObj) State.reset.sync = true) :=
  ⟨⟨{ State.reset with pending := [.tick, .tickLoad] }, rfl, _, rfl, by decide +kernel⟩, rfl, by decide +kernel, by decide +kernel⟩

-- Time and registers
/-- TickCounter: a tick that counts, the first and last tick of a service window, a load with no context, SYNC_EN's checks. -/
theorem test_TickCounter_hypotheses :
    tickRuns { up with glb := { atReset := false } } = true ∧ inWindow 8160 = true ∧ inWindow 8191 = true ∧ inWindow 8192 = false ∧ inWindow 8159 = false ∧
    (anyCtx { up with sched := {} } = false ∧ up.tk.syncEn = false ∧ anyCtx up = true) ∧
    firstReason (syncChecks { up with glb := { surrEn := true, active := geo 1 1 1 0 } }) = none ∧
    firstReason (syncChecks { up with glb := {} }) = some 0x0701 := by decide +kernel

def lsRec : LsRecord := { epoch := 0, cCmd := 0, cQ := [], regions := [], words := [] }
/-- Lock-step of owner 1 over link 0, off or on. -/
def lsUp (on : Bool) (x : LockStep) : State :=
  { up with ls := { x with ctrl := if on then 0x4001 else 0x4000 }, sched := { own := [(1, { enable := true })] }, kl := { enable := 1, link := [(0, lk)] }
            part := [(64, { part0 with nlq := 1, lqs := [(0, { lqHome with bars := 1 })] })] }

/-- LockStep: ENABLE's checks, an epoch whose last barrier has passed, the partner's timeout and the release on their ticks. -/
theorem test_LockStep_hypotheses :
    (firstReason (lsChecks (lsUp false {})) = none ∧ firstReason (lsChecks up) = some 0x0209) ∧
    (∃ p, lsPart (lsUp true {}) = some p ∧ (lsUp true {}).ls.on = true ∧ (lsUp true {}).ls.endOf ≤ p.barriers) ∧
    ((lsUp true { wait := [(lsRec, 0)] }).ls.wait = [(lsRec, 0)] ∧ ((0 : W64) + 65536).ule 65536 = true) ∧
    ((lsUp true { passAt := some 90 }).ls.passAt = some 90 ∧ ((90 : W64) + 10).ule (lsUp true {}).now = true) :=
  ⟨by decide +kernel, ⟨_, some_eq (by decide +kernel), by decide +kernel, by decide +kernel⟩, by decide +kernel, by decide +kernel⟩

def regUp : State := { up with glb := { atReset := false }, host := {} }
theorem reaches_in {ag : Agent} {a : Dpa} {b : RegBlk} {off : Nat} {s : State}
    (h : regHome a = some (b, off) ∧ a.toNat % 4 = 0 ∧ hostShut ag s = false ∧ s.domRun 40 = true ∧ s.domRun b.dom = true)
    (hq : ∀ q, b ≠ .qctl q) : Reaches ag a b off s :=
  ⟨h.1, h.2.1, h.2.2.1, h.2.2.2.1, h.2.2.2.2, fun q hb => absurd hb (hq q)⟩

/-- RegisterPairs: TICK_LOAD (a pair that is written) at both halves, with the high half latched and not. -/
theorem test_RegisterPairs_hypotheses :
    ∃ a l k, Reaches agHost a .tick l regUp ∧ Reaches agHost (a + 4) .tick (l + 4) regUp ∧ pairOf .tick l = some (l, k) ∧ pairOf .tick (l + 4) = some (l, k) ∧
      k = .rw ∧ (a + 4).toNat - (l + 4) + l = a.toNat - l + l ∧ kget none regUp.rdLatch (latchKey agHost (a.toNat - l + l)) = none ∧
      kget none ({ regUp with rdLatch := [(latchKey agHost (a.toNat - l + l), some 5)] } : State).rdLatch (latchKey agHost (a.toNat - l + l)) = some 5 :=
  ⟨0x030000100008, 0x008, .rw, reaches_in (by decide +kernel) nofun, reaches_in (by decide +kernel) nofun, by decide +kernel, by decide +kernel, rfl,
    by decide +kernel, by decide +kernel, by decide +kernel⟩

def winUp (q : Nat) : State := regUp.setPq q { ((quillAtWork 0).pqAt 0) with res := none, st := { ((quillAtWork 0).pqAt 0).st with tag := 0 } }

/-- RegisterAndStoreAccess: an ERRLOG, the ID register, the control block of the last Quill, and the first bytes of its stores and the last of the window. -/
theorem test_RegisterAndStoreAccess_hypotheses :
    (∃ a off e, Reaches agHost a .glb off regUp ∧ RegBlk.log .glb = some (e, off)) ∧
    (Reaches agHost 0x030000000000 .glb 0 regUp ∧ pairOf .glb 0 = none ∧ ∀ e, RegBlk.log .glb ≠ some (e, 0)) ∧
    (∃ a off, Reaches agHost a (.qctl 255) off regUp ∧ pairOf (.qctl 255) off = none ∧ qctlBad 255 off regUp = false) ∧
    (∀ n : Nat, n = 1 ∨ n = 16 → ∃ bs t, WinOpen agDbg 0x01000FF00000 n 255 0 (winUp 255) ∧ (0x01000FF00000 : Dpa).toNat % 64 + n ≤ 64 ∧
      quillRead 255 0 n (winUp 255) = (.ok bs, t)) ∧
    WinOpen agDbg (alignDown 3 (0x01000FFDFFFF : Dpa)) 8 255 0xDFFF8 (winUp 255) := by
  refine ⟨⟨0x030000000058, 0x58, .glb, reaches_in (by decide +kernel) nofun, rfl⟩, ⟨reaches_in (by decide +kernel) nofun, by decide +kernel, nofun⟩,
    ⟨0x030002FF0000, 0, ⟨by decide +kernel, by decide +kernel, by decide +kernel, by decide +kernel, by decide +kernel,
      fun q h => by cases h; decide +kernel⟩, by decide +kernel, by decide +kernel⟩, fun n h => ?_,
    ⟨by decide +kernel, by decide +kernel, by decide +kernel, by decide +kernel, by decide +kernel, by decide +kernel, .inl rfl⟩⟩
  refine ⟨_, _, ⟨by decide +kernel, by decide +kernel, by decide +kernel, by decide +kernel, by decide +kernel, by omega, .inl rfl⟩, ?_, ok_eq ?_⟩
  · rcases h with rfl | rfl <;> decide +kernel
  · rcases h with rfl | rfl <;> decide +kernel

def lqDone : Lq := { lqHome with ended := true }
def rep0 (p : Payload) : XItem := { item p true with cls := .q2s, src := 0 }

/-- CalibrationAndEnds: acceptances at both ends of the passing range and just outside, an END report, the last one, an exception, a stop. -/
theorem test_CalibrationAndEnds_hypotheses :
    ((quillAtWork 0).domRun 1 = true ∧ bit (quillAtWork 0).glb.fusedOff 255 = false ∧ residentMetered (quillAtWork 0) 0 = false ∧
      residentMetered (quillExact 0) 0 = true ∧ inWindow 8160 = true) ∧
    ([(1919 : BitVec 13), 1920, 2176, 2177].map proportionOk = [false, true, true, false] ∧ (4096 : BitVec 13).toNat ≤ 4096 ∧
      (List.replicate 256 (0 : Byte)).length = 256) ∧
    (lqDone.ended = true ∧ lqDone.reported = false ∧ lqDone.stopped = false ∧ lqDrained id0 lqDone (atTick 100 lqDone []) = true) ∧
    (∃ s', inboxTake isEndRep (fun x => x.rel.toNat) (atTick 100 { lqDone with reported := true } [rep0 (.endRep id0)]) = some (rep0 (.endRep id0), s') ∧
      outstanding s' (endRepOf pid) = false) ∧
    (∀ p : Part, p = { part0 with nlq := 1, lqs := [(0, { lqDone with reported := true })] } → p.st = .running ∧ ∀ l < p.nlq, (p.lqAt l).reported = true) ∧
    (∃ s', inboxTake isExn exnKey (atTick 100 lqHome [rep0 (.exn id0 0x0E85 3)]) = some (rep0 (.exn id0 0x0E85 3), s')) ∧
    (∃ s', inboxTake (isStop id0) (fun x => x.rel.toNat) (atTick 100 lqHome [rep0 (.stop id0)]) = some (rep0 (.stop id0), s')) ∧
    (∀ p : Part, p = { part0 with nlq := 1, st := .stopping, lqs := [(0, lqDone)] } → partDrained p (atTick 100 lqDone []) = true) :=
  ⟨by decide +kernel, by decide +kernel, by decide +kernel, ⟨_, rfl, by decide +kernel⟩, fun p h => by subst h; decide +kernel, ⟨_, rfl⟩, ⟨_, rfl⟩,
    fun p h => by subst h; decide +kernel⟩

/-- Two logical Quills of a partition: one resident past its turn, one waiting. -/
def rota0 : Part := { part0 with lqs := [(0, { lqHome with xt := 16384 }), (1, { len := 4 })] }
def rotaUp (p : Part) (pq : KMap Pq) : State := { quillAtWork 0 with part := [(64, p)], pq := pq, now := 40000 }
def fetch0 (st : FetchSt) : Fetch := { lq := id0, page := 0, hint := false, st := st, since := 29760, last := 29760, k := 0 }
def fetchUp (f : Fetch) (reqs : Bool) : State :=
  { up with now := 40000, part := [(64, { part0 with timing := .exact, lqs := [(0, lqHome)] })]
            ink := if reqs then { up.ink with reqs := [f] } else { up.ink with fetches := [f] } }
def walkT (r : Option W64 × State) : State := r.2

/-- A fetch whose lines have all moved, and a swap-in that is due. -/
def moved0 (src : PageSrc) : Fetch := { fetch0 (.moving src) with xf := { line := 1024 } }
def swapUp : State := rotaUp rota0 [(255, { swap := some { next := id0, start := 7232, lines := 0 } })]

/-- SwapsAndPages: a turn that ends on this tick, a swap-in, a restore after 32768 ticks, a move, a fetch, a walk with either end, page data. -/
theorem test_SwapsAndPages_hypotheses :
    (slotFree (inkOf 255) (rotaUp rota0 (quillAtWork 0).pq) = true ∧ lqQuiet (rota0.lqAt 0) = true ∧ turnOver (rota0.lqAt 0) 40000 = true ∧ rotation rota0 (rotaUp rota0 (quillAtWork 0).pq) = [1]) ∧
    (quillFree (rotaUp rota0 []) 255 = true ∧ ∃ i, looseNext (rotaUp rota0 []) = some i) ∧
    (∃ w, (swapLines 255 24 swapUp) = swapUp ∧ (swapUp.pqAt 255).swap = some w ∧ w.lines = 0 ∧
      swapUp.now.ult (w.start + 32768) = false) ∧
    (part0.st = .running ∧ part0.timing = .loose ∧ quillFree (quillAtWork 0) 255 = true) ∧
    (∃ f, (fetchUp (fetch0 .walking) true).ink.reqs.find? (mayFetch 0 (fetchUp (fetch0 .walking) true)) = some f ∧
      takeReq 0 (fetchUp (fetch0 .walking) true) = fetchUp (fetch0 .walking) true) ∧
    ((fetchUp (fetch0 .walking) false).ink.fetches[0]? = some (fetch0 .walking) ∧ hbmUp (fetchUp (fetch0 .walking) false) = true ∧
      (fetchUp (fetch0 .walking) false).lqOf id0 = some lqHome) ∧
    (∃ e s', pageWalk 0 1 0 (fetchUp (fetch0 .walking) false) = (some e, s') ∧ (s'.hcAt 1).init = false) ∧
    (∃ fr, frameFor (fetchUp (fetch0 .walking) false) id0 lqHome = some fr) ∧
    (∃ s', pageWalk 0 1 9 (fetchUp (fetch0 .walking) false) = (none, s')) ∧
    (slotFree 0 (fetchUp (fetch0 .walking) false) = true ∧ (fetch0 .walking).drop = false) ∧
    (∀ src ∈ [PageSrc.hbm 0, .host 0], fetchLines 0 [] 24 (fetchUp (moved0 src) false) = fetchUp (moved0 src) false ∧
      (fetchUp (moved0 src) false).ink.fetches[0]? = some (moved0 src) ∧ 1024 ≤ (moved0 src).xf.line ∧ (part0.lqAt 0).stopped = false ∧
      (moved0 src).metered (fetchUp (moved0 src) false) = (src == .hbm 0) ∧ (40000 : W64).ult ((moved0 src).since + 10240) = false) ∧
    ({ part0 with timing := .loose } : Part).metered = false :=
  ⟨by decide +kernel, ⟨by decide +kernel, _, some_eq (by decide +kernel)⟩, ⟨_, by decide +kernel, rfl, by decide +kernel, by decide +kernel⟩, by decide +kernel,
    ⟨_, some_eq (by decide +kernel), rfl⟩, by decide +kernel,
    ⟨_, _, Prod.ext (some_eq (o := (pageWalk 0 1 0 (fetchUp (fetch0 .walking) false)).1) (by decide +kernel)) rfl, by decide +kernel⟩,
    ⟨_, some_eq (by decide +kernel)⟩, ⟨_, none_eq (by decide +kernel)⟩, by decide +kernel, by decide +kernel, rfl⟩

end Sys2Proof.Machine.Tests
end

section
/-!
ALU and ALUI (R172): Table 05.3 in integers against the machine's words, and the two steps.
-/
namespace Sys2Proof.Machine

-- The sequencer
/-- The logical Quill of an issuing instruction is the one that stands in the state. -/
theorem quillAt_lqOf {q : Nat} {s : State} {c : QCtx} (h : quillAt q s = some c) : s.lqOf c.id = some c.lq := by
  simp only [quillAt] at h
  split at h
  · cases h
  · split at h
    · cases h
    · next p hp =>
      obtain ⟨-, h⟩ := Option.ite_none_right_eq_some.mp h
      cases h
      simp [State.lqOf, hp]

/-- What a change of a logical Quill does depends on it alone. -/
theorem modLq_congr {s : State} {id : LqId} {l : Lq} {f g : Lq → Lq} (h : s.lqOf id = some l) (hfg : f l = g l) :
    s.modLq id f = s.modLq id g := by
  simp only [State.lqOf, Option.map_eq_some_iff] at h
  obtain ⟨p, hp, rfl⟩ := h
  simp only [State.modLq, State.modPart, hp, hfg]

/-- R143: a word that fails the encoding checks raises 0x0E85 by whichever row comes. -/
theorem quillStep_undefined {q : Byte} {w : W64} {c : QCtx} {s : State} (h : AtIssue q w c s)
    (he : encOk (insOf w) c.lq.pc = false) (row : Ins → Bool) (eff : QCtx → State → QRes) :
    quillStep q.toNat row eff s = c.raise 0x0E85 c.here s := by
  obtain ⟨hr, hi, hin, hf, hn, hd⟩ := h
  have hc : ({ c with i := insOf w } : QCtx) = c := by rw [← hi]
  simp only [quillStep, hr, hf, leWord_wordBytes8, hc]
  rw [if_neg (by omega), if_neg (by omega), he]
  rfl

/-- An instruction with no memory operand whose effect is `f` on its logical Quill alone: `g` is `f` on the registers that it
reads at issue. -/
theorem quillStep_lqEff {row : Ins → Bool} {q : Byte} {w : W64} {c : QCtx} {s : State} {f : QCtx → Lq → Lq} {g : Lq → Lq}
    (h : Issues row q w c s) (hc : Clear c s) (hm : memOps c.i c.lq = []) (hfg : f c c.lq = g c.lq) :
    quillStep q.toNat row (lqEff f) s = issued c .seq (c.mod g s) := by
  have hl : s.lqOf c.id = some c.lq := by simpa using quillAt_lqOf h.runs
  rw [quillStep_runs h hc, touchPages_nil hm]
  simp only [lqEff, QCtx.mod, modLq_congr hl hfg]

-- Table 05.3
/-- R172: Table 05.3 defines the FN values 0 to 0x0D and 0x10 to 0x12, whatever the operands. -/
theorem aluInt_isSome (fn : Nat) (a b : W32) : (aluInt fn a b).isSome = true ↔ fn < 0xE ∨ 0x10 ≤ fn ∧ fn ≤ 0x12 := by
  unfold aluInt
  split
  case h_18 => simp only [imp_false] at *; simp only [Option.isSome_none, Bool.false_eq_true, false_iff]; omega
  all_goals simp

/-- R143: an ALU or ALUI word that passes the encoding checks has an FN of Table 05.3. -/
theorem aluInt_of_encOk {i : Ins} {pc : Nat} (hop : i.op = 1 ∨ i.op = 2) (he : encOk i pc = true) (a b : W32) :
    ∃ v, aluInt i.fn a b = some v := by
  rw [← Option.isSome_iff_exists, aluInt_isSome]
  rcases hop with hop | hop <;> simp only [encOk, hop, Bool.and_eq_true, Bool.or_eq_true, decide_eq_true_eq] at he <;> exact he.1

theorem memOps_alu {i : Ins} (l : Lq) (hop : i.op = 1 ∨ i.op = 2) : memOps i l = [] := by
  rcases hop with hop | hop <;> simp [memOps, hop]

@[simp] theorem ofInt_toNat (a : W32) : BitVec.ofInt 32 a.toNat = a := by
  rw [BitVec.ofInt_natCast, BitVec.ofNat_toNat, BitVec.setWidth_eq]

/-- A shift amount is b[4:0]. -/
@[simp] theorem toNat_fld_shift (b : W32) : (fld b 0 5).toNat = b.toNat % 32 := by
  simp [fld]

theorem ofInt_mul_two_pow (a : W32) (k : Nat) : BitVec.ofInt 32 (a.toNat * 2 ^ k) = a <<< k := by
  apply BitVec.eq_of_toNat_eq
  rw [BitVec.toNat_shiftLeft, Nat.shiftLeft_eq, BitVec.toNat_ofInt]
  norm_cast

theorem ofInt_toNat_div_two_pow (a : W32) (k : Nat) : BitVec.ofInt 32 (a.toNat / 2 ^ k) = a >>> k := by
  rw [← ofInt_toNat (a >>> k), BitVec.toNat_ushiftRight, Nat.shiftRight_eq_div_pow]
  norm_cast

theorem ofInt_toInt_div_two_pow (a : W32) (k : Nat) : BitVec.ofInt 32 (a.toInt / 2 ^ k) = a.sshiftRight k := by
  rw [BitVec.sshiftRight_eq, Int.shiftRight_eq_div_pow]
  norm_cast

theorem ofInt_ite_one_zero (p : Prop) [Decidable p] : BitVec.ofInt 32 (if p then 1 else 0) = b2w (decide p) := by
  by_cases hp : p <;> simp [hp, b2w, b2n]

/-- Bits [63:32] of a number that is held in 64 bits. -/
theorem fld_hi_ofInt (z : Int) : fld (BitVec.ofInt 64 z) 32 32 = BitVec.ofInt 32 (z / 2 ^ 32) := by
  apply BitVec.eq_of_toNat_eq
  simp only [fld, BitVec.extractLsb'_toNat, BitVec.toNat_ofInt, Nat.shiftRight_eq_div_pow]
  omega

theorem fld_hi_signed_mul (a b : W32) :
    fld (a.signExtend 64 * b.signExtend 64) 32 32 = BitVec.ofInt 32 (a.toInt * b.toInt / 2 ^ 32) := by
  rw [← fld_hi_ofInt, BitVec.ofInt_mul, BitVec.signExtend, BitVec.signExtend]

theorem fld_hi_unsigned_mul (a b : W32) :
    fld (a.setWidth 64 * b.setWidth 64) 32 32 = BitVec.ofInt 32 (a.toNat * b.toNat / 2 ^ 32) := by
  rw [← fld_hi_ofInt, BitVec.ofInt_mul, BitVec.ofInt_natCast, BitVec.ofInt_natCast, BitVec.ofNat_toNat, BitVec.ofNat_toNat]

/-- R172: the word that the machine computes is the integer of Table 05.3 modulo 2^32; one line per FN, in the table's order. -/
theorem ofInt_aluInt {fn : Nat} {a b : W32} {v : Int} (h : aluInt fn a b = some v) : BitVec.ofInt 32 v = aluFn fn a b := by
  unfold aluInt at h
  split at h <;> cases h <;> simp only [aluFn, toNat_fld_shift]
  · rw [BitVec.ofInt_add, ofInt_toNat, ofInt_toNat]
  · rw [Int.sub_eq_add_neg, BitVec.ofInt_add, BitVec.ofInt_neg, ofInt_toNat, ofInt_toNat, BitVec.sub_eq_add_neg]
  · rw [← BitVec.toNat_and, ofInt_toNat]
  · rw [← BitVec.toNat_or, ofInt_toNat]
  · rw [← BitVec.toNat_xor, ofInt_toNat]
  · exact ofInt_mul_two_pow a _
  · exact ofInt_toNat_div_two_pow a _
  · exact ofInt_toInt_div_two_pow a _
  · rw [BitVec.slt_eq_decide, ofInt_ite_one_zero]
  · rw [BitVec.ult_eq_decide, ofInt_ite_one_zero]
  · simp [min_def_lt, apply_ite (BitVec.ofInt 32), BitVec.slt_iff_toInt_lt]
  · simp [max_def_lt, apply_ite (BitVec.ofInt 32), BitVec.slt_iff_toInt_lt]
  · simp [min_def_lt, apply_ite (BitVec.ofInt 32), BitVec.ult_iff_lt, BitVec.lt_def]
  · simp [max_def_lt, apply_ite (BitVec.ofInt 32), BitVec.ult_iff_lt, BitVec.lt_def]
  · rw [BitVec.ofInt_mul, ofInt_toNat, ofInt_toNat]
  · rw [fld_hi_signed_mul]
  · rw [fld_hi_unsigned_mul]

-- The steps of ALU and ALUI
/-- R172: s[RD] takes the word of Table 05.3 on s[RA] and the second operand `b`. -/
def aluEff (b : QCtx → Lq → W32) (c : QCtx) (l : Lq) : Lq := l.setS c.i.rd (aluFn c.i.fn (l.sReg c.i.ra) (b c l))

theorem exec_alu (q : Byte) (s : State) :
    exec (.alu q) s = .next (quillStep q.toNat (isOp 0x01) (lqEff (aluEff fun c l => l.sReg c.i.rb)) s) := rfl

theorem exec_alui (q : Byte) (s : State) :
    exec (.alui q) s = .next (quillStep q.toNat (isOp 0x02) (lqEff (aluEff fun c _ => c.i.imm)) s) := rfl

/-- A word of row `op` has that OP. -/
theorem Issues.op_eq {op : Nat} {q : Byte} {w : W64} {c : QCtx} {s : State} (h : Issues (isOp op) q w c s) : c.i.op = op := by
  rw [h.ins]
  exact beq_iff_eq.mp h.row

/-- R172: the step writes Table 05.3's integer, modulo 2^32, of the registers at issue. -/
theorem quillStep_aluEff {row : Ins → Bool} {q : Byte} {w : W64} {c : QCtx} {s : State} (b : QCtx → Lq → W32)
    (h : Issues row q w c s) (hc : Clear c s) (hop : c.i.op = 1 ∨ c.i.op = 2) :
    ∃ v, aluInt c.i.fn (c.lq.sReg c.i.ra) (b c c.lq) = some v ∧ quillStep q.toNat row (lqEff (aluEff b)) s =
      issued c .seq (c.mod (fun l => l.setS c.i.rd (BitVec.ofInt 32 v)) s) := by
  obtain ⟨v, hv⟩ := aluInt_of_encOk hop (h.ins ▸ h.enc) (c.lq.sReg c.i.ra) (b c c.lq)
  refine ⟨v, hv, quillStep_lqEff h hc (memOps_alu c.lq hop) ?_⟩
  rw [aluEff, ofInt_aluInt hv]

/-- Settles O48: the step writes the word of Table 05.3's integer, s0 takes no write, and an FN outside the table fails the
encoding checks. -/
theorem aluResults : Obligations.AluResults := by
  unfold Obligations.AluResults
  intro q w c s
  simp only [exec_alu, exec_alui, Host.Outcome.next.injEq]
  refine ⟨fun hc h => quillStep_aluEff (fun c l => l.sReg c.i.rb) h hc (.inl h.op_eq),
    fun hc h => quillStep_aluEff (fun c _ => c.i.imm) h hc (.inr h.op_eq), fun l v => if_pos rfl, fun h hop hfn => ?_⟩
  have henc : encOk (insOf w) c.lq.pc = false := by
    by_contra he
    obtain ⟨v, hv⟩ := aluInt_of_encOk hop (h.ins ▸ Bool.eq_true_of_not_eq_false he) 0 0
    rw [hfn] at hv
    cases hv
  exact ⟨quillStep_undefined h henc _ _, quillStep_undefined h henc _ _⟩

end Sys2Proof.Machine
end

section
/-!
SYNC_SET (R631): what the command makes of a sync object, flag by flag, and its step.
-/
namespace Sys2Proof.Machine

-- Completion changes no sync object
@[simp] theorem modDisp_sync (id : CmdId) (f : Disp → Disp) (s : State) : (modDisp id f s).sync = s.sync := rfl
@[simp] theorem sendX_sync (x : XItem) (s : State) : (sendX x s).sync = s.sync := rfl

@[simp] theorem finish_sync (id : CmdId) (r : Outc) (s : State) : (finish id r s).sync = s.sync := by
  unfold finish
  split
  · rfl
  · simp only [apply_ite State.sync, sendX_sync, modDisp_sync, ite_self]

-- The object that SYNC_SET writes: WCOUNT, WTHRESH and ADD are bits 0, 1 and 2 of the command's byte 11
section
variable (c : Cmd) (x : SyncObj)

@[simp] theorem syncSetTo_owner : (syncSetTo c x).owner = x.owner := rfl
@[simp] theorem syncSetTo_bound : (syncSetTo c x).bound = x.bound := rfl

theorem syncSetTo_count : (syncSetTo c x).count =
    if c.bitAt 11 0 then (if c.bitAt 11 2 then x.count + BitVec.ofNat 32 (c.f 12 0 32) else BitVec.ofNat 32 (c.f 12 0 32))
    else x.count := by
  simp [syncSetTo, Cmd.bitAt, Cmd.f]

theorem syncSetTo_thresh : (syncSetTo c x).thresh = if c.bitAt 11 1 then BitVec.ofNat 32 (c.f 16 0 32) else x.thresh := by
  simp [syncSetTo, Cmd.bitAt, Cmd.f]
end

/-- R213, R631: on a tick after its dispatch, a SYNC_SET of its owner's object that passes the payload check writes it and completes. -/
theorem exec_syncSet_owned {s : State} {o : Owner} {k : BitVec 3} {n : W32} {d : Disp} (hd : takeDisp o k n 0x01 s = some d)
    (hnow : d.start.ult s.now = true) (hok : payloadOk d.cmd [(8, 0, 17), (8, 24, 3), (12, 0, 64)] = true)
    (howner : (s.syncAt (d.cmd.f 8 0 17)).owner = o) :
    exec (.syncSet o k n) s =
      .next (finish d.id { res0 := (syncSetTo d.cmd (s.syncAt (d.cmd.f 8 0 17))).count.setWidth 64 }
        (s.setSync (d.cmd.f 8 0 17) (syncSetTo d.cmd (s.syncAt (d.cmd.f 8 0 17))))) := by
  change execSyncSet o k n s = _
  simp [execSyncSet, done, hd, hnow, hok, howner]

/-- Settles O51: the step writes the object's `syncSetTo` and nothing else among the sync objects; each flag then selects its branch. -/
theorem syncSetFields : Obligations.SyncSetFields := by
  unfold Obligations.SyncSetFields
  rintro s o k n d i hd hnow hok rfl howner
  refine ⟨_, syncSetTo d.cmd (s.syncAt (d.cmd.f 8 0 17)), exec_syncSet_owned hd hnow hok howner, finish_sync .., ?_, ?_, ?_, ?_, ?_,
    syncSetTo_owner .., syncSetTo_bound ..⟩
  · exact fun hw => by simp [syncSetTo_count, hw]
  · exact fun hw ha => by simp [syncSetTo_count, hw, ha]
  · exact fun hw ha => by simp [syncSetTo_count, hw, ha]
  · exact fun ht => by simp [syncSetTo_thresh, ht]
  · exact fun ht => by simp [syncSetTo_thresh, ht]

end Sys2Proof.Machine
end

section
/-!
The writes that are refused (R477, R540, R574): the lock bits, the watch units' target and SURR_ENABLE.
-/
namespace Sys2Proof.Machine

/-- R575: one check alone. -/
theorem checked_one (b : Blk) (c : Bool) (r : W16) (ok : State → State) (s : State) :
    checked b [(c, r)] ok s = if c then setReason b r s else ok s := by
  cases c <;> rfl

-- VEL_LOCK (R477)
theorem exec_velLockSet (v : BitVec 5) (s : State) : exec (.velLockSet v) s = .next (lockSet v s) := rfl
theorem exec_velLockClr (v : BitVec 5) (s : State) : exec (.velLockClr v) s = .next (lockClr v s) := rfl

@[simp] theorem lockSet_zero (s : State) : lockSet 0 s = s := if_pos rfl
@[simp] theorem lockClr_zero (s : State) : lockClr 0 s = s := if_pos rfl

theorem lockSet_stores {v : BitVec 5} (hv : v ≠ 0) (s : State) :
    lockSet v s = infoStore (fun x => { x with lock := x.lock ||| v }) s := if_neg hv

theorem lockClr_stores {v : BitVec 5} {s : State} (hv : v ≠ 0) (hr : s.vel.recovery = true) :
    lockClr v s = infoStore (fun x => { x with lock := x.lock &&& ~~~v }) s := by
  rw [lockClr, if_neg hv, checked_one, hr]; rfl

theorem lockClr_refused {v : BitVec 5} {s : State} (hv : v ≠ 0) (hr : s.vel.recovery = false) :
    lockClr v s = setReason .vel 0x0907 s := by
  rw [lockClr, if_neg hv, checked_one, hr]; rfl

/-- A write of 0 falls under the same rule: it clears no bit. -/
theorem lockClr_lock {s : State} (hr : s.vel.recovery = true) (v : BitVec 5) : (lockClr v s).vel.lock = s.vel.lock &&& ~~~v := by
  by_cases hv : v = 0
  · rw [hv, lockClr_zero, BitVec.ofNat_eq_ofNat, BitVec.not_zero, BitVec.and_allOnes]
  · rw [lockClr_stores hv hr]; rfl

theorem bit_or {n : Nat} (x y : BitVec n) (i : Nat) : bit (x ||| y) i = (bit x i || bit y i) := BitVec.getLsbD_or

theorem bit_and_not {n i : Nat} (x y : BitVec n) (hi : i < n) : bit (x &&& ~~~y) i = (bit x i && !bit y i) := by
  simp [bit, hi]

-- DBG_QW_TGT (R540)
theorem exec_dbgQwTgt (v : W32) (s : State) : exec (.dbgQwTgt v) s = .next (qwTgt v s) := rfl

theorem qwTgt_refused {s : State} (h : ∃ e ∈ s.dbg.watch, bit e.2.ctl 0 = true) (v : W32) :
    qwTgt v s = setReason .dbg 0x0B05 s := by
  rw [qwTgt, checked_one, if_pos (List.any_eq_true.mpr h)]

-- SURR_ENABLE (R574)
theorem exec_surrEnableClear (s : State) : exec .surrEnableClear s = .next (surrClear s) := rfl

theorem anyCtx_iff (s : State) : anyCtx s = true ↔ ∃ e ∈ s.sched.own, e.2.enable = true := List.any_eq_true

theorem surrClear_refused {s : State} (hs : s.glb.surrEn = true)
    (h : anyCtx s = true ∨ s.ink.enable = true ∨ s.kl.enable ≠ 0 ∨ s.tk.syncEn = true ∨ s.vel.release = true ∨ s.plant.armed ≠ 0) :
    surrClear s = setReason .glb 0x0108 s := by
  rw [surrClear, if_pos hs, checked_one, if_pos (by simpa [or_assoc] using h)]

/-- Settles O53: each write is its branch of `lockSet`, `lockClr`, `qwTgt` or `surrClear`; the lock bits then go one by one. -/
theorem refusedWrites : Obligations.RefusedWrites := by
  unfold Obligations.RefusedWrites
  intro s
  simp only [exec_velLockSet, exec_velLockClr, exec_dbgQwTgt, exec_surrEnableClear, Host.Outcome.next.injEq, exists_eq_left',
    ← anyCtx_iff]
  refine ⟨fun v hv => ?_, fun v hr i hi => ?_, fun v hv hr => lockClr_refused hv hr, ⟨lockSet_zero s, lockClr_zero s⟩,
    fun v h => qwTgt_refused h v, fun hs h => surrClear_refused hs h⟩
  · rw [lockSet_stores hv]
    exact ⟨rfl, fun i _ => bit_or s.vel.lock v i⟩
  · rw [lockClr_lock hr, bit_and_not _ _ hi]

end Sys2Proof.Machine
end

section
/-!
PLANT_BIND and POST_RELEASE (R493 to R498): what a disarm and a taken value leave in the plant's registers, and the two steps.
-/
namespace Sys2Proof.Machine

-- Completion changes nothing of the plant
@[simp] theorem modDisp_plant (id : CmdId) (f : Disp → Disp) (s : State) : (modDisp id f s).plant = s.plant := rfl
@[simp] theorem sendX_plant (x : XItem) (s : State) : (sendX x s).plant = s.plant := rfl

@[simp] theorem finish_plant (id : CmdId) (r : Outc) (s : State) : (finish id r s).plant = s.plant := by
  unfold finish
  split
  · rfl
  · simp only [apply_ite State.plant, sendX_plant, modDisp_plant, ite_self]

-- Disarming, binding and unbinding (R495, R497)
/-- A disarm clears the mask's ARMED bits, marks them for the tick and presents; it changes nothing else. -/
theorem disarmMask_state (w : W64) (s : State) : ∃ sh, disarmMask w s = { s with plant := { s.plant with
    armed := s.plant.armed &&& ~~~w, disarmed := s.plant.disarmed ||| w, shown := sh } } := present_state ..

@[simp] theorem disarmMask_armed (w : W64) (s : State) : (disarmMask w s).plant.armed = s.plant.armed &&& ~~~w := by
  obtain ⟨sh, h⟩ := disarmMask_state w s
  rw [h]

@[simp] theorem disarmMask_dec (w : W64) (s : State) : (disarmMask w s).plant.dec = s.plant.dec := by
  obtain ⟨sh, h⟩ := disarmMask_state w s
  rw [h]

@[simp] theorem unbindEv_armed (w : W64) (s : State) : (unbindEv w s).plant.armed = s.plant.armed := rfl
@[simp] theorem unbindDec_armed (w : W64) (s : State) : (unbindDec w s).plant.armed = s.plant.armed &&& ~~~w := disarmMask_armed ..

@[simp] theorem bindMailboxes_armed (p : PartId) (ev dec : W64) (s : State) :
    (bindMailboxes p ev dec s).plant.armed = s.plant.armed &&& ~~~dec := disarmMask_armed ..

@[simp] theorem bindMailboxes_dec (p : PartId) (ev dec : W64) (s : State) :
    (bindMailboxes p ev dec s).plant.dec = (mboxes dec).foldl (fun r m => kset 0 r m (s.decSafe m)) s.plant.dec := disarmMask_dec ..

/-- R494, R495: a PLANT_BIND that passes its checks binds or unbinds and completes. -/
theorem exec_plantBind_ok {s : State} {o : Owner} {k : BitVec 3} {n : W32} {d : Disp} {ev dec : W64}
    (hd : takeDisp o k n 0x28 s = some d) (hgot : d.got = true)
    (hok : payloadOk d.cmd [(8, 0, 6), (9, 0, 1), (16, 0, 64), (24, 0, 64)] = true)
    (hev : ev = BitVec.ofNat 64 (d.cmd.f 16 0 64)) (hdec : dec = BitVec.ofNat 64 (d.cmd.f 24 0 64))
    (hbev : bindBad (d.cmd.bitAt 9 0) (d.cmd.pid o) ev s.plant.evBind = false)
    (hbdec : bindBad (d.cmd.bitAt 9 0) (d.cmd.pid o) dec s.plant.decBind = false)
    (hrun : ∀ p, s.partAt (d.cmd.pid o) = some p → partRuns p = false) :
    exec (.plantBind o k n) s = .next (finish d.id {}
      (if d.cmd.bitAt 9 0 then unbindEv ev (unbindDec dec s) else bindMailboxes (d.cmd.pid o) ev dec s)) := by
  subst hev hdec
  change execPlantBind o k n s = _
  cases hp : s.partAt (d.cmd.pid o) with
  | none => simp [execPlantBind, done, firstReason, hd, hgot, hok, hbev, hbdec, hp]
  | some p => simp [execPlantBind, done, firstReason, hd, hgot, hok, hbev, hbdec, hp, hrun p hp]

-- The limit check (R498)
section
variable {sg : Bool} {act : BitVec 2} {lo hi v old : W32}

theorem limitCheck_inside (h : (mbLess sg v lo || mbLess sg hi v) = false ∨ act = 0) : limitCheck sg act lo hi v old = (v, false) := by
  obtain h | rfl := h
  · simp [limitCheck, h]
  · simp [limitCheck]

theorem limitCheck_outside (h : (mbLess sg v lo || mbLess sg hi v) = true) (ha : act = 1 ∨ act = 2) :
    limitCheck sg act lo hi v old = (if act = 1 then (if mbLess sg v lo then lo else hi) else old, true) := by
  obtain rfl | rfl := ha <;> simp [limitCheck, h]

/-- The register's value under ACTION 0 to 2, the values that Table 14.1 defines. -/
theorem limitCheck_fst (ha : act ≠ 3) : (limitCheck sg act lo hi v old).1 =
    if (mbLess sg v lo || mbLess sg hi v) = false ∨ act = 0 then v
    else if act = 1 then (if mbLess sg v lo then lo else hi) else old := by
  by_cases hin : (mbLess sg v lo || mbLess sg hi v) = false ∨ act = 0
  · rw [limitCheck_inside hin, if_pos hin]
  · have ha12 : act = 1 ∨ act = 2 := by
      have h0 : act ≠ 0 := fun h => hin (.inr h)
      bv_omega
    rw [limitCheck_outside (Bool.eq_true_of_not_eq_false fun h => hin (.inl h)) ha12, if_neg hin]
end

-- What a decision mailbox makes of a posted value
/-- R498: the verdict on a value posted to mailbox `m`: what the register takes, and whether the mailbox notes a limit error. -/
def State.postVerdict (s : State) (m : Nat) (v : W32) : W32 × Bool :=
  limitCheck (s.mbSigned m) (s.mbAction m) (s.mbLo m) (s.mbHi m) v (kget 0 s.plant.dec m)

/-- The mailbox takes its value and presents; a limit error also sets LIMIT_HIT and is logged. -/
theorem decTake_state (m : Nat) (v : W32) (s : State) : ∃ sh, decTake m v s = { s with plant := { s.plant with
    dec := kset 0 s.plant.dec m (s.postVerdict m v).1
    limitHit := if (s.postVerdict m v).2 then setBit s.plant.limitHit m true else s.plant.limitHit
    errlog := if (s.postVerdict m v).2 then
      recordErr s.plant.errlog { addr := BitVec.ofNat 48 m, agent := agPlant, cls := 0, code := 0x0A80 } else s.plant.errlog
    shown := sh } } := by
  change ∃ sh, presentOne (if (s.postVerdict m v).2 then _ else _) m = _
  cases (s.postVerdict m v).2 <;> exact ⟨_, rfl⟩

/-- Releasing an item takes it out of the inbox and changes nothing else. -/
theorem inboxTake_state {p : XItem → Bool} {key : XItem → Nat} {s t : State} {x : XItem} (h : inboxTake p key s = some (x, t)) :
    ∃ b, t = { s with inbox := b } := by
  unfold inboxTake at h
  split at h <;> cases h
  exact ⟨_, rfl⟩

/-- R493, R498: a posted value from the pair to which its mailbox is still bound is taken. -/
theorem exec_postRelease_bound {s t : State} {x : XItem} {src : LqId} {m : BitVec 6} {v : W32}
    (ht : inboxTake isPost postKey s = some (x, t)) (hx : x.pay = .post src m v)
    (hb : kfind t.plant.decBind m.toNat = some src.part) : exec .postRelease s = .next (decTake m.toNat v t) := by
  change execPostRelease s = _
  simp [execPostRelease, done, ht, hx, hb]

/-- Settles O52: both directions of PLANT_BIND end in a disarm of the mask; a released post is the verdict of the limit check. -/
theorem plantBindingAndLimits : Obligations.PlantBindingAndLimits := by
  unfold Obligations.PlantBindingAndLimits
  constructor
  · rintro s o k n d _ ev dec hd hgot hok rfl hev hdec hbev hbdec hrun
    refine ⟨_, exec_plantBind_ok hd hgot hok hev hdec hbev hbdec hrun, fun m hm hbit => ?_, fun hun => ?_⟩
    · rw [finish_plant]
      cases d.cmd.bitAt 9 0 <;> simp [bit_and_not, hm, hbit]
    · rw [finish_plant, hun, if_neg Bool.false_ne_true, bindMailboxes_dec, mboxes]
  · rintro s t x src m v _ _ _ ht hx hb rfl rfl rfl
    obtain ⟨b, rfl⟩ := inboxTake_state ht
    obtain ⟨sh, hu⟩ := decTake_state m.toNat v { s with inbox := b }
    have hverdict : ({ s with inbox := b } : State).postVerdict m.toNat v = limitCheck (s.mbSigned m.toNat) (s.mbAction m.toNat)
        (s.mbLo m.toNat) (s.mbHi m.toNat) v (kget 0 s.plant.dec m.toNat) := rfl
    refine ⟨_, exec_postRelease_bound ht hx hb, ?_⟩
    rw [hu, hverdict]
    refine ⟨rfl, rfl, rfl, ?_⟩
    rintro _ _ rfl rfl
    refine ⟨fun ha => ?_, fun hout ha => ?_, fun hin => ?_⟩
    · rw [limitCheck_fst ha]
    · rw [limitCheck_outside hout ha]
      exact ⟨rfl, fun hfree => by simp [recordErr_takes _ hfree]⟩
    · rw [limitCheck_inside hin]
      exact ⟨rfl, rfl⟩

end Sys2Proof.Machine
end

section
/-!
Interrupts and messages (R546, R599, R600): when VTERM and DEBUG are active, and what becomes of the messages of a software
interrupt and of an unmask.
-/
namespace Sys2Proof.Machine

-- The sources of Table 11.5 (R546)
theorem vtermActive_iff (s : State) : vtermActive s = true ↔
    (s.dbg.vtRx.isSome = true ∧ bit s.dbg.vtIrq 1 = true) ∨ (s.dbg.vtTx = none ∧ bit s.dbg.vtIrq 0 = true) := by
  simp [vtermActive]

/-- A core counts for every target but itself; a Quill's breakpoint or watch hit counts for all. -/
theorem debugActive_some_iff (s : State) (c : Nat) : debugActive s (some c) = true ↔
    (∃ i < 8, i ≠ c ∧ ((s.dcoreAt i).halted = true ∨ (s.dcoreAt i).inMon = true)) ∨
      s.dbg.qbrkHit = true ∨ s.dbg.qwHit = true := by
  simp [debugActive, or_assoc]

-- Masked vectors (R600)
theorem masked_eq_true_iff (h : HostBlk) (v : Nat) :
    h.masked v = true ↔ h.msixEn = false ∨ bit (h.msixWord (4 * v + 3)) 0 = true := by
  simp [HostBlk.masked]

theorem masked_eq_false_iff (h : HostBlk) (v : Nat) :
    h.masked v = false ↔ h.msixEn = true ∧ bit (h.msixWord (4 * v + 3)) 0 = false := by
  simp [HostBlk.masked]

-- One message
theorem sendMsi_masked {v : Byte} {s : State} (h : s.host.masked v.toNat = true) :
    sendMsi v s = { s with host := { s.host with pba := kset false s.host.pba v.toNat true } } := if_pos h

theorem sendMsi_unmasked {v : Byte} {s : State} (h : s.host.masked v.toNat = false) :
    sendMsi v s = { s with host := { s.host with out := s.host.out ++ [.msi v] } } :=
  if_neg (Bool.eq_false_iff.mp h)

@[simp] theorem sendMsi_keeps_masked (v : Byte) (s : State) (i : Nat) : (sendMsi v s).host.masked i = s.host.masked i := by
  obtain h | h := sendMsi_state v s <;> rw [h] <;> rfl

-- A run of messages: the masks of the first state decide for all
/-- Messages on unmasked vectors go out in order. -/
theorem foldl_sendMsi_unmasked {vs : List Byte} {s : State} (h : ∀ v ∈ vs, s.host.masked v.toNat = false) :
    vs.foldl (fun u v => sendMsi v u) s = { s with host := { s.host with out := s.host.out ++ vs.map .msi } } := by
  induction vs generalizing s with
  | nil => simp
  | cons v vs ih =>
    obtain ⟨hv, hvs⟩ := List.forall_mem_cons.mp h
    rw [List.foldl_cons, ih (by simpa using hvs), sendMsi_unmasked hv]
    simp

/-- Messages on masked vectors set their PBA bits. -/
theorem foldl_sendMsi_masked {vs : List Byte} {s : State} (h : ∀ v ∈ vs, s.host.masked v.toNat = true) :
    vs.foldl (fun u v => sendMsi v u) s =
      { s with host := { s.host with pba := vs.foldl (fun b v => kset false b v.toNat true) s.host.pba } } := by
  induction vs generalizing s with
  | nil => rfl
  | cons v vs ih =>
    obtain ⟨hv, hvs⟩ := List.forall_mem_cons.mp h
    rw [List.foldl_cons, ih (by simpa using hvs), sendMsi_masked hv, List.foldl_cons]

-- HOST_SWINT (R599)
/-- The vectors of the bits that a write of HOST_SWINT has at 1. -/
def swintVectors (m : Byte) : List Byte := ((List.range 8).filter (bit m)).map (fun n => BitVec.ofNat 8 (80 + n))

theorem exec_hostSwint (m : Byte) (s : State) :
    exec (.hostSwint m) s = .next ((swintVectors m).foldl (fun u v => sendMsi v u) s) := by
  change Host.Outcome.next (swint m s) = _
  rw [swintVectors, List.foldl_map, List.foldl_filter, swint]

theorem swintVector_toNat {n : Nat} (h : n < 8) : (BitVec.ofNat 8 (80 + n)).toNat = 80 + n :=
  (BitVec.toNat_ofNat ..).trans (Nat.mod_eq_of_lt (by omega))

/-- What holds of the vector number of every written bit holds of every vector. -/
theorem forall_mem_swintVectors {m : Byte} {p : Nat → Prop} :
    (∀ v ∈ swintVectors m, p v.toNat) ↔ ∀ n < 8, bit m n = true → p (80 + n) := by
  simp only [swintVectors, List.forall_mem_map, List.mem_filter, List.mem_range, and_imp]
  exact forall₂_congr fun n hn => by rw [swintVector_toNat hn]

theorem foldl_swintVectors_pba (m : Byte) (pba : KMap Bool) :
    (swintVectors m).foldl (fun b v => kset false b v.toNat true) pba =
      ((List.range 8).filter (bit m)).foldl (fun b n => kset false b (80 + n) true) pba := by
  rw [swintVectors, List.foldl_map]
  refine List.foldl_ext _ _ _ fun b n hn => ?_
  rw [swintVector_toNat (List.mem_range.mp (List.mem_filter.mp hn).1)]

-- MSIX_UNMASK (R600)
theorem bit_setBit_false {n : Nat} (x : BitVec n) (i : Nat) : bit (setBit x i false) i = false := by
  simpa [bit, setBit] using fun _ hi => ⟨hi, Nat.zero_lt_of_lt hi⟩

/-- The mask bit of vector `v` cleared, before a waiting message is looked for. -/
def State.unmask (s : State) (v : Byte) : State := { s with host := { s.host with
  msix := kset 1 s.host.msix (4 * v.toNat + 3) (setBit (s.host.msixWord (4 * v.toNat + 3)) 0 false) } }

/-- The written word has its mask bit at 0 and so is not the reset value 1: it is listed whatever the table holds. -/
theorem State.unmask_masked {s : State} (v : Byte) (hen : s.host.msixEn = true) : (s.unmask v).host.masked v.toNat = false := by
  have hbit := bit_setBit_false (s.host.msixWord (4 * v.toNat + 3)) 0
  have hne : setBit (s.host.msixWord (4 * v.toNat + 3)) 0 false ≠ 1 := fun h => absurd (h ▸ hbit) (by decide)
  refine (masked_eq_false_iff ..).mpr ⟨hen, ?_⟩
  rwa [State.unmask, HostBlk.msixWord, kset, if_neg hne, kget_kput_self]

theorem pbaSend_unmasked {v : Byte} {s : State} (hp : kget false s.host.pba v.toNat = true)
    (hm : s.host.masked v.toNat = false) : pbaSend v.toNat s =
      { s with host := { s.host with pba := kset false s.host.pba v.toNat false, out := s.host.out ++ [.msi v] } } := by
  rw [pbaSend, hp, hm, BitVec.ofNat_toNat, BitVec.setWidth_eq]
  exact sendMsi_unmasked hm

theorem exec_msixUnmask (v : Byte) (s : State) : exec (.msixUnmask v) s = .next (pbaSend v.toNat (s.unmask v)) := by
  change Host.Outcome.next (msixWrite _ _ s) = _
  rw [msixWrite, Nat.mul_add_mod, Nat.mul_add_div (by decide)]
  rfl

/-- Settles O54: no message of a software interrupt changes a mask, so the masks of the first state decide for all of them; an
unmask clears the mask bit before the waiting message is looked for. -/
theorem interruptsAndMessages : Obligations.InterruptsAndMessages := by
  unfold Obligations.InterruptsAndMessages
  intro s
  refine ⟨vtermActive_iff s, debugActive_some_iff s, fun m hen hun => ?_, fun v h => ?_, fun m h => ?_, fun v hen hp => ?_⟩
  · have hvs : ∀ v ∈ swintVectors m, s.host.masked v.toNat = false :=
      forall_mem_swintVectors (p := (s.host.masked · = false)).mpr fun n hn hb =>
        (masked_eq_false_iff ..).mpr ⟨hen, hun n hn hb⟩
    rw [exec_hostSwint, foldl_sendMsi_unmasked hvs, swintVectors, List.map_map]
    rfl
  · exact sendMsi_masked ((masked_eq_true_iff ..).mpr h)
  · have hvs : ∀ v ∈ swintVectors m, s.host.masked v.toNat = true :=
      forall_mem_swintVectors (p := (s.host.masked · = true)).mpr fun n hn hb =>
        (masked_eq_true_iff ..).mpr (h.imp_right fun hall => hall n hn hb)
    rw [exec_hostSwint, foldl_sendMsi_masked hvs, foldl_swintVectors_pba]
  · rw [exec_msixUnmask, pbaSend_unmasked (s := s.unmask v) hp (State.unmask_masked v hen)]
    exact ⟨_, rfl, rfl, rfl⟩

end Sys2Proof.Machine
end

section
/-!
Every operation of the block keeps the queue, the canonical form of HBM's bytes and that of the sync objects. The lemma of an
operation goes backward through its definition: it splits the definition's branches and cites the lemmas of the operations that
the branches call.
-/
namespace Sys2Proof.Machine

-- The state in a result
/-- The state that an instruction's effect leaves. -/
def QRes.state : QRes → State | .ok s _ => s | .exn s _ _ => s
/-- The state that a slot of a factor stroke leaves. -/
def SlotR.state : SlotR → State | .ok s _ => s | .exn s _ _ => s
/-- The state that a fetch leaves. -/
def FetchRes.state : FetchRes → State | .got _ s => s | .fault s => s | .miss s => s
/-- The state that a core's instruction leaves. -/
def Exec.state : Exec → State | .ok _ s => s | .trap _ _ s => s | .wait s => s
/-- The state that a read of a cached word leaves. -/
def CacheRd.state : CacheRd → State | .go s => s | .gone s => s

@[simp] theorem QRes.state_ok (s : State) (c : Ctl) : (QRes.ok s c).state = s := rfl
@[simp] theorem QRes.state_exn (s : State) (k : W16) (a : BitVec 48) : (QRes.exn s k a).state = s := rfl
@[simp] theorem SlotR.state_ok (s : State) (t : List Int) : (SlotR.ok s t).state = s := rfl
@[simp] theorem SlotR.state_exn (s : State) (k : W16) (a : BitVec 48) : (SlotR.exn s k a).state = s := rfl
@[simp] theorem FetchRes.state_got (s : State) (h : W16) : (FetchRes.got h s).state = s := rfl
@[simp] theorem FetchRes.state_fault (s : State) : (FetchRes.fault s).state = s := rfl
@[simp] theorem FetchRes.state_miss (s : State) : (FetchRes.miss s).state = s := rfl
@[simp] theorem Exec.state_ok (s : State) (pc : W32) : (Exec.ok pc s).state = s := rfl
@[simp] theorem Exec.state_trap (s : State) (c v : W32) : (Exec.trap c v s).state = s := rfl
@[simp] theorem Exec.state_wait (s : State) : (Exec.wait s).state = s := rfl
@[simp] theorem CacheRd.state_go (s : State) : (CacheRd.go s).state = s := rfl
@[simp] theorem CacheRd.state_gone (s : State) : (CacheRd.gone s).state = s := rfl

/-- Where an answer comes with a state, that state keeps what holds of `s₀`. -/
structure KeepsOpt {α : Type} (s₀ : State) (o : Option (α × State)) : Prop where
  of_mem : ∀ x, o = some x → Keeps s₀ x.2

/-- A command completes, and its next state keeps what holds of `s₀`. -/
def Done (s₀ : State) (o : Out) : Prop := ∃ t, o = .next t ∧ Keeps s₀ t

theorem keepsOpt_none {α : Type} (s₀ : State) : KeepsOpt s₀ (none : Option (α × State)) :=
  ⟨fun _ h => absurd h (by simp)⟩
theorem keepsOpt_some {α : Type} {s₀ : State} {p : α × State} (h : Keeps s₀ p.2) : KeepsOpt s₀ (some p) :=
  ⟨fun _ e => Option.some.inj e ▸ h⟩
theorem keepsOpt_map {α β : Type} {s₀ : State} {o : Option (α × State)} {f : α × State → β × State} (h : KeepsOpt s₀ o)
    (hf : ∀ x, Keeps s₀ x.2 → Keeps s₀ (f x).2) : KeepsOpt s₀ (o.map f) := by
  cases o with
  | none => exact keepsOpt_none _
  | some x => exact keepsOpt_some (hf x (h.of_mem x rfl))
theorem keepsOpt_mapVal {α β : Type} {s₀ : State} {o : Option α} {f : α → β × State} (hf : ∀ x, Keeps s₀ (f x).2) :
    KeepsOpt s₀ (o.map f) := by
  cases o with
  | none => exact keepsOpt_none _
  | some x => exact keepsOpt_some (hf x)
theorem keeps_opt {α : Type} {s₀ t : State} {o : Option (α × State)} {a : α} (e : o = some (a, t)) (h : KeepsOpt s₀ o) : Keeps s₀ t :=
  h.of_mem _ e
theorem done_next {s₀ t : State} (h : Keeps s₀ t) : Done s₀ (.next t) := ⟨t, rfl, h⟩
theorem done_done {s₀ t : State} (h : Keeps s₀ t) : Done s₀ (done t) := ⟨t, rfl, h⟩
theorem keeps_of_qres_ok {s₀ t : State} {c : Ctl} {r : QRes} (e : r = .ok t c) (hr : Keeps s₀ r.state) : Keeps s₀ t := by
  subst e; exact hr
theorem keeps_of_qres_exn {s₀ t : State} {k : W16} {a : BitVec 48} {r : QRes} (e : r = .exn t k a) (hr : Keeps s₀ r.state) : Keeps s₀ t := by
  subst e; exact hr
theorem keeps_of_slot_ok {s₀ t : State} {c : List Int} {r : SlotR} (e : r = .ok t c) (hr : Keeps s₀ r.state) : Keeps s₀ t := by
  subst e; exact hr
theorem keeps_of_slot_exn {s₀ t : State} {k : W16} {a : BitVec 48} {r : SlotR} (e : r = .exn t k a) (hr : Keeps s₀ r.state) : Keeps s₀ t := by
  subst e; exact hr
theorem keeps_of_fetch_got {s₀ t : State} {h : W16} {r : FetchRes} (e : r = .got h t) (hr : Keeps s₀ r.state) : Keeps s₀ t := by
  subst e; exact hr
theorem keeps_of_fetch_fault {s₀ t : State}  {r : FetchRes} (e : r = .fault t) (hr : Keeps s₀ r.state) : Keeps s₀ t := by
  subst e; exact hr
theorem keeps_of_fetch_miss {s₀ t : State}  {r : FetchRes} (e : r = .miss t) (hr : Keeps s₀ r.state) : Keeps s₀ t := by
  subst e; exact hr
theorem keeps_of_exec_ok {s₀ t : State} {pc : W32} {r : Exec} (e : r = .ok pc t) (hr : Keeps s₀ r.state) : Keeps s₀ t := by
  subst e; exact hr
theorem keeps_of_exec_trap {s₀ t : State} {c : W32} {v : W32} {r : Exec} (e : r = .trap c v t) (hr : Keeps s₀ r.state) : Keeps s₀ t := by
  subst e; exact hr
theorem keeps_of_exec_wait {s₀ t : State}  {r : Exec} (e : r = .wait t) (hr : Keeps s₀ r.state) : Keeps s₀ t := by
  subst e; exact hr
theorem keeps_of_cache_go {s₀ t : State}  {r : CacheRd} (e : r = .go t) (hr : Keeps s₀ r.state) : Keeps s₀ t := by
  subst e; exact hr
theorem keeps_of_cache_gone {s₀ t : State}  {r : CacheRd} (e : r = .gone t) (hr : Keeps s₀ r.state) : Keeps s₀ t := by
  subst e; exact hr
theorem keeps_ite_exec {s₀ : State} {a b : Exec} {c : Prop} [Decidable c] (ha : Keeps s₀ a.state) (hb : Keeps s₀ b.state) :
    Keeps s₀ (if c then a else b).state := by split <;> assumption
theorem keeps_foldl_snd_snd {α β γ : Type} {s₀ : State} {p : β × γ × State} (h : Keeps s₀ p.2.2) (f : β × γ × State → α → β × γ × State)
    (l : List α) (hf : ∀ p a, Keeps s₀ p.2.2 → Keeps s₀ (f p a).2.2) : Keeps s₀ (l.foldl f p).2.2 := by
  induction l generalizing p with
  | nil => exact h
  | cons a l ih => exact ih (hf p a h)
theorem keeps_elim {α : Type} {s₀ s : State} {o : Option α} {f : α → State} (h : Keeps s₀ s) (hf : ∀ a, Keeps s₀ (f a)) : Keeps s₀ (o.elim s f) := by
  cases o with
  | none => exact h
  | some a => exact hf a
/-- The same where HBM's bytes change and stay in canonical form. -/
theorem keeps_mk_mem {s₀ e : State} {now fresh rsp glb tk ls sched syncWr ink hbm mad kl coll sep vel plant dbg pwr host pq part xing
    latch inbox swapBuf placed rdLatch wrLatch svc} (h : Keeps s₀ e) (hm : Memory.wf e.hbm.mem = true → Memory.wf hbm.mem = true) :
    Keeps s₀ ⟨e.pending, now, fresh, rsp, glb, tk, ls, sched, e.sync, syncWr, ink, hbm, mad, kl, coll, sep, vel, plant, dbg,
      pwr, host, pq, part, xing, latch, inbox, swapBuf, placed, rdLatch, wrLatch, svc⟩ :=
  ⟨h.queue, fun x => hm (h.mem x), h.sync⟩

-- The operations of Machine/Plant.lean

theorem presentOne_keeps {s₀ s : State} (h₀ : Keeps s₀ s) (m : Nat) : Keeps s₀ (presentOne s m) := by
  unfold presentOne
  repeat' with_reducible first | assumption | simp only [keeps_mk]

theorem present_keeps {s₀ s : State} (h₀ : Keeps s₀ s) (ms : List Nat) : Keeps s₀ (present ms s) := by
  unfold present
  repeat' with_reducible first | assumption | apply presentOne_keeps | apply keeps_foldl | intro _

theorem decTake_keeps {s₀ s : State} (h₀ : Keeps s₀ s) (m : Nat) (v : W32) : Keeps s₀ (decTake m v s) := by
  unfold decTake
  repeat' with_reducible first | assumption | apply logErr_keeps | apply presentOne_keeps | simp only [keeps_mk] | split

theorem disarmMask_keeps {s₀ s : State} (h₀ : Keeps s₀ s) (w : W64) : Keeps s₀ (disarmMask w s) := by
  unfold disarmMask
  repeat' with_reducible first | assumption | apply present_keeps | simp only [keeps_mk]

theorem armMask_keeps {s₀ s : State} (h₀ : Keeps s₀ s) (w : W64) : Keeps s₀ (armMask w s) := by
  unfold armMask
  repeat' with_reducible first | assumption | apply present_keeps | simp only [keeps_mk]

theorem evTake_keeps {s₀ s : State} (h₀ : Keeps s₀ s) (m : BitVec 6) (v : W32) : Keeps s₀ (evTake m v s) := by
  unfold evTake
  repeat' with_reducible first | assumption | apply logErr_keeps | simp only [keeps_mk] | split

theorem plantTick_keeps {s₀ s : State} (h₀ : Keeps s₀ s) : Keeps s₀ (plantTick s) := by
  unfold plantTick
  repeat' with_reducible first | assumption | simp only [keeps_mk]

theorem unbindDec_keeps {s₀ s : State} (h₀ : Keeps s₀ s) (w : W64) : Keeps s₀ (unbindDec w s) := by
  unfold unbindDec
  repeat' with_reducible first | assumption | apply disarmMask_keeps | simp only [keeps_mk]

theorem unbindEv_keeps {s₀ s : State} (h₀ : Keeps s₀ s) (w : W64) : Keeps s₀ (unbindEv w s) := by
  unfold unbindEv
  repeat' with_reducible first | assumption | simp only [keeps_mk]

theorem unbindOwner_keeps {s₀ s : State} (h₀ : Keeps s₀ s) (o : Owner) : Keeps s₀ (unbindOwner o s) := by
  unfold unbindOwner
  repeat' with_reducible first | assumption | apply unbindEv_keeps | apply unbindDec_keeps

theorem bindMailboxes_keeps {s₀ s : State} (h₀ : Keeps s₀ s) (p : PartId) (ev : W64) (dec : W64) : Keeps s₀
    (bindMailboxes p ev dec s) := by
  unfold bindMailboxes
  repeat' with_reducible first | assumption | apply disarmMask_keeps | simp only [keeps_mk]

theorem inboxTake_keeps {s₀ s : State} (h₀ : Keeps s₀ s) (p : XItem → Bool) (key : XItem → Nat) : KeepsOpt s₀ (inboxTake p key s)
    := by
  unfold inboxTake
  repeat' with_reducible first | assumption | exact keepsOpt_none _ | apply keepsOpt_some | simp only [keeps_mk] | split

theorem execPostRelease_keeps {s₀ s : State} (h₀ : Keeps s₀ s) : Done s₀ (execPostRelease s) := by
  unfold execPostRelease
  repeat' with_reducible first
    | assumption | apply inboxTake_keeps | apply done_done | apply decTake_keeps | apply keeps_opt (by assumption) | split

theorem execDisarmAll_keeps {s₀ s : State} (h₀ : Keeps s₀ s) : Done s₀ (execDisarmAll s) := by
  unfold execDisarmAll
  repeat' with_reducible first | assumption | apply done_done | apply disarmMask_keeps

theorem execEvidenceWrite_keeps {s₀ s : State} (h₀ : Keeps s₀ s) (m : BitVec 6) (v : W32) : Done s₀ (execEvidenceWrite m v s) := by
  unfold execEvidenceWrite
  repeat' with_reducible first | assumption | apply done_done | apply evTake_keeps | split

theorem plantEvWr_keeps {s₀ s : State} (h₀ : Keeps s₀ s) (v : W32) : Keeps s₀ (plantEvWr v s) := by
  unfold plantEvWr
  repeat' with_reducible first | assumption | apply setReason_keeps | simp only [keeps_mk] | split

theorem execPlantEvWrData_keeps {s₀ s : State} (h₀ : Keeps s₀ s) (v : W32) : Done s₀ (execPlantEvWrData v s) := by
  unfold execPlantEvWrData
  repeat' with_reducible first | assumption | apply done_done | apply plantEvWr_keeps

theorem execTripAssert_keeps {s₀ s : State} (h₀ : Keeps s₀ s) : Done s₀ (execTripAssert s) := by
  unfold execTripAssert
  repeat' with_reducible first | assumption | apply done_done | simp only [keeps_mk] | split

theorem execTripSeen_keeps {s₀ s : State} (h₀ : Keeps s₀ s) : Done s₀ (execTripSeen s) := by
  unfold execTripSeen
  repeat' with_reducible first
    | assumption | apply done_done | apply disarmMask_keeps | apply logErr_keeps | simp only [keeps_mk] | split

theorem execTripDeassert_keeps {s₀ s : State} (h₀ : Keeps s₀ s) : Done s₀ (execTripDeassert s) := by
  unfold execTripDeassert
  repeat' with_reducible first | assumption | apply done_done | simp only [keeps_mk]

theorem tripClr_keeps {s₀ s : State} (h₀ : Keeps s₀ s) : Keeps s₀ (tripClr s) := by
  unfold tripClr
  repeat' with_reducible first | assumption | apply setReason_keeps | simp only [keeps_mk] | split

theorem execTripClr_keeps {s₀ s : State} (h₀ : Keeps s₀ s) : Done s₀ (execTripClr s) := by
  unfold execTripClr
  repeat' with_reducible first | assumption | apply done_done | apply tripClr_keeps

theorem plantClear_keeps {s₀ s : State} (h₀ : Keeps s₀ s) (off : Nat) : Keeps s₀ (plantClear off s) := by
  unfold plantClear
  repeat' with_reducible first | assumption | simp only [keeps_mk] | split

theorem plantWrite_keeps {s₀ s : State} (h₀ : Keeps s₀ s) (off : Nat) (v : W32) (pair : W64) : Keeps s₀ (plantWrite off v pair s)
    := by
  unfold plantWrite
  repeat' with_reducible first
    | assumption | apply tripClr_keeps | apply disarmMask_keeps | apply plantEvWr_keeps | simp only [keeps_mk] | split

theorem copyForce_keeps {s₀ s : State} (h₀ : Keeps s₀ s) : Keeps s₀ (copyForce s) := by
  unfold copyForce
  repeat' with_reducible first | assumption | simp only [keeps_mk]

-- The operations of Machine/Flash.lean

theorem flashPower_keeps {s₀ s : State} (h₀ : Keeps s₀ s) (f : Flash) : Keeps s₀ (flashPower f s).2 := by
  have h := drawN_keeps h₀ 4096
  unfold flashPower
  revert h
  induction drawN 4096 s using Prod.rec with
  | mk xs t =>
    intro h
    split
    · exact h₀
    · exact drawN_keeps (draw_keeps h₀) 8
    · exact h

theorem flashReset_keeps {s₀ s : State} (h₀ : Keeps s₀ s) (f : Flash) : Keeps s₀ (flashReset f s).2 := by
  have h := drawN_keeps h₀ 4096
  unfold flashReset
  revert h
  induction drawN 4096 s using Prod.rec with
  | mk xs t =>
    intro h
    split
    · exact h
    · exact h₀

-- The operations of Machine/VelConfig.lean

theorem loadStart_keeps {s₀ s : State} (h₀ : Keeps s₀ s) : Keeps s₀ (loadStart s) := by
  unfold loadStart
  repeat' with_reducible first | assumption | simp only [keeps_mk]

theorem logCflWord_keeps {s₀ s : State} (h₀ : Keeps s₀ s) (a : Nat) : Keeps s₀ (logCflWord a s) := by
  unfold logCflWord
  repeat' with_reducible first | assumption | apply logErr_keeps

theorem putLoad_keeps {s₀ s : State} (h₀ : Keeps s₀ s) (r : LoadRes) (src : BitVec 2) (slot : BitVec 2) : Keeps s₀
    (putLoad r src slot s) := by
  unfold putLoad
  repeat' with_reducible first | assumption | simp only [keeps_mk]

theorem goldenLoad_keeps {s₀ s : State} (h₀ : Keeps s₀ s) : Keeps s₀ (goldenLoad s) := by
  unfold goldenLoad
  repeat' with_reducible first
    | assumption | apply putLoad_keeps | apply logCflWord_keeps | apply logErr_keeps | simp only [keeps_mk] | split

theorem loadFail_keeps {s₀ s : State} (h₀ : Keeps s₀ s) (st : Nat) (f : Nat) : Keeps s₀ (loadFail st f s) := by
  unfold loadFail
  repeat' with_reducible first | assumption | apply logErr_keeps | apply goldenLoad_keeps | simp only [keeps_mk]

theorem takeLoad_keeps {s₀ s : State} (h₀ : Keeps s₀ s) (r : LoadRes) (src : BitVec 2) (slot : BitVec 2) : Keeps s₀
    (takeLoad r src slot s) := by
  unfold takeLoad
  repeat' with_reducible first
    | assumption | apply putLoad_keeps | apply logCflWord_keeps | apply loadFail_keeps | dsimp only | split

theorem flashScan_keeps {s₀ s : State} (h₀ : Keeps s₀ s) : Keeps s₀ (flashScan s) := by
  unfold flashScan
  repeat' with_reducible first | assumption | apply logErr_keeps | simp only [keeps_mk] | split

theorem dinTaken_keeps {s₀ s : State} (h₀ : Keeps s₀ s) : Keeps s₀ (dinTaken s) := by
  unfold dinTaken
  repeat' with_reducible first | assumption | apply takeLoad_keeps | simp only [keeps_mk] | split

theorem dinBit_keeps {s₀ s : State} (h₀ : Keeps s₀ s) (b : Bool) : Keeps s₀ (dinBit b s) := by
  unfold dinBit
  repeat' with_reducible first | assumption | apply dinTaken_keeps | simp only [keeps_mk] | split

theorem bootLoad_keeps {s₀ s : State} (h₀ : Keeps s₀ s) (stream : List Byte) : Keeps s₀ (bootLoad stream s) := by
  unfold bootLoad
  repeat' with_reducible first
    | assumption | apply flashScan_keeps | apply takeLoad_keeps | apply loadStart_keeps | apply dinBit_keeps | apply keeps_foldl
    | simp only [keeps_mk] | intro _ | split

theorem execBootLoad_keeps {s₀ s : State} (h₀ : Keeps s₀ s) (stream : List Byte) : Done s₀ (execBootLoad stream s) := by
  unfold execBootLoad
  repeat' with_reducible first | assumption | apply done_done | apply bootLoad_keeps | split

theorem loadDone_keeps {s₀ s : State} (h₀ : Keeps s₀ s) : Keeps s₀ (loadDone s) := by
  unfold loadDone
  repeat' with_reducible first | assumption | simp only [keeps_mk] | split

theorem dinGap_keeps {s₀ s : State} (h₀ : Keeps s₀ s) : Keeps s₀ (dinGap s) := by
  unfold dinGap
  repeat' with_reducible first | assumption | apply loadFail_keeps | split

theorem execCfgClkGapTimeout_keeps {s₀ s : State} (h₀ : Keeps s₀ s) : Done s₀ (execCfgClkGapTimeout s) := by
  unfold execCfgClkGapTimeout
  repeat' with_reducible first | assumption | apply done_done | apply dinGap_keeps

theorem dout_keeps {s₀ s : State} (h₀ : Keeps s₀ s) (fwd : Bool) (din : Bool) : Keeps s₀ (dout fwd din s) := by
  unfold dout
  repeat' with_reducible first | assumption | simp only [keeps_mk]

theorem execCfgClkRisingEdge_keeps {s₀ s : State} (h₀ : Keeps s₀ s) (din : Bool) : Done s₀ (execCfgClkRisingEdge din s) := by
  unfold execCfgClkRisingEdge
  repeat' with_reducible first | assumption | apply done_done | apply dout_keeps | apply dinBit_keeps

theorem strmStep_keeps {s₀ s : State} (h₀ : Keeps s₀ s) : Keeps s₀ (strmStep s) := by
  unfold strmStep
  repeat' with_reducible first | assumption | apply takeLoad_keeps | simp only [keeps_mk] | split

theorem cfgLoad_keeps {s₀ s : State} (h₀ : Keeps s₀ s) (stream : List Byte) : Keeps s₀ (cfgLoad stream s) := by
  unfold cfgLoad
  repeat' with_reducible first
    | assumption | apply checked_keeps | apply takeLoad_keeps | apply loadStart_keeps | apply loadFail_keeps
    | apply strmStep_keeps | simp only [keeps_mk] | intro _ | split

theorem cfgLoadReg_keeps {s₀ s : State} (h₀ : Keeps s₀ s) : Keeps s₀ (cfgLoadReg s) := by
  unfold cfgLoadReg
  repeat' with_reducible first
    | assumption | apply checked_keeps | apply loadStart_keeps | apply cfgLoad_keeps | simp only [keeps_mk] | split

theorem execVelCfgLoad_keeps {s₀ s : State} (h₀ : Keeps s₀ s) (stream : List Byte) : Done s₀ (execVelCfgLoad stream s) := by
  unfold execVelCfgLoad
  repeat' with_reducible first
    | assumption | apply done_done | apply takeLoad_keeps | apply cfgLoad_keeps | simp only [keeps_mk] | split

theorem cfgData_keeps {s₀ s : State} (h₀ : Keeps s₀ s) (v : W32) : Keeps s₀ (cfgData v s) := by
  unfold cfgData
  repeat' with_reducible first | assumption | apply strmStep_keeps | simp only [keeps_mk] | split

theorem execVelCfgData_keeps {s₀ s : State} (h₀ : Keeps s₀ s) (v : W32) : Done s₀ (execVelCfgData v s) := by
  unfold execVelCfgData
  repeat' with_reducible first | assumption | apply done_done | apply cfgData_keeps

theorem readback_keeps {s₀ s : State} (h₀ : Keeps s₀ s) (f : BitVec 12) : Keeps s₀ (readback f s) := by
  unfold readback
  repeat' with_reducible first | assumption | simp only [keeps_mk]

theorem execVelRbFrame_keeps {s₀ s : State} (h₀ : Keeps s₀ s) (f : BitVec 12) : Done s₀ (execVelRbFrame f s) := by
  unfold execVelRbFrame
  repeat' with_reducible first | assumption | apply done_done | apply readback_keeps

theorem mboxPut_keeps {s₀ s : State} (h₀ : Keeps s₀ s) (w : Nat) (x : W32) : Keeps s₀ (mboxPut w x s) := by
  unfold mboxPut
  repeat' with_reducible first | assumption | simp only [keeps_mk] | split

theorem irpEndCmd_keeps {s₀ s : State} (h₀ : Keeps s₀ s) (st : IrpSt) (code : W16) : Keeps s₀ (irpEndCmd st code s) := by
  unfold irpEndCmd
  repeat' with_reducible first | assumption | apply mboxPut_keeps | simp only [keeps_mk]

theorem irpBegin_keeps {s₀ s : State} (h₀ : Keeps s₀ s) (w : W32) : Keeps s₀ (irpBegin w s) := by
  unfold irpBegin
  repeat' with_reducible first | assumption | apply irpEndCmd_keeps | simp only [keeps_mk] | split

theorem irpFail_keeps {s₀ s : State} (h₀ : Keeps s₀ s) : Keeps s₀ (irpFail s) := by
  unfold irpFail
  repeat' with_reducible first | assumption | apply irpEndCmd_keeps | apply logErr_keeps | simp only [keeps_mk]

theorem irpFrame_keeps {s₀ s : State} (h₀ : Keeps s₀ s) (w : W32) (d : BitVec 1024) (crc : W32) : Keeps s₀ (irpFrame w d crc s)
    := by
  unfold irpFrame
  repeat' with_reducible first | assumption | apply irpEndCmd_keeps | apply irpFail_keeps | simp only [keeps_mk] | split

theorem bramCommit_keeps {s₀ s : State} (h₀ : Keeps s₀ s) (r : Nat) : Keeps s₀ (bramCommit r s) := by
  unfold bramCommit
  repeat' with_reducible first | assumption | simp only [keeps_mk] | split

theorem irpEnd_keeps {s₀ s : State} (h₀ : Keeps s₀ s) : Keeps s₀ (irpEnd s) := by
  unfold irpEnd
  repeat' with_reducible first
    | assumption | apply irpEndCmd_keeps | apply bramCommit_keeps | apply irpFail_keeps | simp only [keeps_mk] | split

theorem irpRead_keeps {s₀ s : State} (h₀ : Keeps s₀ s) (w : W32) : Keeps s₀ (irpRead w s) := by
  unfold irpRead
  repeat' with_reducible first
    | assumption | apply mboxPut_keeps | apply irpEndCmd_keeps | apply keeps_foldl | dsimp only | intro _ | split

theorem irpAbort_keeps {s₀ s : State} (h₀ : Keeps s₀ s) : Keeps s₀ (irpAbort s) := by
  unfold irpAbort
  repeat' with_reducible first | assumption | apply irpFail_keeps | split

theorem execIrpBegin_keeps {s₀ s : State} (h₀ : Keeps s₀ s) (fab : Bool) (w : W32) : Done s₀ (execIrpBegin fab w s) := by
  unfold execIrpBegin
  repeat' with_reducible first | assumption | apply done_done | apply irpBegin_keeps | split

theorem execIrpFrame_keeps {s₀ s : State} (h₀ : Keeps s₀ s) (fab : Bool) (w : W32) (d : BitVec 1024) (crc : W32) : Done s₀
    (execIrpFrame fab w d crc s) := by
  unfold execIrpFrame
  repeat' with_reducible first | assumption | apply done_done | apply irpFrame_keeps | split

theorem execIrpEnd_keeps {s₀ s : State} (h₀ : Keeps s₀ s) (fab : Bool) (y1 : W32) : Done s₀ (execIrpEnd fab y1 s) := by
  unfold execIrpEnd
  repeat' with_reducible first | assumption | apply done_done | apply irpEnd_keeps | split

theorem execIrpRead_keeps {s₀ s : State} (h₀ : Keeps s₀ s) (fab : Bool) (w : W32) : Done s₀ (execIrpRead fab w s) := by
  unfold execIrpRead
  repeat' with_reducible first | assumption | apply done_done | apply irpRead_keeps | split

theorem execIrpAbort_keeps {s₀ s : State} (h₀ : Keeps s₀ s) (fab : Bool) (y1 : W32) : Done s₀ (execIrpAbort fab y1 s) := by
  unfold execIrpAbort
  repeat' with_reducible first | assumption | apply done_done | apply irpAbort_keeps | split

theorem irpAct_keeps {s₀ s : State} (h₀ : Keeps s₀ s) (ws : List W32) : Keeps s₀ (irpAct ws s) := by
  unfold irpAct
  repeat' with_reducible first
    | assumption | apply irpFrame_keeps | apply irpEnd_keeps | apply irpRead_keeps | apply irpAbort_keeps | apply irpBegin_keeps
    | dsimp only | split

theorem irpDrain_keeps {s₀ y1 : State} (h₀ : Keeps s₀ y1) (y0 : Nat) : Keeps s₀ (irpDrain y0 y1) := by
  induction y0 generalizing y1 with
  | zero => exact h₀
  | succ n ih =>
    unfold irpDrain
    repeat' with_reducible first | assumption | apply ih | apply irpAct_keeps | simp only [keeps_mk] | split

theorem irpWord_keeps {s₀ s : State} (h₀ : Keeps s₀ s) (v : W32) : Keeps s₀ (irpWord v s) := by
  unfold irpWord
  repeat' with_reducible first | assumption | apply irpFail_keeps | apply irpDrain_keeps | simp only [keeps_mk] | split

theorem execLoadDone_keeps {s₀ s : State} (h₀ : Keeps s₀ s) : Done s₀ (execLoadDone s) := by
  unfold execLoadDone
  repeat' with_reducible first | assumption | apply done_done | apply irpDrain_keeps | apply loadDone_keeps | split

theorem infoStore_keeps {s₀ s : State} (h₀ : Keeps s₀ s) (f : Vel → Vel) : Keeps s₀ (infoStore f s) := by
  unfold infoStore
  repeat' with_reducible first | assumption | simp only [keeps_mk]

theorem lockSet_keeps {s₀ s : State} (h₀ : Keeps s₀ s) (v : BitVec 5) : Keeps s₀ (lockSet v s) := by
  unfold lockSet
  repeat' with_reducible first | assumption | apply infoStore_keeps | split

theorem execVelLockSet_keeps {s₀ s : State} (h₀ : Keeps s₀ s) (v : BitVec 5) : Done s₀ (execVelLockSet v s) := by
  unfold execVelLockSet
  repeat' with_reducible first | assumption | apply done_done | apply lockSet_keeps

theorem lockClr_keeps {s₀ s : State} (h₀ : Keeps s₀ s) (v : BitVec 5) : Keeps s₀ (lockClr v s) := by
  unfold lockClr
  repeat' with_reducible first | assumption | apply checked_keeps | apply infoStore_keeps | intro _ | split

theorem execVelLockClr_keeps {s₀ s : State} (h₀ : Keeps s₀ s) (v : BitVec 5) : Done s₀ (execVelLockClr v s) := by
  unfold execVelLockClr
  repeat' with_reducible first | assumption | apply done_done | apply lockClr_keeps

theorem primaryGolden_keeps {s₀ s : State} (h₀ : Keeps s₀ s) (v : BitVec 4) : Keeps s₀ (primaryGolden v s) := by
  unfold primaryGolden
  repeat' with_reducible first | assumption | apply checked_keeps | apply infoStore_keeps | dsimp only | intro _ | split

theorem execPrimaryGoldenWrite_keeps {s₀ s : State} (h₀ : Keeps s₀ s) (v : BitVec 4) : Done s₀ (execPrimaryGoldenWrite v s) := by
  unfold execPrimaryGoldenWrite
  repeat' with_reducible first | assumption | apply done_done | apply primaryGolden_keeps

theorem slotTouched_keeps {s₀ s : State} (h₀ : Keeps s₀ s) (n : Nat) : Keeps s₀ (slotTouched n s) := by
  unfold slotTouched
  repeat' with_reducible first | assumption | simp only [keeps_mk] | split

theorem cflStart_keeps {s₀ s : State} (h₀ : Keeps s₀ s) (cs : List (Bool × W16)) (op : FlashOp) : Keeps s₀ (cflStart cs op s) := by
  unfold cflStart
  repeat' with_reducible first | assumption | apply setReason_keeps | apply slotTouched_keeps | simp only [keeps_mk] | split

theorem cflProgram_keeps {s₀ s : State} (h₀ : Keeps s₀ s) : Keeps s₀ (cflProgram s) := by
  unfold cflProgram
  repeat' with_reducible first | assumption | apply cflStart_keeps

theorem execCflProgram_keeps {s₀ s : State} (h₀ : Keeps s₀ s) : Done s₀ (execCflProgram s) := by
  unfold execCflProgram
  repeat' with_reducible first | assumption | apply done_done | apply cflProgram_keeps

theorem cflErase_keeps {s₀ s : State} (h₀ : Keeps s₀ s) : Keeps s₀ (cflErase s) := by
  unfold cflErase
  repeat' with_reducible first | assumption | apply cflStart_keeps

theorem execCflErase_keeps {s₀ s : State} (h₀ : Keeps s₀ s) : Done s₀ (execCflErase s) := by
  unfold execCflErase
  repeat' with_reducible first | assumption | apply done_done | apply cflErase_keeps

theorem scrubFrame_keeps {s₀ s : State} (h₀ : Keeps s₀ s) (f : Nat) : Keeps s₀ (scrubFrame s f) := by
  unfold scrubFrame
  refine keeps_ite ?_ ?_
  · simp only [keeps_mk]; exact h₀
  · split
    · simp only [keeps_mk]; exact h₀
    · split
      · refine logErr_keeps ?_ _ _ _ _
        simp only [keeps_mk]; exact h₀
      · refine logErr_keeps ?_ _ _ _ _
        simp only [keeps_mk]
        split
        · refine keeps_elim ?_ fun a => logCflWord_keeps ?_ _ <;> (simp only [keeps_mk]; exact h₀)
        · simp only [keeps_mk]; exact h₀

theorem scrubPass_keeps {s₀ s : State} (h₀ : Keeps s₀ s) : Keeps s₀ (scrubPass s) := by
  unfold scrubPass
  repeat' with_reducible first | assumption | apply scrubFrame_keeps | apply keeps_foldl | simp only [keeps_mk] | intro _ | split

theorem execScrubPass_keeps {s₀ s : State} (h₀ : Keeps s₀ s) : Done s₀ (execScrubPass s) := by
  unfold execScrubPass
  repeat' with_reducible first | assumption | apply done_done | apply scrubPass_keeps

theorem execScrubFault_keeps {s₀ s : State} (h₀ : Keeps s₀ s) (vote : Bool) (rom : Bool) : Done s₀ (execScrubFault vote rom s) := by
  unfold execScrubFault
  repeat' with_reducible first | assumption | apply done_done | apply logErr_keeps | simp only [keeps_mk] | split

-- The operations of Machine/Vellum.lean

theorem velReleaseSet_keeps {s₀ s : State} (h₀ : Keeps s₀ s) : Keeps s₀ (velReleaseSet s) := by
  unfold velReleaseSet
  repeat' with_reducible first | assumption | apply checked_keeps | simp only [keeps_mk] | intro _ | split

theorem execVelReleaseSet_keeps {s₀ s : State} (h₀ : Keeps s₀ s) : Done s₀ (execVelReleaseSet s) := by
  unfold execVelReleaseSet
  repeat' with_reducible first | assumption | apply done_done | apply velReleaseSet_keeps

theorem velReleaseClear_keeps {s₀ s : State} (h₀ : Keeps s₀ s) : Keeps s₀ (velReleaseClear s) := by
  unfold velReleaseClear
  repeat' with_reducible first | assumption | simp only [keeps_mk] | split

theorem execVelReleaseClear_keeps {s₀ s : State} (h₀ : Keeps s₀ s) : Done s₀ (execVelReleaseClear s) := by
  unfold execVelReleaseClear
  repeat' with_reducible first | assumption | apply done_done | apply velReleaseClear_keeps

theorem sportsLive_keeps {s₀ s : State} (h₀ : Keeps s₀ s) (go : Bool) : Keeps s₀ (sportsLive go s) := by
  unfold sportsLive
  repeat' with_reducible first | assumption | simp only [keeps_mk]

theorem releaseStage_keeps {s₀ s : State} (h₀ : Keeps s₀ s) : Keeps s₀ (releaseStage s) := by
  unfold releaseStage
  repeat' with_reducible first | assumption | apply sportsLive_keeps | simp only [keeps_mk] | split

theorem execVelDly_keeps {s₀ s : State} (h₀ : Keeps s₀ s) (p : Byte) (tap : BitVec 6) : Done s₀ (execVelDly p tap s) := by
  unfold execVelDly
  repeat' with_reducible first | assumption | apply done_done | simp only [keeps_mk] | split

theorem tapStep_keeps {s₀ s : State} (h₀ : Keeps s₀ s) (p : Nat) : Keeps s₀ (tapStep p s) := by
  unfold tapStep
  repeat' with_reducible first | assumption | simp only [keeps_mk]

theorem execTapStep_keeps {s₀ s : State} (h₀ : Keeps s₀ s) (p : Byte) : Done s₀ (execTapStep p s) := by
  unfold execTapStep
  repeat' with_reducible first | assumption | apply done_done | apply tapStep_keeps

theorem uflRead_keeps {s₀ s : State} (h₀ : Keeps s₀ s) (wa : BitVec 17) : Keeps s₀ (uflRead wa s).2 := by
  unfold uflRead
  repeat' with_reducible first | assumption | apply logErr_keeps | simp only [keeps_mk] | split

theorem uflFabric_keeps {s₀ s : State} (h₀ : Keeps s₀ s) (wa : BitVec 17) : Keeps s₀ (uflFabric wa s) := by
  unfold uflFabric
  repeat' with_reducible first | assumption | apply uflRead_keeps | simp only [keeps_mk]

theorem execUflFabricRead_keeps {s₀ s : State} (h₀ : Keeps s₀ s) (wa : BitVec 17) : Done s₀ (execUflFabricRead wa s) := by
  unfold execUflFabricRead
  repeat' with_reducible first | assumption | apply done_done | apply uflFabric_keeps | simp only [keeps_mk] | split

theorem uflStart_keeps {s₀ s : State} (h₀ : Keeps s₀ s) (fab : Bool) (op : FlashOp) (refuse : Bool) : Keeps s₀
    (uflStart fab op refuse s) := by
  unfold uflStart
  repeat' with_reducible first | assumption | apply setReason_keeps | simp only [keeps_mk] | split

theorem uflProgram_keeps {s₀ s : State} (h₀ : Keeps s₀ s) (fab : Bool) (wa : BitVec 17) : Keeps s₀ (uflProgram fab wa s) := by
  unfold uflProgram
  repeat' with_reducible first | assumption | apply uflStart_keeps

theorem execUflProgram_keeps {s₀ s : State} (h₀ : Keeps s₀ s) (fab : Bool) (wa : BitVec 17) : Done s₀ (execUflProgram fab wa s)
    := by
  unfold execUflProgram
  repeat' with_reducible first | assumption | apply done_done | apply uflProgram_keeps

theorem uflErase_keeps {s₀ s : State} (h₀ : Keeps s₀ s) (fab : Bool) (wa : BitVec 17) : Keeps s₀ (uflErase fab wa s) := by
  unfold uflErase
  repeat' with_reducible first | assumption | apply uflStart_keeps

theorem execUflErase_keeps {s₀ s : State} (h₀ : Keeps s₀ s) (fab : Bool) (wa : BitVec 17) : Done s₀ (execUflErase fab wa s) := by
  unfold execUflErase
  repeat' with_reducible first | assumption | apply done_done | apply uflErase_keeps

theorem velUflData_keeps {s₀ s : State} (h₀ : Keeps s₀ s) : Keeps s₀ (velUflData s).2 := by
  unfold velUflData
  repeat' with_reducible first | assumption | apply uflRead_keeps | simp only [keeps_mk] | split

theorem execVelUflData_keeps {s₀ s : State} (h₀ : Keeps s₀ s) (ag : Agent) : Done s₀ (execVelUflData ag s) := by
  unfold execVelUflData
  repeat' with_reducible first | assumption | apply velUflData_keeps | apply done_done | apply ans_keeps

theorem execFlashOperationDone_keeps {s₀ s : State} (h₀ : Keeps s₀ s) (f : BitVec 2) : Done s₀ (execFlashOperationDone f s) := by
  unfold execFlashOperationDone
  repeat' with_reducible first
    | assumption | apply done_done | apply uflFabric_keeps | apply keeps_foldl | simp only [keeps_mk] | intro _ | split

theorem State_setSport_keeps {s₀ s : State} (h₀ : Keeps s₀ s) (n : Nat) (p : Sport) : Keeps s₀ (State.setSport s n p) := by
  unfold State.setSport
  repeat' with_reducible first | assumption | simp only [keeps_mk]

theorem sportEnable_keeps {s₀ s : State} (h₀ : Keeps s₀ s) (n : Nat) (v : Bool) : Keeps s₀ (sportEnable n v s) := by
  unfold sportEnable
  repeat' with_reducible first
    | assumption | apply setReason_keeps | apply checked_keeps | apply State_setSport_keeps | dsimp only | intro _
    | split

theorem execSerialPortEn_keeps {s₀ s : State} (h₀ : Keeps s₀ s) (n : BitVec 3) (v : Bool) : Done s₀ (execSerialPortEn n v s) := by
  unfold execSerialPortEn
  repeat' with_reducible first | assumption | apply done_done | apply sportEnable_keeps | split

theorem sportTx_keeps {s₀ s : State} (h₀ : Keeps s₀ s) (n : Nat) (v : W32) : Keeps s₀ (sportTx n v s) := by
  unfold sportTx
  repeat' with_reducible first | assumption | apply State_setSport_keeps | dsimp only | split

theorem execTxdata_keeps {s₀ s : State} (h₀ : Keeps s₀ s) (n : BitVec 3) (v : W32) : Done s₀ (execTxdata n v s) := by
  unfold execTxdata
  repeat' with_reducible first | assumption | apply done_done | apply sportTx_keeps | split

theorem sportRx_keeps {s₀ s : State} (h₀ : Keeps s₀ s) (n : Nat) : Keeps s₀ (sportRx n s).2 := by
  unfold sportRx
  repeat' with_reducible first | assumption | apply State_setSport_keeps | dsimp only | split

theorem execRxdata_keeps {s₀ s : State} (h₀ : Keeps s₀ s) (ag : Agent) (n : BitVec 3) : Done s₀ (execRxdata ag n s) := by
  unfold execRxdata
  repeat' with_reducible first | assumption | apply sportRx_keeps | apply done_done | apply ans_keeps

theorem execSerialRxWord_keeps {s₀ s : State} (h₀ : Keeps s₀ s) (n : BitVec 3) (v : W32) : Done s₀ (execSerialRxWord n v s) := by
  unfold execSerialRxWord
  repeat' with_reducible first | assumption | apply done_done | apply State_setSport_keeps | apply logErr_keeps | split

theorem execSerialTxWord_keeps {s₀ s : State} (h₀ : Keeps s₀ s) (n : BitVec 3) (acked : Bool) : Done s₀
    (execSerialTxWord n acked s) := by
  unfold execSerialTxWord
  repeat' with_reducible first | assumption | apply done_done | apply State_setSport_keeps | split

theorem probeEn_keeps {s₀ s : State} (h₀ : Keeps s₀ s) (n : Nat) (v : Bool) : Keeps s₀ (probeEn n v s) := by
  unfold probeEn
  repeat' with_reducible first | assumption | apply checked_keeps | simp only [keeps_mk] | intro _ | split

theorem execVelProbeEn_keeps {s₀ s : State} (h₀ : Keeps s₀ s) (n : BitVec 4) (v : Bool) : Done s₀ (execVelProbeEn n v s) := by
  unfold execVelProbeEn
  repeat' with_reducible first | assumption | apply done_done | apply probeEn_keeps

theorem slvError_keeps {s₀ s : State} (h₀ : Keeps s₀ s) (ag : Agent) (log : Bool) (o : Nat) : Keeps s₀ (slvError ag log o s) := by
  unfold slvError
  repeat' with_reducible first | assumption | apply respond_keeps | apply logErr_keeps | simp only [keeps_mk] | split

theorem slaveAccess_keeps {s₀ s : State} (h₀ : Keeps s₀ s) (ag : Agent) (o : Nat) (wr : Bool) (v : W32) : Keeps s₀
    (slaveAccess ag o wr v s) := by
  unfold slaveAccess
  repeat' with_reducible first | assumption | apply slvError_keeps | simp only [keeps_mk] | split

theorem execSlaveWindowAccess_keeps {s₀ s : State} (h₀ : Keeps s₀ s) (ag : Agent) (a : Dpa) (wr : Bool) (v : W32) : Done s₀
    (execSlaveWindowAccess ag a wr v s) := by
  unfold execSlaveWindowAccess
  repeat' with_reducible first | assumption | apply done_done | apply slaveAccess_keeps | split

theorem execSlvAck_keeps {s₀ s : State} (h₀ : Keeps s₀ s) (rdata : W32) (err : Bool) : Done s₀ (execSlvAck rdata err s) := by
  unfold execSlvAck
  repeat' with_reducible first
    | assumption | apply done_done | apply slvError_keeps | apply respond_keeps | simp only [keeps_mk] | split

theorem execSlvAckTimeout_keeps {s₀ s : State} (h₀ : Keeps s₀ s) : Done s₀ (execSlvAckTimeout s) := by
  unfold execSlvAckTimeout
  repeat' with_reducible first | assumption | apply done_done | apply slvError_keeps | simp only [keeps_mk] | split

theorem execMstAck_keeps {s₀ s : State} (h₀ : Keeps s₀ s) : Done s₀ (execMstAck s) := by
  unfold execMstAck
  repeat' with_reducible first | assumption | apply done_done | simp only [keeps_mk] | split

theorem execBramCollision_keeps {s₀ s : State} (h₀ : Keeps s₀ s) (r : BitVec 4) (words : List (Nat × Bool)) : Done s₀
    (execBramCollision r words s) := by
  unfold execBramCollision
  repeat' with_reducible first | assumption | apply done_done | apply logErr_keeps | simp only [keeps_mk]

theorem velClear_keeps {s₀ s : State} (h₀ : Keeps s₀ s) (off : Nat) : Keeps s₀ (velClear off s) := by
  unfold velClear
  repeat' with_reducible first
    | assumption | apply draw_keeps | apply velUflData_keeps | apply logCflWord_keeps | apply sportRx_keeps | simp only [keeps_mk]
    | split

theorem sportWrite_keeps {s₀ s : State} (h₀ : Keeps s₀ s) (n : Nat) (off : Nat) (v : W32) : Keeps s₀ (sportWrite n off v s) := by
  unfold sportWrite
  repeat' with_reducible first
    | assumption | apply State_setSport_keeps | apply sportEnable_keeps | apply setReason_keeps | apply sportTx_keeps
    | dsimp only | split

theorem velWrite_keeps {s₀ s : State} (h₀ : Keeps s₀ s) (off : Nat) (v : W32) : Keeps s₀ (velWrite off v s) := by
  unfold velWrite
  repeat' with_reducible first
    | assumption | apply velReleaseSet_keeps | apply velReleaseClear_keeps | apply probeEn_keeps | apply sportWrite_keeps
    | apply uflProgram_keeps | apply uflErase_keeps | apply cfgLoadReg_keeps | apply cfgData_keeps | apply primaryGolden_keeps
    | apply lockSet_keeps | apply lockClr_keeps | apply cflProgram_keeps | apply cflErase_keeps | apply irpWord_keeps
    | apply readback_keeps | apply keeps_ite | simp only [keeps_mk]

-- The operations of Machine/Fabric.lean

theorem fabPass_keeps {s₀ s : State} (h₀ : Keeps s₀ s) (c : FabCfg) (free : Nat) : Keeps s₀ (fabPass c free s) := by
  unfold fabPass
  repeat' with_reducible first | assumption | simp only [keeps_mk]

theorem fabSettle_keeps {s₀ y3 : State} (h₀ : Keeps s₀ y3) (c : FabCfg) (free : Nat) (y2 : Nat) : Keeps s₀
    (fabSettle c free y2 y3) := by
  induction y2 generalizing y3 with
  | zero => exact h₀
  | succ n ih =>
    unfold fabSettle
    repeat' with_reducible first | assumption | apply ih | apply fabPass_keeps | dsimp only | split

theorem fabRun_keeps {s₀ s : State} (h₀ : Keeps s₀ s) : Keeps s₀ (fabRun s) := by
  unfold fabRun
  repeat' with_reducible first | assumption | apply draw_keeps | apply fabSettle_keeps | dsimp only | split

theorem fabEvent_keeps {s₀ s : State} (h₀ : Keeps s₀ s) : Keeps s₀ (fabEvent s) := by
  unfold fabEvent
  repeat' with_reducible first | assumption | apply draw_keeps | apply fabRun_keeps | simp only [keeps_mk] | split

theorem execReleaseStage_keeps {s₀ s : State} (h₀ : Keeps s₀ s) : Done s₀ (execReleaseStage s) := by
  unfold execReleaseStage
  repeat' with_reducible first | assumption | apply done_done | apply fabRun_keeps | apply releaseStage_keeps

-- The operations of Machine/Kysto.lean

theorem fecSeen_keeps {s₀ s : State} (h₀ : Keeps s₀ s) (l : Nat) : Keeps s₀ (fecSeen l s) := by
  unfold fecSeen
  repeat' with_reducible first | assumption | apply draw_keeps | apply State_setLink_keeps

theorem freeSpace_keeps {s₀ s : State} (h₀ : Keeps s₀ s) (l : Nat) (b : BitVec 3) (n : Nat) : Keeps s₀ (freeSpace l b n s) := by
  unfold freeSpace
  repeat' with_reducible first | assumption | apply State_setLink_keeps

theorem fwdFree_keeps {s₀ s : State} (h₀ : Keeps s₀ s) (l : Nat) : Keeps s₀ (fwdFree l s) := by
  unfold fwdFree
  repeat' with_reducible first | assumption | apply freeSpace_keeps | apply State_setLink_keeps | apply keeps_foldl | intro _

theorem linkSend_keeps {s₀ s : State} (h₀ : Keeps s₀ s) (l : Nat) : Keeps s₀ (linkSend l s) := by
  unfold linkSend
  repeat' with_reducible first | assumption | apply fwdFree_keeps | apply State_setLink_keeps | dsimp only | split

theorem execFrameOpportunity_keeps {s₀ s : State} (h₀ : Keeps s₀ s) (l : BitVec 4) : Done s₀ (execFrameOpportunity l s) := by
  unfold execFrameOpportunity
  repeat' with_reducible first | assumption | apply done_done | apply linkSend_keeps

theorem execDataFrame_keeps {s₀ s : State} (h₀ : Keeps s₀ s) (l : BitVec 4) (f : BitVec 1088) : Done s₀ (execDataFrame l f s) := by
  unfold execDataFrame
  repeat' with_reducible first | assumption | apply done_done | apply fecSeen_keeps | apply State_setLink_keeps | split

theorem execBadFrame_keeps {s₀ s : State} (h₀ : Keeps s₀ s) (l : BitVec 4) (why : BadKind) : Done s₀ (execBadFrame l why s) := by
  unfold execBadFrame
  repeat' with_reducible first | assumption | apply done_done | apply State_setLink_keeps | split

theorem execNakRepeat_keeps {s₀ s : State} (h₀ : Keeps s₀ s) (l : BitVec 4) : Done s₀ (execNakRepeat l s) := by
  unfold execNakRepeat
  repeat' with_reducible first | assumption | apply done_done | apply State_setLink_keeps | split

theorem freeHeld_keeps {s₀ s : State} (h₀ : Keeps s₀ s) (p : Pkt) (n : Nat) : Keeps s₀ (freeHeld p n s) := by
  unfold freeHeld
  repeat' with_reducible first | assumption | apply freeSpace_keeps | split

theorem dropPkt_keeps {s₀ s : State} (h₀ : Keeps s₀ s) (p : Pkt) : Keeps s₀ (dropPkt p s) := by
  unfold dropPkt
  repeat' with_reducible first | assumption | apply freeHeld_keeps | apply logErr_keeps | simp only [keeps_mk]

theorem linkEmpty_keeps {s₀ s : State} (h₀ : Keeps s₀ s) (l : Nat) : Keeps s₀ (linkEmpty l s) := by
  unfold linkEmpty
  repeat' with_reducible first
    | assumption | apply State_setLink_keeps | apply freeHeld_keeps | apply dropPkt_keeps | apply keeps_foldl | intro _

theorem linkFail_keeps {s₀ s : State} (h₀ : Keeps s₀ s) (l : Nat) : Keeps s₀ (linkFail l s) := by
  unfold linkFail
  repeat' with_reducible first | assumption | apply linkEmpty_keeps | apply State_setLink_keeps

theorem klEnableBit_keeps {s₀ s : State} (h₀ : Keeps s₀ s) (v : W16) (l : Nat) : Keeps s₀ (klEnableBit v s l) := by
  unfold klEnableBit
  repeat' with_reducible first
    | assumption | apply checked_keeps | apply State_setLink_keeps | apply linkEmpty_keeps | simp only [keeps_mk] | intro _
    | split

theorem klEnable_keeps {s₀ s : State} (h₀ : Keeps s₀ s) (v : W16) : Keeps s₀ (klEnable v s) := by
  unfold klEnable
  repeat' with_reducible first | assumption | apply klEnableBit_keeps | apply keeps_foldl | intro _

theorem execKlEnable_keeps {s₀ s : State} (h₀ : Keeps s₀ s) (v : W16) : Done s₀ (execKlEnable v s) := by
  unfold execKlEnable
  repeat' with_reducible first | assumption | apply done_done | apply klEnable_keeps

theorem execLinkTrained_keeps {s₀ s : State} (h₀ : Keeps s₀ s) (l : BitVec 4) (ok : Bool) (chip : Byte) (y3 : BitVec 4) (dim
    : BitVec 2) (dir : Bool) : Done s₀ (execLinkTrained l ok chip y3 dim dir s) := by
  unfold execLinkTrained
  repeat' with_reducible first | assumption | apply done_done | apply State_setLink_keeps | apply logErr_keeps | split

theorem routePkt_keeps {s₀ s : State} (h₀ : Keeps s₀ s) (from_ : Option Nat) (p : Pkt) : Keeps s₀ (routePkt from_ p s) := by
  unfold routePkt
  repeat' with_reducible first | assumption | apply dropPkt_keeps | apply State_setLink_keeps | dsimp only | split

theorem sendC2k_keeps {s₀ s : State} (h₀ : Keeps s₀ s) (out : Bool) (p : Pkt) : Keeps s₀ (sendC2k out p s) := by
  unfold sendC2k
  repeat' with_reducible first | assumption | apply sendX_keeps

theorem tickEnqueue_keeps {s₀ s : State} (h₀ : Keeps s₀ s) (l : Nat) (p : BitVec 1024) : Keeps s₀ (tickEnqueue l p s) := by
  unfold tickEnqueue
  repeat' with_reducible first | assumption | apply State_setLink_keeps

theorem tickReqSend_keeps {s₀ s : State} (h₀ : Keeps s₀ s) (phase : BitVec 5) (l : Nat) : Keeps s₀ (tickReqSend phase l s) := by
  unfold tickReqSend
  repeat' with_reducible first | assumption | apply tickEnqueue_keeps | simp only [keeps_mk]

theorem execTickReqSend_keeps {s₀ s : State} (h₀ : Keeps s₀ s) (phase : BitVec 5) : Done s₀ (execTickReqSend phase s) := by
  unfold execTickReqSend
  repeat' with_reducible first | assumption | apply done_done | apply tickReqSend_keeps | split

theorem tickReqNow_keeps {s₀ s : State} (h₀ : Keeps s₀ s) : Keeps s₀ (tickReqNow s) := by
  unfold tickReqNow
  repeat' with_reducible first | assumption | apply tickReqSend_keeps | apply draw_keeps | split

theorem execTickReqReceive_keeps {s₀ s : State} (h₀ : Keeps s₀ s) (l : BitVec 4) (f : BitVec 1088) (t2 : W64) (t3 : W64) : Done s₀
    (execTickReqReceive l f t2 t3 s) := by
  unfold execTickReqReceive
  repeat' with_reducible first | assumption | apply done_done | apply tickEnqueue_keeps | dsimp only | split

theorem lockLost_keeps {s₀ s : State} (h₀ : Keeps s₀ s) (b : Blk) (code : W16) : Keeps s₀ (lockLost b code s) := by
  unfold lockLost
  repeat' with_reducible first | assumption | apply logErr_keeps | simp only [keeps_mk] | split

theorem steer_keeps {s₀ s : State} (h₀ : Keeps s₀ s) (offp : Int) (offm : Int) (parLocked : Bool) : Keeps s₀
    (steer offp offm parLocked s) := by
  unfold steer
  repeat' with_reducible first | assumption | apply lockLost_keeps | simp only [keeps_mk] | split

theorem acquireLoad_keeps {s₀ s : State} (h₀ : Keeps s₀ s) (v : W64) : Keeps s₀ (acquireLoad v s) := by
  unfold acquireLoad
  repeat' with_reducible first | assumption | simp only [keeps_mk]

theorem execTickReply_keeps {s₀ s : State} (h₀ : Keeps s₀ s) (f : BitVec 1088) (t4 : W64) : Done s₀ (execTickReply f t4 s) := by
  unfold execTickReply
  repeat' with_reducible first
    | assumption | apply done_done | apply steer_keeps | apply setReason_keeps | apply acquireLoad_keeps | simp only [keeps_mk]
    | split

theorem execTickReplyMissing_keeps {s₀ s : State} (h₀ : Keeps s₀ s) : Done s₀ (execTickReplyMissing s) := by
  unfold execTickReplyMissing
  repeat' with_reducible first
    | assumption | apply done_done | apply logErr_keeps | apply lockLost_keeps | simp only [keeps_mk] | split

theorem acquire_keeps {s₀ s : State} (h₀ : Keeps s₀ s) : Keeps s₀ (acquire s) := by
  unfold acquire
  repeat' with_reducible first | assumption | apply checked_keeps | simp only [keeps_mk] | intro _

theorem execAcquire_keeps {s₀ s : State} (h₀ : Keeps s₀ s) : Done s₀ (execAcquire s) := by
  unfold execAcquire
  repeat' with_reducible first | assumption | apply done_done | apply acquire_keeps

theorem syncOutRise_keeps {s₀ s : State} (h₀ : Keeps s₀ s) : Keeps s₀ (syncOutRise s) := by
  unfold syncOutRise
  repeat' with_reducible first | assumption | simp only [keeps_mk] | split

theorem execSyncOutPulse_keeps {s₀ s : State} (h₀ : Keeps s₀ s) : Done s₀ (execSyncOutPulse s) := by
  unfold execSyncOutPulse
  repeat' with_reducible first | assumption | apply done_done | apply syncOutRise_keeps

theorem execSyncInEdge_keeps {s₀ s : State} (h₀ : Keeps s₀ s) (t : W64) : Done s₀ (execSyncInEdge t s) := by
  unfold execSyncInEdge
  repeat' with_reducible first
    | assumption | apply done_done | apply draw_keeps | apply acquireLoad_keeps | apply steer_keeps | simp only [keeps_mk] | split

theorem klTick_keeps {s₀ s : State} (h₀ : Keeps s₀ s) : Keeps s₀ (klTick s) := by
  unfold klTick
  repeat' with_reducible first | assumption | apply syncOutRise_keeps | simp only [keeps_mk] | split

theorem klClear_keeps {s₀ s : State} (h₀ : Keeps s₀ s) (off : Nat) : Keeps s₀ (klClear off s) := by
  unfold klClear
  repeat' with_reducible first | assumption | apply State_setLink_keeps | dsimp only | split

theorem klWrite_keeps {s₀ s : State} (h₀ : Keeps s₀ s) (off : Nat) (v : W32) : Keeps s₀ (klWrite off v s) := by
  unfold klWrite
  repeat' with_reducible first | assumption | apply klEnable_keeps | apply acquire_keeps | simp only [keeps_mk] | split

-- The operations of Machine/Madder.lean

theorem State_setSrc_keeps {s₀ s : State} (h₀ : Keeps s₀ s) (n : Nat) (x : Src) : Keeps s₀ (State.setSrc s n x) := by
  unfold State.setSrc
  repeat' with_reducible first | assumption | simp only [keeps_mk]

theorem State_setInst_keeps {s₀ s : State} (h₀ : Keeps s₀ s) (i : Nat) (x : Drbg) : Keeps s₀ (State.setInst s i x) := by
  unfold State.setInst
  repeat' with_reducible first | assumption | simp only [keeps_mk]

theorem madStart_keeps {s₀ s : State} (h₀ : Keeps s₀ s) : Keeps s₀ (madStart s) := by
  unfold madStart
  repeat' with_reducible first | assumption | simp only [keeps_mk]

theorem fatalAlarm_keeps {s₀ s : State} (h₀ : Keeps s₀ s) : Keeps s₀ (fatalAlarm s) := by
  unfold fatalAlarm
  repeat' with_reducible first | assumption | apply logErr_keeps | simp only [keeps_mk] | split

theorem fatalCheck_keeps {s₀ s : State} (h₀ : Keeps s₀ s) : Keeps s₀ (fatalCheck s) := by
  unfold fatalCheck
  repeat' with_reducible first | assumption | apply fatalAlarm_keeps | split

theorem sourceFail_keeps {s₀ s : State} (h₀ : Keeps s₀ s) (n : Nat) (code : W16) : Keeps s₀ (sourceFail n code s) := by
  unfold sourceFail
  repeat' with_reducible first
    | assumption | apply State_setSrc_keeps | apply logErr_keeps | apply fatalCheck_keeps | apply fatalAlarm_keeps
    | simp only [keeps_mk] | split

theorem condition_keeps {s₀ s : State} (h₀ : Keeps s₀ s) (n : Nat) (b : Bool) : Keeps s₀ (condition n b s) := by
  unfold condition
  repeat' with_reducible first | assumption | apply State_setSrc_keeps | simp only [keeps_mk] | split

theorem rawBit_keeps {s₀ s : State} (h₀ : Keeps s₀ s) (n : Nat) (b : Bool) : Keeps s₀ (rawBit n b s) := by
  unfold rawBit
  repeat' with_reducible first
    | assumption | apply State_setSrc_keeps | apply sourceFail_keeps | apply condition_keeps | dsimp only | split

theorem execRawBit_keeps {s₀ s : State} (h₀ : Keeps s₀ s) (n : BitVec 2) (b : Bool) : Done s₀ (execRawBit n b s) := by
  unfold execRawBit
  repeat' with_reducible first | assumption | apply done_done | apply rawBit_keeps

theorem execStartupTestDone_keeps {s₀ s : State} (h₀ : Keeps s₀ s) (n : BitVec 2) : Done s₀ (execStartupTestDone n s) := by
  unfold execStartupTestDone
  repeat' with_reducible first
    | assumption | apply done_done | apply sourceFail_keeps | apply State_setSrc_keeps | simp only [keeps_mk] | split

theorem execSourceRestartDone_keeps {s₀ s : State} (h₀ : Keeps s₀ s) (n : BitVec 2) : Done s₀ (execSourceRestartDone n s) := by
  unfold execSourceRestartDone
  repeat' with_reducible first | assumption | apply done_done | apply State_setSrc_keeps | split

theorem execFatalStartupTimeout_keeps {s₀ s : State} (h₀ : Keeps s₀ s) : Done s₀ (execFatalStartupTimeout s) := by
  unfold execFatalStartupTimeout
  repeat' with_reducible first | assumption | apply done_done | apply fatalAlarm_keeps | split

theorem clearFatal_keeps {s₀ s : State} (h₀ : Keeps s₀ s) : Keeps s₀ (clearFatal s) := by
  unfold clearFatal
  repeat' with_reducible first | assumption | simp only [keeps_mk]

theorem execClearFatal_keeps {s₀ s : State} (h₀ : Keeps s₀ s) : Done s₀ (execClearFatal s) := by
  unfold execClearFatal
  repeat' with_reducible first | assumption | apply done_done | apply clearFatal_keeps

theorem blockOffered_keeps {s₀ s : State} (h₀ : Keeps s₀ s) : Keeps s₀ (blockOffered s) := by
  unfold blockOffered
  repeat' with_reducible first | assumption | apply State_setInst_keeps | simp only [keeps_mk] | split

theorem execBlockOffered_keeps {s₀ s : State} (h₀ : Keeps s₀ s) : Done s₀ (execBlockOffered s) := by
  unfold execBlockOffered
  repeat' with_reducible first | assumption | apply done_done | apply blockOffered_keeps

theorem drbgOp_keeps {s₀ s : State} (h₀ : Keeps s₀ s) (i : Nat) (n : Nat) (inst : Bool) : Keeps s₀ (drbgOp i n inst s) := by
  unfold drbgOp
  repeat' with_reducible first | assumption | apply checked_keeps | apply State_setInst_keeps | intro _

theorem execInstantiate_keeps {s₀ s : State} (h₀ : Keeps s₀ s) (i : BitVec 3) : Done s₀ (execInstantiate i s) := by
  unfold execInstantiate
  repeat' with_reducible first | assumption | apply done_done | apply drbgOp_keeps | split

theorem execReseed_keeps {s₀ s : State} (h₀ : Keeps s₀ s) (i : BitVec 3) : Done s₀ (execReseed i s) := by
  unfold execReseed
  repeat' with_reducible first | assumption | apply done_done | apply drbgOp_keeps | split

theorem execAutoReseed_keeps {s₀ s : State} (h₀ : Keeps s₀ s) (i : BitVec 3) : Done s₀ (execAutoReseed i s) := by
  unfold execAutoReseed
  repeat' with_reducible first | assumption | apply done_done | apply State_setInst_keeps | split

theorem countGenerate_keeps {s₀ s : State} (h₀ : Keeps s₀ s) (i : Nat) : Keeps s₀ (countGenerate i s) := by
  unfold countGenerate
  repeat' with_reducible first | assumption | apply State_setInst_keeps

theorem generate_keeps {s₀ s : State} (h₀ : Keeps s₀ s) (i : Nat) : Keeps s₀ (generate i s).2 := by
  unfold generate
  repeat' with_reducible first | assumption | apply countGenerate_keeps | apply State_setInst_keeps

theorem wrapKeys_keeps {s₀ s : State} (h₀ : Keeps s₀ s) : Keeps s₀ (wrapKeys s) := by
  unfold wrapKeys
  repeat' with_reducible first | assumption | apply generate_keeps | simp only [keeps_mk] | split

theorem execDrbgOperationDone_keeps {s₀ s : State} (h₀ : Keeps s₀ s) (i : BitVec 3) : Done s₀ (execDrbgOperationDone i s) := by
  unfold execDrbgOperationDone
  repeat' with_reducible first
    | assumption | apply done_done | apply State_setInst_keeps | apply wrapKeys_keeps | dsimp only | split

theorem execCipherMaskRefresh_keeps {s₀ s : State} (h₀ : Keeps s₀ s) : Done s₀ (execCipherMaskRefresh s) := by
  unfold execCipherMaskRefresh
  repeat' with_reducible first | assumption | apply done_done | apply generate_keeps | simp only [keeps_mk] | split

theorem hold_keeps {s₀ s : State} (h₀ : Keeps s₀ s) (i : Nat) (k : Nat) : Keeps s₀ (hold i k s) := by
  unfold hold
  repeat' with_reducible first | assumption | apply generate_keeps | apply State_setInst_keeps

theorem execSwPortGenerate_keeps {s₀ s : State} (h₀ : Keeps s₀ s) (host : Bool) : Done s₀ (execSwPortGenerate host s) := by
  unfold execSwPortGenerate
  repeat' with_reducible first | assumption | apply done_done | apply hold_keeps | split

theorem takeOut_keeps {s₀ s : State} (h₀ : Keeps s₀ s) (i : Nat) : KeepsOpt s₀ (takeOut i s) := by
  unfold takeOut
  repeat' with_reducible first
    | assumption | apply State_setInst_keeps | exact keepsOpt_none _ | apply keepsOpt_some | dsimp only | split

theorem swRead_keeps {s₀ s : State} (h₀ : Keeps s₀ s) (host : Bool) (ag : Agent) : Keeps s₀ (swRead host ag s).2 := by
  unfold swRead
  repeat' with_reducible first
    | assumption | apply takeOut_keeps | apply logErr_keeps | apply keeps_opt (by assumption) | simp only [keeps_mk] | split

theorem swData_keeps {s₀ s : State} (h₀ : Keeps s₀ s) (host : Bool) (ag : Agent) : Keeps s₀ (swData host ag s) := by
  unfold swData
  repeat' with_reducible first
    | assumption | apply swRead_keeps | apply ans_keeps | apply errRsp_keeps | apply keeps_snd (by assumption) | split

theorem execSwSepiaData_keeps {s₀ s : State} (h₀ : Keeps s₀ s) (ag : Agent) : Done s₀ (execSwSepiaData ag s) := by
  unfold execSwSepiaData
  repeat' with_reducible first | assumption | apply done_done | apply swData_keeps

theorem execSwHostData_keeps {s₀ s : State} (h₀ : Keeps s₀ s) (ag : Agent) : Done s₀ (execSwHostData ag s) := by
  unfold execSwHostData
  repeat' with_reducible first | assumption | apply done_done | apply swData_keeps

theorem madClear_keeps {s₀ s : State} (h₀ : Keeps s₀ s) (off : Nat) : Keeps s₀ (madClear off s) := by
  unfold madClear
  repeat' with_reducible first | assumption | apply State_setSrc_keeps | simp only [keeps_mk] | split

theorem madWrite_keeps {s₀ s : State} (h₀ : Keeps s₀ s) (off : Nat) (v : W32) : Keeps s₀ (madWrite off v s) := by
  unfold madWrite
  repeat' with_reducible first
    | assumption | apply clearFatal_keeps | apply State_setInst_keeps | apply drbgOp_keeps | simp only [keeps_mk] | split

-- The operations of Machine/SepiaBus.lean

theorem putLine_keeps {s₀ s : State} (h₀ : Keeps s₀ s) (n : Nat) (d : BitVec 512) : Keeps s₀ (putLine n d s) := by
  unfold putLine
  repeat' with_reducible first | assumption | simp only [keeps_mk] | split

theorem putMerged_keeps {s₀ s : State} (h₀ : Keeps s₀ s) (n : Nat) (mask : W64) (d : BitVec 512) : Keeps s₀ (putMerged n mask d s)
    := by
  unfold putMerged
  repeat' with_reducible first | assumption | apply putLine_keeps | simp only [keeps_mk]

theorem setFilt_keeps {s₀ s : State} (h₀ : Keeps s₀ s) (n : Nat) (c : Nat) (v : Option Bool) : Keeps s₀ (setFilt n c v s) := by
  unfold setFilt
  repeat' with_reducible first | assumption | simp only [keeps_mk]

theorem busPost_keeps {s₀ s : State} (h₀ : Keeps s₀ s) (r : BusReq) : Keeps s₀ (busPost r s) := by
  unfold busPost
  repeat' with_reducible first | assumption | simp only [keeps_mk] | split

theorem busWithdraw_keeps {s₀ s : State} (h₀ : Keeps s₀ s) (c : Nat) (n : Nat) (p : BusOp → Bool) : Keeps s₀ (busWithdraw c n p s)
    := by
  unfold busWithdraw
  repeat' with_reducible first | assumption | simp only [keeps_mk]

theorem portsFail_keeps {s₀ s : State} (h₀ : Keeps s₀ s) (rs : List BusReq) : Keeps s₀ (portsFail rs s) := by
  unfold portsFail
  repeat' with_reducible first | assumption | apply respond_keeps | apply logErr_keeps | apply keeps_foldl | intro _

theorem domainDown_keeps {s₀ s : State} (h₀ : Keeps s₀ s) (cause : BitVec 2) (code : W16) (ag : Agent) (addr : BitVec 48)
    : Keeps s₀ (domainDown cause code ag addr s) := by
  unfold domainDown
  repeat' with_reducible first | assumption | apply portsFail_keeps | apply logErr_keeps | simp only [keeps_mk]

theorem crossWb_keeps {s₀ s : State} (h₀ : Keeps s₀ s) (n : Nat) (c : Nat) (keep : Option Bool) : Keeps s₀ (crossWb n c keep s)
    := by
  unfold crossWb
  repeat' with_reducible first
    | assumption | apply putLine_keeps | apply setFilt_keeps | apply State_setCore_keeps | apply domainDown_keeps
    | apply busWithdraw_keeps | dsimp only | split

theorem snoopAll_keeps {s₀ y3 : State} (h₀ : Keeps s₀ y3) (n : Nat) (keep : Bool → Option Bool) (y2 : List Nat) : Keeps s₀
    (snoopAll n keep y2 y3) := by
  induction y2 generalizing y3 with
  | nil => exact h₀
  | cons a l ih =>
    unfold snoopAll
    repeat' with_reducible first | assumption | apply ih | apply crossWb_keeps | split

theorem busErrRsp_keeps {s₀ s : State} (h₀ : Keeps s₀ s) (r : BusReq) : Keeps s₀ (busErrRsp r s) := by
  unfold busErrRsp
  repeat' with_reducible first | assumption | apply State_setCore_keeps | apply respond_keeps | dsimp only | split

theorem fillD_keeps {s₀ s : State} (h₀ : Keeps s₀ s) (c : Nat) (n : Nat) (m : Bool) (r : BusReq) : Keeps s₀ (fillD c n m r s) := by
  unfold fillD
  repeat' with_reducible first
    | assumption | apply busErrRsp_keeps | apply logErr_keeps | apply setFilt_keeps | apply State_setCore_keeps
    | dsimp only | split

theorem doBusRd_keeps {s₀ s : State} (h₀ : Keeps s₀ s) (r : BusReq) : Keeps s₀ (doBusRd r s) := by
  unfold doBusRd
  repeat' with_reducible first | assumption | apply snoopAll_keeps | apply fillD_keeps | dsimp only | split

theorem doBusRdX_keeps {s₀ s : State} (h₀ : Keeps s₀ s) (r : BusReq) : Keeps s₀ (doBusRdX r s) := by
  unfold doBusRdX
  repeat' with_reducible first | assumption | apply snoopAll_keeps | apply fillD_keeps | dsimp only | split

theorem doBusUpgr_keeps {s₀ s : State} (h₀ : Keeps s₀ s) (r : BusReq) : Keeps s₀ (doBusUpgr r s) := by
  unfold doBusUpgr
  repeat' with_reducible first
    | assumption | apply snoopAll_keeps | apply setFilt_keeps | apply State_setCore_keeps | apply doBusRdX_keeps
    | dsimp only | split

theorem doNrd_keeps {s₀ s : State} (h₀ : Keeps s₀ s) (r : BusReq) : Keeps s₀ (doNrd r s) := by
  unfold doNrd
  repeat' with_reducible first
    | assumption | apply snoopAll_keeps | apply busErrRsp_keeps | apply logErr_keeps | apply State_setCore_keeps
    | apply respond_keeps | apply ans_keeps | dsimp only | split

theorem doNwr_keeps {s₀ s : State} (h₀ : Keeps s₀ s) (r : BusReq) (mask : W64) (d : BitVec 512) : Keeps s₀ (doNwr r mask d s) := by
  unfold doNwr
  repeat' with_reducible first
    | assumption | apply snoopAll_keeps | apply respond_keeps | apply putMerged_keeps | apply busErrRsp_keeps | apply logErr_keeps
    | dsimp only | split

theorem doNamo_keeps {s₀ s : State} (h₀ : Keeps s₀ s) (r : BusReq) (op : BitVec 5) (w : Nat) (v : W32) : Keeps s₀
    (doNamo r op w v s) := by
  unfold doNamo
  repeat' with_reducible first
    | assumption | apply snoopAll_keeps | apply busErrRsp_keeps | apply logErr_keeps | apply respond_keeps | apply putLine_keeps
    | dsimp only | split

theorem busGrant_keeps {s₀ s : State} (h₀ : Keeps s₀ s) : Keeps s₀ (busGrant s) := by
  unfold busGrant
  repeat' with_reducible first | assumption | simp only [keeps_mk] | split

theorem execBusGrant_keeps {s₀ s : State} (h₀ : Keeps s₀ s) : Done s₀ (execBusGrant s) := by
  unfold execBusGrant
  repeat' with_reducible first | assumption | apply done_done | apply busGrant_keeps

theorem perform_keeps {s₀ s : State} (h₀ : Keeps s₀ s) (kind : BusOp → Bool) (dfr : Bool) (f : BusReq → State → State) (hf : ∀ (x0
    : BusReq) (x1 : State), Keeps s₀ x1 → Keeps s₀ (f x0 x1)) : Keeps s₀ (perform kind dfr f s) := by
  unfold perform
  repeat' with_reducible first | assumption | apply hf | simp only [keeps_mk] | split

theorem execBusrd_keeps {s₀ s : State} (h₀ : Keeps s₀ s) : Done s₀ (execBusrd s) := by
  unfold execBusrd
  repeat' with_reducible first | assumption | apply done_done | apply perform_keeps | apply doBusRd_keeps | intro _

theorem execBusrdx_keeps {s₀ s : State} (h₀ : Keeps s₀ s) : Done s₀ (execBusrdx s) := by
  unfold execBusrdx
  repeat' with_reducible first | assumption | apply done_done | apply perform_keeps | apply doBusRdX_keeps | intro _

theorem execBusupgr_keeps {s₀ s : State} (h₀ : Keeps s₀ s) : Done s₀ (execBusupgr s) := by
  unfold execBusupgr
  repeat' with_reducible first | assumption | apply done_done | apply perform_keeps | apply doBusUpgr_keeps | intro _

theorem execEvc_keeps {s₀ s : State} (h₀ : Keeps s₀ s) : Done s₀ (execEvc s) := by
  unfold execEvc
  repeat' with_reducible first
    | assumption | apply done_done | apply perform_keeps | apply setFilt_keeps | apply State_setCore_keeps | dsimp only
    | intro _

theorem execWb_keeps {s₀ s : State} (h₀ : Keeps s₀ s) : Done s₀ (execWb s) := by
  unfold execWb
  repeat' with_reducible first | assumption | apply done_done | apply perform_keeps | apply crossWb_keeps | intro _

theorem execNrd_keeps {s₀ s : State} (h₀ : Keeps s₀ s) : Done s₀ (execNrd s) := by
  unfold execNrd
  repeat' with_reducible first | assumption | apply done_done | apply perform_keeps | apply doNrd_keeps | intro _

theorem execNwr_keeps {s₀ s : State} (h₀ : Keeps s₀ s) : Done s₀ (execNwr s) := by
  unfold execNwr
  repeat' with_reducible first | assumption | apply done_done | apply perform_keeps | apply doNwr_keeps | intro _ | split

theorem execNamo_keeps {s₀ s : State} (h₀ : Keeps s₀ s) : Done s₀ (execNamo s) := by
  unfold execNamo
  repeat' with_reducible first | assumption | apply done_done | apply perform_keeps | apply doNamo_keeps | intro _ | split

theorem nrdNow_keeps {s₀ s : State} (h₀ : Keeps s₀ s) (ag : Agent) (n : Nat) : Keeps s₀ (nrdNow ag n s).2 := by
  unfold nrdNow
  repeat' with_reducible first | assumption | apply logErr_keeps | apply snoopAll_keeps | dsimp only | split

theorem nwrNow_keeps {s₀ s : State} (h₀ : Keeps s₀ s) (ag : Agent) (n : Nat) (mask : W64) (d : BitVec 512) : Keeps s₀
    (nwrNow ag n mask d s).2 := by
  unfold nwrNow
  repeat' with_reducible first
    | assumption | apply logErr_keeps | apply snoopAll_keeps | apply putMerged_keeps | dsimp only | split

theorem execReservationDeferExpiry_keeps {s₀ s : State} (h₀ : Keeps s₀ s) (c : BitVec 3) : Done s₀
    (execReservationDeferExpiry c s) := by
  unfold execReservationDeferExpiry
  repeat' with_reducible first | assumption | apply done_done | apply State_setCore_keeps

theorem execSnoopTimeout_keeps {s₀ s : State} (h₀ : Keeps s₀ s) (c : BitVec 3) : Done s₀ (execSnoopTimeout c s) := by
  unfold execSnoopTimeout
  repeat' with_reducible first | assumption | apply done_done | apply domainDown_keeps | split

-- The operations of Machine/SepiaCore.lean

theorem trapTo_keeps {s₀ s : State} (h₀ : Keeps s₀ s) (c : Nat) (cause : W32) (tval : W32) : Keeps s₀ (trapTo c cause tval s) := by
  unfold trapTo
  repeat' with_reducible first | assumption | apply State_setCore_keeps

theorem haltCore_keeps {s₀ s : State} (h₀ : Keeps s₀ s) (c : Nat) (cause : BitVec 3) : Keeps s₀ (haltCore c cause s) := by
  unfold haltCore
  repeat' with_reducible first
    | assumption | apply State_setCore_keeps | apply State_setDcore_keeps | apply xtFire_keeps | dsimp only | split

theorem enterMon_keeps {s₀ s : State} (h₀ : Keeps s₀ s) (c : Nat) (cause : BitVec 3) (tval : W32) : Keeps s₀
    (enterMon c cause tval s) := by
  unfold enterMon
  repeat' with_reducible first | assumption | apply State_setDcore_keeps | apply State_setCore_keeps | simp only [keeps_mk]

theorem debugEvent_keeps {s₀ s : State} (h₀ : Keeps s₀ s) (c : Nat) (cause : BitVec 3) (tval : W32) : Keeps s₀
    (debugEvent c cause tval s) := by
  unfold debugEvent
  repeat' with_reducible first
    | assumption | apply State_setCore_keeps | apply haltCore_keeps | apply enterMon_keeps | dsimp only | split

theorem debugWaiting_keeps {s₀ s : State} (h₀ : Keeps s₀ s) (c : Nat) : Keeps s₀ (debugWaiting c s) := by
  unfold debugWaiting
  repeat' with_reducible first | assumption | apply debugEvent_keeps | apply State_setCore_keeps | dsimp only | split

theorem coreLeavesReset_keeps {s₀ s : State} (h₀ : Keeps s₀ s) (c : Nat) : Keeps s₀ (coreLeavesReset c s) := by
  unfold coreLeavesReset
  repeat' with_reducible first
    | assumption | apply State_setCore_keeps | apply haltCore_keeps | apply State_setDcore_keeps | dsimp only | split

theorem cmprAct_keeps {s₀ s : State} (h₀ : Keeps s₀ s) (c : Nat) (kind : Nat) (a : W32) (v : W32) : Keeps s₀
    (cmprAct c kind a v s).1 := by
  unfold cmprAct
  repeat' with_reducible first | assumption | apply State_setDcore_keeps | apply xtFire_keeps | dsimp only | split

theorem fetch16_keeps {s₀ s : State} (h₀ : Keeps s₀ s) (c : Nat) (a : W32) : Keeps s₀ (fetch16 c a s).state := by
  unfold fetch16
  repeat' with_reducible first
    | assumption | apply State_setCore_keeps | apply busPost_keeps | apply logErr_keeps
    | simp only [FetchRes.state_got, FetchRes.state_fault, FetchRes.state_miss] | split

theorem makeRoom_keeps {s₀ s : State} (h₀ : Keeps s₀ s) (c : Nat) (n : Nat) : Keeps s₀ (makeRoom c n s).2 := by
  unfold makeRoom
  repeat' with_reducible first | assumption | apply busPost_keeps | apply State_setCore_keeps | dsimp only | split

theorem requestLine_keeps {s₀ s : State} (h₀ : Keeps s₀ s) (c : Nat) (n : Nat) (excl : Bool) : Keeps s₀ (requestLine c n excl s)
    := by
  unfold requestLine
  repeat' with_reducible first | assumption | apply busPost_keeps | apply makeRoom_keeps | dsimp only | split

theorem cacheWord_keeps {s₀ s : State} (h₀ : Keeps s₀ s) (c : Nat) (n : Nat) (o : Nat) (d : DLine) : Keeps s₀
    (cacheWord c n o d s).state := by
  unfold cacheWord
  repeat' with_reducible first
    | assumption | apply logErr_keeps | apply busPost_keeps | apply State_setCore_keeps
    | simp only [CacheRd.state_go, CacheRd.state_gone] | split

theorem okReg_keeps {s₀ s : State} (h₀ : Keeps s₀ s) (c : Nat) (rd : Nat) (v : W32) (pc : W32) : Keeps s₀
    (okReg c rd v pc s).state := by
  unfold okReg
  repeat' with_reducible first
    | assumption | apply State_setCore_keeps | simp only [Exec.state_ok]

theorem afterAccess_keeps {s₀ s : State} (h₀ : Keeps s₀ s) (c : Nat) (kind : Nat) (a : W32) (v : W32) : Keeps s₀
    (afterAccess c kind a v s) := by
  unfold afterAccess
  repeat' with_reducible first | assumption | apply cmprAct_keeps | apply State_setDcore_keeps | dsimp only | split

theorem loadStore_keeps {s₀ s : State} (h₀ : Keeps s₀ s) (c : Nat) (store : Bool) (f3 : Nat) (n : Nat) (a : W32) (v : W32) (rd
    : Nat) (npc : W32) : Keeps s₀ (loadStore c store f3 n a v rd npc s).state := by
  unfold loadStore
  repeat' with_reducible first
    | assumption | apply logErr_keeps | apply State_setCore_keeps | apply requestLine_keeps | apply cacheWord_keeps
    | apply afterAccess_keeps | apply keeps_of_cache_go (by assumption) | apply keeps_of_cache_gone (by assumption)
    | simp only [Exec.state_ok, Exec.state_trap, Exec.state_wait] | apply keeps_ite_exec | split

theorem atomic_keeps {s₀ s : State} (h₀ : Keeps s₀ s) (c : Nat) (f5 : BitVec 5) (a : W32) (v : W32) (rd : Nat) (npc : W32)
    : Keeps s₀ (atomic c f5 a v rd npc s).state := by
  unfold atomic
  repeat' with_reducible first
    | assumption | apply logErr_keeps | apply State_setCore_keeps | apply cacheWord_keeps | apply afterAccess_keeps
    | apply requestLine_keeps | apply keeps_of_cache_go (by assumption) | apply keeps_of_cache_gone (by assumption)
    | simp only [Exec.state_ok, Exec.state_trap, Exec.state_wait] | apply keeps_ite_exec | split

theorem mret_keeps {s₀ s : State} (h₀ : Keeps s₀ s) (c : Nat) : Keeps s₀ (mret c s).state := by
  unfold mret
  repeat' with_reducible first
    | assumption | apply State_setCore_keeps | apply State_setDcore_keeps
    | simp only [Exec.state_ok] | simp only [keeps_mk] | split

theorem system_keeps {s₀ s : State} (h₀ : Keeps s₀ s) (c : Nat) (w : W32) (npc : W32) : Keeps s₀ (system c w npc s).state := by
  unfold system
  repeat' with_reducible first
    | assumption | apply mret_keeps | apply State_setCore_keeps | simp only [Exec.state_ok, Exec.state_trap]
    | apply keeps_ite_exec | split

theorem execRv_keeps {s₀ s : State} (h₀ : Keeps s₀ s) (c : Nat) (w : W32) (len : W32) : Keeps s₀ (execRv c w len s).state := by
  unfold execRv
  repeat' with_reducible first
    | assumption | apply okReg_keeps | apply loadStore_keeps | apply State_setCore_keeps | apply atomic_keeps | apply system_keeps
    | simp only [Exec.state_ok, Exec.state_trap] | apply keeps_ite_exec | split

theorem afterInstr_keeps {s₀ s : State} (h₀ : Keeps s₀ s) (c : Nat) (tval : W32) : Keeps s₀ (afterInstr c tval s) := by
  unfold afterInstr
  repeat' with_reducible first
    | assumption | apply debugEvent_keeps | apply State_setDcore_keeps | apply haltCore_keeps | dsimp only | split

theorem runWord_keeps {s₀ s : State} (h₀ : Keeps s₀ s) (c : Nat) (w : W32) (len : W32) : Keeps s₀ (runWord c w len s) := by
  unfold runWord
  repeat' with_reducible first
    | assumption | apply cmprAct_keeps | apply debugEvent_keeps | apply execRv_keeps | apply afterInstr_keeps
    | apply State_setCore_keeps | apply trapTo_keeps | apply keeps_of_exec_ok (by assumption)
    | apply keeps_of_exec_trap (by assumption) | apply keeps_of_exec_wait (by assumption) | dsimp only | split

theorem coreInstr_keeps {s₀ s : State} (h₀ : Keeps s₀ s) (c : Nat) : Keeps s₀ (coreInstr c s) := by
  unfold coreInstr
  repeat' with_reducible first
    | assumption | apply State_setCore_keeps | apply trapTo_keeps | apply fetch16_keeps | apply afterInstr_keeps
    | apply runWord_keeps | apply keeps_of_fetch_got (by assumption) | apply keeps_of_fetch_fault (by assumption)
    | apply keeps_of_fetch_miss (by assumption) | dsimp only | split

theorem execCoreInstruction_keeps {s₀ s : State} (h₀ : Keeps s₀ s) (c : BitVec 3) : Done s₀ (execCoreInstruction c s) := by
  unfold execCoreInstruction
  repeat' with_reducible first | assumption | apply done_done | apply coreInstr_keeps

theorem execExternalInterruptEntry_keeps {s₀ s : State} (h₀ : Keeps s₀ s) (c : BitVec 3) : Done s₀
    (execExternalInterruptEntry c s) := by
  unfold execExternalInterruptEntry
  repeat' with_reducible first | assumption | apply done_done | apply trapTo_keeps | split

theorem execMtimecmpMatch_keeps {s₀ s : State} (h₀ : Keeps s₀ s) (c : BitVec 3) : Done s₀ (execMtimecmpMatch c s) := by
  unfold execMtimecmpMatch
  repeat' with_reducible first | assumption | apply done_done | apply State_setCore_keeps | dsimp only | split

theorem execUncachedAccessResponse_keeps {s₀ s : State} (h₀ : Keeps s₀ s) (c : BitVec 3) : Done s₀
    (execUncachedAccessResponse c s) := by
  unfold execUncachedAccessResponse
  repeat' with_reducible first
    | assumption | apply done_done | apply State_setCore_keeps | apply debugWaiting_keeps | apply afterInstr_keeps
    | apply trapTo_keeps | apply afterAccess_keeps | dsimp only | split

-- The operations of Machine/SepiaIrq.lean

theorem srcPend_keeps {s₀ s : State} (h₀ : Keeps s₀ s) (n : Nat) : Keeps s₀ (srcPend n s) := by
  unfold srcPend
  repeat' with_reducible first | assumption | simp only [keeps_mk]

theorem execIrqSourceActive_keeps {s₀ s : State} (h₀ : Keeps s₀ s) (src : BitVec 7) : Done s₀ (execIrqSourceActive src s) := by
  unfold execIrqSourceActive
  repeat' with_reducible first | assumption | apply done_done | apply srcPend_keeps | split

theorem sepClaim_keeps {s₀ s : State} (h₀ : Keeps s₀ s) (c : Nat) : Keeps s₀ (sepClaim c s).2 := by
  unfold sepClaim
  repeat' with_reducible first | assumption | simp only [keeps_mk] | split

theorem execSepClaim_keeps {s₀ s : State} (h₀ : Keeps s₀ s) (ag : Agent) (c : BitVec 3) : Done s₀ (execSepClaim ag c s) := by
  unfold execSepClaim
  repeat' with_reducible first | assumption | apply sepClaim_keeps | apply done_done | apply ans_keeps

theorem sepComplete_keeps {s₀ s : State} (h₀ : Keeps s₀ s) (v : W32) : Keeps s₀ (sepComplete v s) := by
  unfold sepComplete
  repeat' with_reducible first | assumption | simp only [keeps_mk]

theorem execSepComplete_keeps {s₀ s : State} (h₀ : Keeps s₀ s) (y0 : BitVec 3) (v : W32) : Done s₀ (execSepComplete y0 v s) := by
  unfold execSepComplete
  repeat' with_reducible first | assumption | apply done_done | apply sepComplete_keeps

theorem sepDomrst_keeps {s₀ s : State} (h₀ : Keeps s₀ s) : Keeps s₀ (sepDomrst s) := by
  unfold sepDomrst
  repeat' with_reducible first | assumption | apply checked_keeps | apply portsFail_keeps | simp only [keeps_mk] | intro _

theorem execSepDomrst_keeps {s₀ s : State} (h₀ : Keeps s₀ s) : Done s₀ (execSepDomrst s) := by
  unfold execSepDomrst
  repeat' with_reducible first | assumption | apply done_done | apply sepDomrst_keeps

theorem sepResetEnd_keeps {s₀ s : State} (h₀ : Keeps s₀ s) : Keeps s₀ (sepResetEnd s) := by
  unfold sepResetEnd
  repeat' with_reducible first | assumption | apply coreLeavesReset_keeps | simp only [keeps_mk]

theorem execSepDomrstDone_keeps {s₀ s : State} (h₀ : Keeps s₀ s) : Done s₀ (execSepDomrstDone s) := by
  unfold execSepDomrstDone
  repeat' with_reducible first | assumption | apply done_done | apply sepResetEnd_keeps | split

theorem sepRun_keeps {s₀ s : State} (h₀ : Keeps s₀ s) (v : Byte) : Keeps s₀ (sepRun v s) := by
  unfold sepRun
  repeat' with_reducible first
    | assumption | apply setReason_keeps | apply draw_keeps | apply coreLeavesReset_keeps | apply keeps_foldl
    | simp only [keeps_mk] | intro _ | split

theorem execSepRun_keeps {s₀ s : State} (h₀ : Keeps s₀ s) (v : Byte) : Done s₀ (execSepRun v s) := by
  unfold execSepRun
  repeat' with_reducible first | assumption | apply done_done | apply sepRun_keeps

theorem sramPage_keeps {s₀ y2 : State} (h₀ : Keeps s₀ y2) (p : Nat) (y1 : Nat) : Keeps s₀ (sramPage p y1 y2).2 := by
  induction y1 generalizing y2 with
  | zero => exact h₀
  | succ n ih =>
    unfold sramPage
    repeat' with_reducible first | assumption | apply ih | apply nrdNow_keeps | apply keeps_snd (by assumption) | split

theorem bflFail_keeps {s₀ s : State} (h₀ : Keeps s₀ s) : Keeps s₀ (bflFail s) := by
  unfold bflFail
  repeat' with_reducible first | assumption | simp only [keeps_mk]

theorem bflProgram_keeps {s₀ s : State} (h₀ : Keeps s₀ s) : Keeps s₀ (bflProgram s) := by
  unfold bflProgram
  repeat' with_reducible first
    | assumption | apply checked_keeps | apply bflFail_keeps | apply sramPage_keeps | apply keeps_snd (by assumption)
    | simp only [keeps_mk] | intro _ | split

theorem execBflProgram_keeps {s₀ s : State} (h₀ : Keeps s₀ s) : Done s₀ (execBflProgram s) := by
  unfold execBflProgram
  repeat' with_reducible first | assumption | apply done_done | apply bflProgram_keeps

theorem bflErase_keeps {s₀ s : State} (h₀ : Keeps s₀ s) : Keeps s₀ (bflErase s) := by
  unfold bflErase
  repeat' with_reducible first | assumption | apply checked_keeps | simp only [keeps_mk] | intro _

theorem execBflErase_keeps {s₀ s : State} (h₀ : Keeps s₀ s) : Done s₀ (execBflErase s) := by
  unfold execBflErase
  repeat' with_reducible first | assumption | apply done_done | apply bflErase_keeps

theorem sepClear_keeps {s₀ s : State} (h₀ : Keeps s₀ s) (off : Nat) : Keeps s₀ (sepClear off s) := by
  unfold sepClear
  repeat' with_reducible first | assumption | apply sepClaim_keeps | split

theorem sepWrite_keeps {s₀ s : State} (h₀ : Keeps s₀ s) (off : Nat) (v : W32) (pair : W64) : Keeps s₀ (sepWrite off v pair s) := by
  unfold sepWrite
  repeat' with_reducible first
    | assumption | apply sepRun_keeps | apply sepDomrst_keeps | apply bflProgram_keeps | apply bflErase_keeps
    | apply State_setCore_keeps | apply sepComplete_keeps | apply keeps_ite | simp only [keeps_mk]

-- The operations of Machine/Power.lean

theorem captureOne_keeps {s₀ s : State} (h₀ : Keeps s₀ s) (p : Nat) : Keeps s₀ (captureOne s p) := by
  unfold captureOne
  repeat' with_reducible first | assumption | apply draw_keeps | simp only [keeps_mk] | split

theorem capture_keeps {s₀ s : State} (h₀ : Keeps s₀ s) (ps : List Nat) : Keeps s₀ (capture ps s) := by
  unfold capture
  repeat' with_reducible first | assumption | apply captureOne_keeps | apply keeps_foldl | intro _

theorem serviceReset_keeps {s₀ s : State} (h₀ : Keeps s₀ s) (patch : Bool) : Keeps s₀ (serviceReset patch s) :=
  ⟨h₀.queue, h₀.mem, fun _ => rfl⟩

theorem velCoreReset_keeps {s₀ s : State} (h₀ : Keeps s₀ s) : Keeps s₀ (velCoreReset s) := by
  unfold velCoreReset
  split
  next hc =>
    have h₁ := keeps_snd hc (flashReset_keeps h₀ _)
    split
    next hu =>
      have h₂ := keeps_snd hu (flashReset_keeps h₁ _)
      simp only [keeps_mk]
      exact h₂

theorem sepReset_keeps {s₀ s : State} (h₀ : Keeps s₀ s) : Keeps s₀ (sepReset s) := by
  unfold sepReset
  repeat' with_reducible first | assumption | apply flashReset_keeps | simp only [keeps_mk]

theorem chipReset_keeps {s₀ s : State} (h₀ : Keeps s₀ s) (kind : BitVec 3) : Keeps s₀ (chipReset kind s) := by
  have h := sepReset_keeps (velCoreReset_keeps (serviceReset_keeps (capture_keeps h₀ (List.range 192)) (kind ≠ 1)))
  unfold chipReset
  dsimp only
  generalize sepReset (velCoreReset (serviceReset (kind ≠ 1) (capture (List.range 192) s))) = u at h ⊢
  refine keeps_mk_mem h fun hm => ?_
  split
  · rfl
  · exact hm

theorem powerOnReset_keeps {s₀ s : State} (h₀ : Keeps s₀ s) : Keeps s₀ (powerOnReset s) := by
  unfold powerOnReset
  split
  next hc =>
    have h₁ := keeps_snd hc (flashPower_keeps h₀ _)
    split
    next hu =>
      have h₂ := keeps_snd hu (flashPower_keeps h₁ _)
      split
      next hb =>
        have h₃ := keeps_snd hb (flashPower_keeps h₂ _)
        exact ⟨h₃.queue, fun _ => rfl, fun _ => rfl⟩

theorem execPowerOnReset_keeps {s₀ s : State} (h₀ : Keeps s₀ s) : Done s₀ (execPowerOnReset s) := by
  unfold execPowerOnReset
  repeat' with_reducible first | assumption | apply done_done | apply powerOnReset_keeps

theorem execExternalReset_keeps {s₀ s : State} (h₀ : Keeps s₀ s) : Done s₀ (execExternalReset s) := by
  unfold execExternalReset
  repeat' with_reducible first | assumption | apply done_done | apply chipReset_keeps | split

theorem execExternalResetRelease_keeps {s₀ s : State} (h₀ : Keeps s₀ s) : Done s₀ (execExternalResetRelease s) := by
  unfold execExternalResetRelease
  repeat' with_reducible first | assumption | apply done_done | simp only [keeps_mk] | split

theorem execLongHold_keeps {s₀ s : State} (h₀ : Keeps s₀ s) : Done s₀ (execLongHold s) := by
  unfold execLongHold
  repeat' with_reducible first | assumption | apply done_done | simp only [keeps_mk] | split

theorem execHostReset_keeps {s₀ s : State} (h₀ : Keeps s₀ s) (hot : Bool) : Done s₀ (execHostReset hot s) := by
  unfold execHostReset
  repeat' with_reducible first | assumption | apply done_done | apply chipReset_keeps

theorem execWarm_keeps {s₀ s : State} (h₀ : Keeps s₀ s) : Done s₀ (execWarm s) := by
  unfold execWarm
  repeat' with_reducible first | assumption | apply done_done | apply chipReset_keeps | split

theorem velFabric_keeps {s₀ s : State} (h₀ : Keeps s₀ s) : Keeps s₀ (velFabric s) := by
  unfold velFabric
  repeat' with_reducible first | assumption | apply checked_keeps | apply velCoreReset_keeps

theorem execVelFabric_keeps {s₀ s : State} (h₀ : Keeps s₀ s) : Done s₀ (execVelFabric s) := by
  unfold execVelFabric
  repeat' with_reducible first | assumption | apply done_done | apply velFabric_keeps

theorem releasePoint_keeps {s₀ s : State} (h₀ : Keeps s₀ s) : Keeps s₀ (releasePoint s) := by
  unfold releasePoint
  repeat' with_reducible first | assumption | apply coreLeavesReset_keeps | apply madStart_keeps | simp only [keeps_mk] | split

theorem execReleasePoint_keeps {s₀ s : State} (h₀ : Keeps s₀ s) : Done s₀ (execReleasePoint s) := by
  unfold execReleasePoint
  repeat' with_reducible first | assumption | apply done_done | apply releasePoint_keeps

theorem gateRequest_keeps {s₀ s : State} (h₀ : Keeps s₀ s) (d : Nat) : Keeps s₀ (gateRequest d s) := by
  unfold gateRequest
  repeat' with_reducible first | assumption | apply setReason_keeps | apply State_setDom_keeps | dsimp only | split

theorem execDomainGateRequest_keeps {s₀ s : State} (h₀ : Keeps s₀ s) (d : BitVec 6) : Done s₀ (execDomainGateRequest d s) := by
  unfold execDomainGateRequest
  repeat' with_reducible first | assumption | apply done_done | apply gateRequest_keeps | split

theorem runRequest_keeps {s₀ s : State} (h₀ : Keeps s₀ s) (d : Nat) : Keeps s₀ (runRequest d s) := by
  unfold runRequest
  repeat' with_reducible first | assumption | apply State_setDom_keeps

theorem execDomainRunRequest_keeps {s₀ s : State} (h₀ : Keeps s₀ s) (d : BitVec 6) : Done s₀ (execDomainRunRequest d s) := by
  unfold execDomainRunRequest
  repeat' with_reducible first | assumption | apply done_done | apply runRequest_keeps | split

theorem wakeNext_keeps {s₀ s : State} (h₀ : Keeps s₀ s) : Keeps s₀ (wakeNext s) := by
  unfold wakeNext
  repeat' with_reducible first | assumption | apply State_setDom_keeps | apply keeps_foldl | dsimp only | intro _ | split

theorem wakeChip_keeps {s₀ s : State} (h₀ : Keeps s₀ s) (ev : BitVec 5) (wall : W64) : Keeps s₀ (wakeChip ev wall s) := by
  unfold wakeChip
  repeat' with_reducible first | assumption | apply wakeNext_keeps | simp only [keeps_mk]

theorem wallOn_keeps {s₀ s : State} (h₀ : Keeps s₀ s) : Keeps s₀ (wallOn s) := by
  unfold wallOn
  repeat' with_reducible first | assumption | apply draw_keeps | simp only [keeps_mk]

theorem gateNext_keeps {s₀ s : State} (h₀ : Keeps s₀ s) : Keeps s₀ (gateNext s) := by
  unfold gateNext
  repeat' with_reducible first
    | assumption | apply State_setDom_keeps | apply wallOn_keeps | apply wakeChip_keeps | apply keeps_foldl | simp only [keeps_mk]
    | intro _ | split

theorem execDomainDrained_keeps {s₀ s : State} (h₀ : Keeps s₀ s) (d : BitVec 6) : Done s₀ (execDomainDrained d s) := by
  unfold execDomainDrained
  repeat' with_reducible first
    | assumption | apply done_done | apply capture_keeps | apply State_setDom_keeps | apply gateNext_keeps | simp only [keeps_mk]
    | split

theorem hostWakes_keeps {s₀ s : State} (h₀ : Keeps s₀ s) : Keeps s₀ (hostWakes s) := by
  unfold hostWakes
  repeat' with_reducible first
    | assumption | apply serviceReset_keeps | apply present_keeps | apply madStart_keeps | simp only [keeps_mk]

theorem domReaches_keeps {s₀ s : State} (h₀ : Keeps s₀ s) (d : Nat) : Keeps s₀ (domReaches d s) := by
  unfold domReaches
  refine keeps_ite ?_ (keeps_ite ?_ (keeps_ite ?_ (keeps_ite ?_ (keeps_ite ?_ (keeps_ite ?_ h₀)))))
  · exact keeps_foldl h₀ _ _ fun t q h => State_setPq_keeps h q _
  · exact sepResetEnd_keeps h₀
  · exact velCoreReset_keeps h₀
  · exact keeps_mk_mem h₀ fun _ => rfl
  · exact State_setLink_keeps h₀ _ _
  · exact hostWakes_keeps h₀

theorem execDomainWakeDone_keeps {s₀ s : State} (h₀ : Keeps s₀ s) (d : BitVec 6) : Done s₀ (execDomainWakeDone d s) := by
  unfold execDomainWakeDone
  repeat' with_reducible first
    | assumption | apply done_done | apply domReaches_keeps | apply State_setDom_keeps | apply wakeNext_keeps
    | simp only [keeps_mk] | split

theorem stateRequest_keeps {s₀ s : State} (h₀ : Keeps s₀ s) (v : BitVec 2) : Keeps s₀ (stateRequest v s) := by
  unfold stateRequest
  repeat' with_reducible first | assumption | apply checked_keeps | apply gateNext_keeps | simp only [keeps_mk] | intro _

theorem execPlantOnlyRequest_keeps {s₀ s : State} (h₀ : Keeps s₀ s) : Done s₀ (execPlantOnlyRequest s) := by
  unfold execPlantOnlyRequest
  repeat' with_reducible first | assumption | apply done_done | apply stateRequest_keeps | split

theorem execKeepaliveRequest_keeps {s₀ s : State} (h₀ : Keeps s₀ s) : Done s₀ (execKeepaliveRequest s) := by
  unfold execKeepaliveRequest
  repeat' with_reducible first | assumption | apply done_done | apply stateRequest_keeps | split

theorem execWakeEvent_keeps {s₀ s : State} (h₀ : Keeps s₀ s) (e : BitVec 5) (wall : W64) : Done s₀ (execWakeEvent e wall s) := by
  unfold execWakeEvent
  repeat' with_reducible first | assumption | apply done_done | apply wakeChip_keeps | simp only [keeps_mk] | split

theorem supplyOne_keeps {s₀ s : State} (h₀ : Keeps s₀ s) (d : BitVec 6) : Keeps s₀ (supplyOne s d) := by
  unfold supplyOne
  repeat' with_reducible first | assumption | apply flashPower_keeps | apply domReaches_keeps | simp only [keeps_mk] | split

theorem execSupplyFault_keeps {s₀ s : State} (h₀ : Keeps s₀ s) (doms : List (BitVec 6)) : Done s₀ (execSupplyFault doms s) := by
  unfold execSupplyFault
  repeat' with_reducible first
    | assumption | apply done_done | apply powerOnReset_keeps | apply supplyOne_keeps | apply keeps_foldl | intro _ | split

theorem surrTake_keeps {s₀ s : State} (h₀ : Keeps s₀ s) : Keeps s₀ (surrTake s) := by
  unfold surrTake
  repeat' with_reducible first | assumption | apply present_keeps | apply copyForce_keeps | simp only [keeps_mk]

theorem surrSet_keeps {s₀ s : State} (h₀ : Keeps s₀ s) : Keeps s₀ (surrSet s) := by
  unfold surrSet
  repeat' with_reducible first | assumption | apply checked_keeps | apply surrTake_keeps | simp only [keeps_mk] | intro _ | split

theorem execSurrEnableSet_keeps {s₀ s : State} (h₀ : Keeps s₀ s) : Done s₀ (execSurrEnableSet s) := by
  unfold execSurrEnableSet
  repeat' with_reducible first | assumption | apply done_done | apply surrSet_keeps

theorem surrClear_keeps {s₀ s : State} (h₀ : Keeps s₀ s) : Keeps s₀ (surrClear s) := by
  unfold surrClear
  repeat' with_reducible first | assumption | apply checked_keeps | simp only [keeps_mk] | intro _ | split

theorem execSurrEnableClear_keeps {s₀ s : State} (h₀ : Keeps s₀ s) : Done s₀ (execSurrEnableClear s) := by
  unfold execSurrEnableClear
  repeat' with_reducible first | assumption | apply done_done | apply surrClear_keeps

theorem surrApply_keeps {s₀ s : State} (h₀ : Keeps s₀ s) : Keeps s₀ (surrApply s) := by
  unfold surrApply
  repeat' with_reducible first
    | assumption | apply logErr_keeps | apply setReason_keeps | apply surrTake_keeps | dsimp only | split

theorem execApply_keeps {s₀ s : State} (h₀ : Keeps s₀ s) : Done s₀ (execApply s) := by
  unfold execApply
  repeat' with_reducible first | assumption | apply done_done | apply surrApply_keeps

theorem glbOwnWrite_keeps {s₀ s : State} (h₀ : Keeps s₀ s) (v : W32) : Keeps s₀ (glbOwnWrite v s) := by
  unfold glbOwnWrite
  repeat' with_reducible first | assumption | apply checked_keeps | simp only [keeps_mk] | intro _

theorem execGlbOwnWrite_keeps {s₀ s : State} (h₀ : Keeps s₀ s) (v : W32) : Done s₀ (execGlbOwnWrite v s) := by
  unfold execGlbOwnWrite
  repeat' with_reducible first | assumption | apply done_done | apply glbOwnWrite_keeps

theorem thermalShutdown_keeps {s₀ s : State} (h₀ : Keeps s₀ s) : Keeps s₀ (thermalShutdown s) := by
  unfold thermalShutdown
  repeat' with_reducible first
    | assumption | apply wallOn_keeps | apply capture_keeps | apply State_setDom_keeps | apply logErr_keeps | apply keeps_foldl
    | simp only [keeps_mk] | intro _

theorem powerSample_keeps {s₀ s : State} (h₀ : Keeps s₀ s) (p : W16) : Keeps s₀ (powerSample p s) := by
  unfold powerSample
  repeat' with_reducible first | assumption | apply logErr_keeps | simp only [keeps_mk] | split

theorem tempSample_keeps {s₀ s : State} (h₀ : Keeps s₀ s) (ts : List Byte) : Keeps s₀ (tempSample ts s) := by
  unfold tempSample
  repeat' with_reducible first | assumption | apply logErr_keeps | simp only [keeps_mk] | split

theorem execTelemetrySample_keeps {s₀ s : State} (h₀ : Keeps s₀ s) (power : W16) (temps : List Byte) : Done s₀
    (execTelemetrySample power temps s) := by
  unfold execTelemetrySample
  repeat' with_reducible first
    | assumption | apply done_done | apply tempSample_keeps | apply powerSample_keeps | apply thermalShutdown_keeps
    | simp only [keeps_mk] | split

theorem execBackgroundStarvation_keeps {s₀ s : State} (h₀ : Keeps s₀ s) (q : Byte) : Done s₀ (execBackgroundStarvation q s) := by
  unfold execBackgroundStarvation
  repeat' with_reducible first | assumption | apply done_done | apply State_setPq_keeps | split

theorem execVccioFault_keeps {s₀ s : State} (h₀ : Keeps s₀ s) (b : BitVec 2) : Done s₀ (execVccioFault b s) := by
  unfold execVccioFault
  repeat' with_reducible first | assumption | apply done_done | apply logErr_keeps | simp only [keeps_mk]

theorem execVccioRestored_keeps {s₀ s : State} (h₀ : Keeps s₀ s) (b : BitVec 2) : Done s₀ (execVccioRestored b s) := by
  unfold execVccioRestored
  repeat' with_reducible first | assumption | apply done_done | simp only [keeps_mk]

theorem execHbmTrainingDone_keeps {s₀ s : State} (h₀ : Keeps s₀ s) : Done s₀ (execHbmTrainingDone s) := by
  unfold execHbmTrainingDone
  repeat' with_reducible first | assumption | apply done_done | dsimp only | simp only [keeps_mk_hbm] | split

theorem execXtal32Start_keeps {s₀ s : State} (h₀ : Keeps s₀ s) : Done s₀ (execXtal32Start s) := by
  unfold execXtal32Start
  repeat' with_reducible first | assumption | apply done_done | simp only [keeps_mk]

theorem glbWrite_keeps {s₀ s : State} (h₀ : Keeps s₀ s) (off : Nat) (v : W32) : Keeps s₀ (glbWrite off v s) := by
  unfold glbWrite
  repeat' with_reducible first
    | assumption | apply surrSet_keeps | apply surrClear_keeps | apply surrApply_keeps | apply glbOwnWrite_keeps
    | apply velFabric_keeps | apply chipReset_keeps | simp only [keeps_mk] | split

theorem pwrWrite_keeps {s₀ s : State} (h₀ : Keeps s₀ s) (off : Nat) (v : W32) (pair : W64) : Keeps s₀ (pwrWrite off v pair s) := by
  unfold pwrWrite
  repeat' with_reducible first
    | assumption | apply stateRequest_keeps | apply gateRequest_keeps | apply runRequest_keeps | simp only [keeps_mk] | split

-- The operations of Machine/Hbm.lean

theorem eccCount_keeps {s₀ s : State} (h₀ : Keeps s₀ s) (es : List (Nat × Ecc)) : Keeps s₀ (eccCount es s) := by
  unfold eccCount
  repeat' with_reducible first | assumption | apply keeps_foldl | simp only [keeps_mk] | intro _ | split

theorem useStacks_keeps {s₀ s : State} (h₀ : Keeps s₀ s) (ls : List Nat) : Keeps s₀ (useStacks ls s) := by
  unfold useStacks
  repeat' with_reducible first | assumption | simp only [keeps_mk]

theorem memFail_keeps {α : Type} {s₀ s : State} (h₀ : Keeps s₀ s) (code : W16) (ag : Agent) (a : Nat) :
    Keeps s₀ (memFail (α := α) code ag a s).2 := by
  unfold memFail; dsimp only; exact logErr_keeps h₀ _ _ _ _

theorem hbmRead_keeps {s₀ s : State} (h₀ : Keeps s₀ s) (o : Owner) (ag : Agent) (a : Nat) (n : Nat) : Keeps s₀
    (hbmRead o ag a n s).2 := by
  unfold hbmRead
  repeat' with_reducible first
    | assumption | apply memFail_keeps | apply useStacks_keeps | apply eccCount_keeps | dsimp only | split

theorem noteWrite_keeps {s₀ s : State} (h₀ : Keeps s₀ s) (i : Nat) (a : Nat) (n : Nat) : Keeps s₀ (noteWrite i a n s) := by
  unfold noteWrite
  repeat' with_reducible first | assumption | simp only [keeps_mk]

theorem hbmWriteLine_keeps {s₀ s : State} (h₀ : Keeps s₀ s) (i : Nat) (o : Owner) (ag : Agent) (a : Nat) (d : List Byte) :
    Keeps s₀ (hbmWriteLine i o ag a d s).2 := by
  have h := fun es => useStacks_keeps (eccCount_keeps h₀ es) [a]
  unfold hbmWriteLine
  split <;> dsimp only
  · exact logErr_keeps h₀ _ _ _ _
  · split <;> dsimp only
    · exact logErr_keeps (h _) _ _ _ _
    · exact noteWrite_keeps (keeps_line (h _) _ _ _) _ _ _

theorem hbmWriteFrom_keeps {s₀ y6 : State} (h₀ : Keeps s₀ y6) (i : Nat) (o : Owner) (ag : Agent) (y3 : Nat) (y4 : Nat) (y5
    : List Byte) : Keeps s₀ (hbmWriteFrom i o ag y3 y4 y5 y6).2 := by
  induction y3 generalizing y4 y5 y6 with
  | zero => exact h₀
  | succ n ih =>
    unfold hbmWriteFrom
    repeat' with_reducible first
      | assumption | apply ih | apply hbmWriteLine_keeps | apply keeps_snd (by assumption) | dsimp only | split

theorem hbmWrite_keeps {s₀ s : State} (h₀ : Keeps s₀ s) (i : Nat) (o : Owner) (ag : Agent) (a : Nat) (d : List Byte) : Keeps s₀
    (hbmWrite i o ag a d s).2 := by
  unfold hbmWrite
  repeat' with_reducible first | assumption | apply hbmWriteFrom_keeps

theorem walkEntry_keeps {s₀ s : State} (h₀ : Keeps s₀ s) (o : Owner) (ag : Agent) (a : Nat) (bad : W64 → Bool) : Keeps s₀
    (walkEntry o ag a bad s).2 := by
  unfold walkEntry
  repeat' with_reducible first
    | assumption | apply hbmRead_keeps | apply logErr_keeps | apply keeps_snd (by assumption) | dsimp only | split

theorem State_setWell_keeps {s₀ s : State} (h₀ : Keeps s₀ s) (k : Nat) (w : Inkwell) : Keeps s₀ (State.setWell s k w) := by
  unfold State.setWell
  repeat' with_reducible first | assumption | simp only [keeps_mk]

theorem Xfer_start_keeps {s₀ s : State} (h₀ : Keeps s₀ s) (n : Nat) (k : Nat) : Keeps s₀ (Xfer.start n k s).2 := by
  unfold Xfer.start
  repeat' with_reducible first | assumption | apply State_setWell_keeps

theorem Xfer_stop_keeps {s₀ s : State} (h₀ : Keeps s₀ s) (x : Xfer) (k : Nat) : Keeps s₀ (Xfer.stop x k s) := by
  unfold Xfer.stop
  repeat' with_reducible first | assumption | apply State_setWell_keeps

theorem lineMoved_keeps {s₀ s : State} (h₀ : Keeps s₀ s) (k : Nat) (met : Bool) : Keeps s₀ (lineMoved k met s) := by
  unfold lineMoved
  repeat' with_reducible first | assumption | apply State_setWell_keeps

theorem tagGrant_keeps {s₀ s : State} (h₀ : Keeps s₀ s) (k : Nat) : Keeps s₀ (tagGrant k s) := by
  unfold tagGrant
  repeat' with_reducible first | assumption | apply State_setWell_keeps | simp only [keeps_mk] | split

theorem execInkwellTagGrant_keeps {s₀ s : State} (h₀ : Keeps s₀ s) (k : BitVec 2) : Done s₀ (execInkwellTagGrant k s) := by
  unfold execInkwellTagGrant
  repeat' with_reducible first | assumption | apply done_done | apply tagGrant_keeps

theorem cachePut_keeps {s₀ s : State} (h₀ : Keeps s₀ s) (k : Nat) (x : L2Ent) : Keeps s₀ (cachePut k x s) := by
  unfold cachePut
  repeat' with_reducible first | assumption | apply State_setWell_keeps

theorem pageWalk_keeps {s₀ s : State} (h₀ : Keeps s₀ s) (k : Nat) (o : Owner) (p : BitVec 24) : Keeps s₀ (pageWalk k o p s).2 := by
  unfold pageWalk
  repeat' with_reducible first
    | assumption | apply cachePut_keeps | apply walkEntry_keeps | apply keeps_snd (by assumption) | dsimp only | split

theorem cacheDrop_keeps {s₀ s : State} (h₀ : Keeps s₀ s) (f : L2Ent → Bool) : Keeps s₀ (cacheDrop f s) := by
  unfold cacheDrop
  repeat' with_reducible first | assumption | simp only [keeps_mk]

theorem State_setHc_keeps {s₀ s : State} (h₀ : Keeps s₀ s) (o : Nat) (h : HCache) : Keeps s₀ (State.setHc s o h) := by
  unfold State.setHc
  repeat' with_reducible first | assumption | simp only [keeps_mk]

theorem hcHit_keeps {s₀ s : State} (h₀ : Keeps s₀ s) (k : Nat) (o : Owner) (p : BitVec 24) : Keeps s₀ (hcHit k o p s).2 := by
  unfold hcHit
  repeat' with_reducible first | assumption | apply hbmRead_keeps | apply keeps_snd (by assumption) | dsimp only | split

theorem hcClear_keeps {s₀ s : State} (h₀ : Keeps s₀ s) (k : Nat) (o : Owner) (p : BitVec 24) : Keeps s₀ (hcClear k o p s).2 := by
  unfold hcClear
  repeat' with_reducible first | assumption | apply hcHit_keeps | apply hbmWrite_keeps | apply keeps_snd (by assumption) | split

theorem hcEnable_keeps {s₀ s : State} (h₀ : Keeps s₀ s) (o : Owner) (v : Bool) : Keeps s₀ (hcEnable o v s) := by
  unfold hcEnable
  repeat' with_reducible first | assumption | apply checked_keeps | apply State_setHc_keeps | dsimp only | intro _ | split

theorem execHcEnable_keeps {s₀ s : State} (h₀ : Keeps s₀ s) (o : Owner) (v : Bool) : Done s₀ (execHcEnable o v s) := by
  unfold execHcEnable
  repeat' with_reducible first | assumption | apply done_done | apply hcEnable_keeps | split

theorem execHcInitDone_keeps {s₀ s : State} (h₀ : Keeps s₀ s) (o : Owner) : Done s₀ (execHcInitDone o s) := by
  unfold execHcInitDone
  refine done_done (keeps_ite (keeps_mk_mem (State_setHc_keeps h₀ _ _) fun hm => ?_) h₀)
  rw [State.setHc_hbm] at hm
  dsimp only
  exact kwf_kfilter 0 _ s.hbm.mem hm

theorem inkEnable_keeps {s₀ s : State} (h₀ : Keeps s₀ s) (v : Bool) : Keeps s₀ (inkEnable v s) := by
  unfold inkEnable
  repeat' with_reducible first | assumption | apply checked_keeps | simp only [keeps_mk] | intro _ | split

theorem execInkEnable_keeps {s₀ s : State} (h₀ : Keeps s₀ s) (v : Bool) : Done s₀ (execInkEnable v s) := by
  unfold execInkEnable
  repeat' with_reducible first | assumption | apply done_done | apply inkEnable_keeps

theorem ownSettle_keeps {s₀ s : State} (h₀ : Keeps s₀ s) : Keeps s₀ (ownSettle s) := by
  unfold ownSettle
  repeat' with_reducible first | assumption | simp only [keeps_mk]

theorem pageOwnerWrite_keeps {s₀ s : State} (h₀ : Keeps s₀ s) (g : Nat) (v : W32) : Keeps s₀ (pageOwnerWrite g v s) := by
  unfold pageOwnerWrite
  repeat' with_reducible first | assumption | apply setReason_keeps | simp only [keeps_mk] | split

theorem execPageOwnerWrite_keeps {s₀ s : State} (h₀ : Keeps s₀ s) (g : W16) (v : W32) : Done s₀ (execPageOwnerWrite g v s) := by
  unfold execPageOwnerWrite
  repeat' with_reducible first | assumption | apply done_done | apply pageOwnerWrite_keeps | split

theorem execBar4Access_keeps {s₀ s : State} (h₀ : Keeps s₀ s) (off : BitVec 37) (wr : Bool) (len : Nat) (d : BitVec 512) : Done s₀
    (execBar4Access off wr len d s) := by
  unfold execBar4Access
  repeat' with_reducible first
    | assumption | apply done_done | apply ans_keeps | apply errRsp_keeps | apply logErr_keeps | apply hbmWrite_keeps
    | apply hbmRead_keeps | apply keeps_snd (by assumption) | split

theorem execHbmRefresh_keeps {s₀ s : State} (h₀ : Keeps s₀ s) (stk : BitVec 3) : Done s₀ (execHbmRefresh stk s) := by
  unfold execHbmRefresh
  repeat' with_reducible first | assumption | apply done_done | dsimp only | simp only [keeps_mk_hbm] | split

theorem patrolRead_keeps {s₀ s : State} (h₀ : Keeps s₀ s) (k : Nat) : Keeps s₀ (patrolRead k s) := by
  unfold patrolRead
  repeat' with_reducible first
    | assumption | apply eccCount_keeps | apply logErr_keeps | dsimp only | simp only [keeps_mk_hbm] | split

theorem execPatrolRead_keeps {s₀ s : State} (h₀ : Keeps s₀ s) (stk : BitVec 3) : Done s₀ (execPatrolRead stk s) := by
  unfold execPatrolRead
  repeat' with_reducible first | assumption | apply done_done | apply patrolRead_keeps | split

theorem patrolTick_keeps {s₀ s : State} (h₀ : Keeps s₀ s) : Keeps s₀ (patrolTick s) := by
  unfold patrolTick
  repeat' with_reducible first | assumption | apply patrolRead_keeps | apply keeps_foldl | simp only [keeps_mk] | intro _ | split

theorem inkClear_keeps {s₀ s : State} (h₀ : Keeps s₀ s) (off : Nat) : Keeps s₀ (inkClear off s) := by
  unfold inkClear
  repeat' with_reducible first | assumption | simp only [keeps_mk] | split

theorem inkWrite_keeps {s₀ s : State} (h₀ : Keeps s₀ s) (off : Nat) (v : W32) (pair : W64) : Keeps s₀ (inkWrite off v pair s) := by
  unfold inkWrite
  repeat' with_reducible first
    | assumption | apply inkEnable_keeps | apply hcEnable_keeps | apply State_setHc_keeps | apply pageOwnerWrite_keeps
    | apply keeps_ite | simp only [keeps_mk]

-- The operations of Machine/QStore.lean

theorem watchFire_keeps {s₀ s : State} (h₀ : Keeps s₀ s) (e : QwEvent) : Keeps s₀ (watchFire e s) := by
  unfold watchFire
  repeat' with_reducible first | assumption | apply State_modPart_keeps | simp only [keeps_mk] | split

theorem watchSettle_keeps {s₀ s : State} (h₀ : Keeps s₀ s) : Keeps s₀ (watchSettle s) := by
  unfold watchSettle
  repeat' with_reducible first | assumption | apply watchFire_keeps | apply keeps_foldl | simp only [keeps_mk] | intro _

theorem watchFires_keeps {s₀ s : State} (h₀ : Keeps s₀ s) : Keeps s₀ (watchFires s) := by
  unfold watchFires
  repeat' with_reducible first | assumption | apply xtFire_keeps | apply keeps_foldl | simp only [keeps_mk] | intro _

theorem watchWrite_keeps {s₀ s : State} (h₀ : Keeps s₀ s) (id : LqId) (pc : Option Nat) (ag : Agent) (tk : W64) (off : Nat) (d
    : List Byte) (old : Nat → Byte) (new : Nat → Byte) : Keeps s₀ (watchWrite id pc ag tk off d old new s) := by
  unfold watchWrite
  repeat' with_reducible first | assumption | simp only [keeps_mk] | split

theorem extWrite_keeps {s₀ s : State} (h₀ : Keeps s₀ s) (q : Nat) (off : Nat) (d : List Byte) (ag : Agent) : Keeps s₀
    (extWrite q off d ag s) := by
  unfold extWrite
  repeat' with_reducible first | assumption | apply State_setPq_keeps | apply watchWrite_keeps | dsimp only | split

-- The operations of Machine/QuillIssue.lean

theorem quillRaise_keeps {s₀ s : State} (h₀ : Keeps s₀ s) (q : Nat) (id : LqId) (metered : Bool) (code : W16) (addr : BitVec 48)
    (pc : Nat) : Keeps s₀ (quillRaise q id metered code addr pc s) := by
  unfold quillRaise
  repeat' with_reducible first
    | assumption | apply logErr_keeps | apply State_modPq_keeps | apply State_modLq_keeps | apply sendX_keeps

theorem QCtx_raise_keeps {s₀ s : State} (h₀ : Keeps s₀ s) (c : QCtx) (code : W16) (addr : BitVec 48) : Keeps s₀
    (QCtx.raise c code addr s) := by
  unfold QCtx.raise
  repeat' with_reducible first | assumption | apply quillRaise_keeps

theorem eccNote_keeps {s₀ s : State} (h₀ : Keeps s₀ s) (q : Nat) (r : StRd) : Keeps s₀ (eccNote q r s) := by
  unfold eccNote
  repeat' with_reducible first | assumption | apply State_modPq_keeps | split

theorem quillRead_keeps {s₀ s : State} (h₀ : Keeps s₀ s) (q : Nat) (off : Nat) (n : Nat) : Keeps s₀ (quillRead q off n s).2 := by
  unfold quillRead
  repeat' with_reducible first | assumption | apply eccNote_keeps | dsimp only | split

theorem withRead_keeps {s₀ s : State} (h₀ : Keeps s₀ s) (q : Nat) (off : Nat) (n : Nat) (f : List Byte → State → QRes) (hf : ∀ (x0
    : List Byte) (x1 : State), Keeps s₀ x1 → Keeps s₀ (f x0 x1).state) : Keeps s₀ (withRead q off n s f).state := by
  unfold withRead
  repeat' with_reducible first
    | assumption | apply quillRead_keeps | apply hf | apply keeps_snd (by assumption) | simp only [QRes.state_exn]
    | split

theorem withOperand_keeps {s₀ s : State} (h₀ : Keeps s₀ s) (c : QCtx) (a : BitVec 48) (n : Nat) (f : List Byte → State → QRes) (hf
    : ∀ (x0 : List Byte) (x1 : State), Keeps s₀ x1 → Keeps s₀ (f x0 x1).state) : Keeps s₀ (withOperand c a n s f).state := by
  unfold withOperand
  repeat' with_reducible first | assumption | apply withRead_keeps

theorem quillWriteBits_keeps {s₀ s : State} (h₀ : Keeps s₀ s) (c : QCtx) (off : Nat) (d : List Byte) (m : List Byte) (lat : Nat)
    : Keeps s₀ (quillWriteBits c off d m lat s) := by
  unfold quillWriteBits
  repeat' with_reducible first
    | assumption | apply State_modPq_keeps | apply State_modLq_keeps | apply watchWrite_keeps | dsimp only | split

theorem quillWrite_keeps {s₀ s : State} (h₀ : Keeps s₀ s) (c : QCtx) (off : Nat) (d : List Byte) (lat : Nat) : Keeps s₀
    (quillWrite c off d lat s) := by
  unfold quillWrite
  repeat' with_reducible first | assumption | apply quillWriteBits_keeps

theorem QCtx_mod_keeps {s₀ s : State} (h₀ : Keeps s₀ s) (c : QCtx) (f : Lq → Lq) : Keeps s₀ (QCtx.mod c f s) := by
  unfold QCtx.mod
  repeat' with_reducible first | assumption | apply State_modLq_keeps

theorem firstUnmapped_keeps {s₀ y2 : State} (h₀ : Keeps s₀ y2) (c : QCtx) (y1 : List (Nat × Nat)) : Keeps s₀
    (firstUnmapped c y1 y2).2 := by
  induction y1 generalizing y2 with
  | nil => exact h₀
  | cons a l ih =>
    unfold firstUnmapped
    repeat' with_reducible first | assumption | apply ih | apply pageWalk_keeps | apply keeps_snd (by assumption) | split

theorem pageCheck_keeps {s₀ s : State} (h₀ : Keeps s₀ s) (c : QCtx) : Keeps s₀ (pageCheck c s).2 := by
  unfold pageCheck
  repeat' with_reducible first
    | assumption | apply firstUnmapped_keeps | apply keeps_snd (by assumption) | dsimp only | split

theorem pageAsk_keeps {s₀ s : State} (h₀ : Keeps s₀ s) (c : QCtx) (p : Nat) (hint : Bool) : Keeps s₀ (pageAsk c p hint s) := by
  unfold pageAsk
  repeat' with_reducible first | assumption | apply sendX_keeps

theorem pageUsed_keeps {s₀ s : State} (h₀ : Keeps s₀ s) (id : LqId) (exact : Bool) (p : Nat) (till : Nat) : Keeps s₀
    (pageUsed id exact p till s) := by
  unfold pageUsed
  repeat' with_reducible first | assumption | apply State_modLq_keeps | simp only [keeps_mk] | split

theorem touchPages_keeps {s₀ s : State} (h₀ : Keeps s₀ s) (c : QCtx) : Keeps s₀ (touchPages c s) := by
  unfold touchPages
  repeat' with_reducible first | assumption | apply pageUsed_keeps | apply keeps_foldl | intro _

theorem issued_keeps {s₀ s : State} (h₀ : Keeps s₀ s) (c : QCtx) (ctl : Ctl) : Keeps s₀ (issued c ctl s) := by
  unfold issued
  repeat' with_reducible first | assumption | apply QCtx_mod_keeps

theorem runIns_keeps {s₀ s : State} (h₀ : Keeps s₀ s) (c : QCtx) (eff : QCtx → State → QRes) (heff : ∀ (x0 : QCtx) (x1
    : State), Keeps s₀ x1 → Keeps s₀ (eff x0 x1).state) : Keeps s₀ (runIns c eff s) := by
  unfold runIns
  repeat' with_reducible first
    | assumption | apply QCtx_raise_keeps | apply pageCheck_keeps | apply pageAsk_keeps | apply QCtx_mod_keeps
    | apply touchPages_keeps | apply issued_keeps | apply heff | apply keeps_snd (by assumption)
    | apply keeps_of_qres_ok (by assumption) | apply keeps_of_qres_exn (by assumption) | split

theorem quillStep_keeps {s₀ s : State} (h₀ : Keeps s₀ s) (q : Nat) (row : Ins → Bool) (eff : QCtx → State → QRes) (heff : ∀ (x0
    : QCtx) (x1 : State), Keeps s₀ x1 → Keeps s₀ (eff x0 x1).state) : Keeps s₀ (quillStep q row eff s) := by
  unfold quillStep
  repeat' with_reducible first
    | assumption | apply quillRead_keeps | apply QCtx_raise_keeps | apply issued_keeps | apply runIns_keeps
    | apply keeps_snd (by assumption) | dsimp only | split

theorem execPcRangeFallThrough_keeps {s₀ s : State} (h₀ : Keeps s₀ s) (q : Byte) : Done s₀ (execPcRangeFallThrough q s) := by
  unfold execPcRangeFallThrough
  repeat' with_reducible first | assumption | apply done_done | apply quillRaise_keeps | split

-- The operations of Machine/QuillScalar.lean

theorem lqEff_keeps {s₀ y2 : State} (h₀ : Keeps s₀ y2) (f : QCtx → Lq → Lq) (y1 : QCtx) : Keeps s₀ (lqEff f y1 y2).state := by
  unfold lqEff
  repeat' with_reducible first | assumption | apply QCtx_mod_keeps | simp only [QRes.state_ok]

theorem execAlu_keeps {s₀ s : State} (h₀ : Keeps s₀ s) (q : Byte) : Done s₀ (execAlu q s) := by
  unfold execAlu
  repeat' with_reducible first | assumption | apply done_done | apply quillStep_keeps | apply lqEff_keeps | intro _

theorem execAlui_keeps {s₀ s : State} (h₀ : Keeps s₀ s) (q : Byte) : Done s₀ (execAlui q s) := by
  unfold execAlui
  repeat' with_reducible first | assumption | apply done_done | apply quillStep_keeps | apply lqEff_keeps | intro _

theorem execCmp_keeps {s₀ s : State} (h₀ : Keeps s₀ s) (q : Byte) : Done s₀ (execCmp q s) := by
  unfold execCmp
  repeat' with_reducible first | assumption | apply done_done | apply quillStep_keeps | apply lqEff_keeps | intro _

theorem execPred_keeps {s₀ s : State} (h₀ : Keeps s₀ s) (q : Byte) : Done s₀ (execPred q s) := by
  unfold execPred
  repeat' with_reducible first | assumption | apply done_done | apply quillStep_keeps | apply lqEff_keeps | intro _

theorem execAddrAset_keeps {s₀ s : State} (h₀ : Keeps s₀ s) (q : Byte) : Done s₀ (execAddrAset q s) := by
  unfold execAddrAset
  repeat' with_reducible first | assumption | apply done_done | apply quillStep_keeps | apply lqEff_keeps | intro _

theorem execAddrAhi_keeps {s₀ s : State} (h₀ : Keeps s₀ s) (q : Byte) : Done s₀ (execAddrAhi q s) := by
  unfold execAddrAhi
  repeat' with_reducible first | assumption | apply done_done | apply quillStep_keeps | apply lqEff_keeps | intro _

theorem execAddrAadd_keeps {s₀ s : State} (h₀ : Keeps s₀ s) (q : Byte) : Done s₀ (execAddrAadd q s) := by
  unfold execAddrAadd
  repeat' with_reducible first
    | assumption | apply done_done | apply quillStep_keeps | apply lqEff_keeps | dsimp only
    | intro _

theorem execAddrAget_keeps {s₀ s : State} (h₀ : Keeps s₀ s) (q : Byte) : Done s₀ (execAddrAget q s) := by
  unfold execAddrAget
  repeat' with_reducible first | assumption | apply done_done | apply quillStep_keeps | apply lqEff_keeps | intro _

theorem execCtrlNop_keeps {s₀ s : State} (h₀ : Keeps s₀ s) (q : Byte) : Done s₀ (execCtrlNop q s) := by
  unfold execCtrlNop
  repeat' with_reducible first
    | assumption | apply done_done | apply quillStep_keeps | simp only [QRes.state_ok] | intro _

theorem execCtrlBr_keeps {s₀ s : State} (h₀ : Keeps s₀ s) (q : Byte) : Done s₀ (execCtrlBr q s) := by
  unfold execCtrlBr
  repeat' with_reducible first
    | assumption | apply done_done | apply quillStep_keeps | simp only [QRes.state_ok] | intro _

theorem execCtrlBrr_keeps {s₀ s : State} (h₀ : Keeps s₀ s) (q : Byte) : Done s₀ (execCtrlBrr q s) := by
  unfold execCtrlBrr
  repeat' with_reducible first
    | assumption | apply done_done | apply quillStep_keeps | simp only [QRes.state_ok] | intro _

theorem execCtrlEnd_keeps {s₀ s : State} (h₀ : Keeps s₀ s) (q : Byte) : Done s₀ (execCtrlEnd q s) := by
  unfold execCtrlEnd
  repeat' with_reducible first
    | assumption | apply done_done | apply quillStep_keeps | apply QCtx_mod_keeps | simp only [QRes.state_ok]
    | intro _

theorem execCtrlLcrd_keeps {s₀ s : State} (h₀ : Keeps s₀ s) (q : Byte) : Done s₀ (execCtrlLcrd q s) := by
  unfold execCtrlLcrd
  repeat' with_reducible first | assumption | apply done_done | apply quillStep_keeps | apply lqEff_keeps | intro _

theorem withTab_keeps {s₀ s : State} (h₀ : Keeps s₀ s) (c : QCtx) (t : Nat) (ns : List Nat) (f : State → QRes) (hf : ∀ (x0
    : State), Keeps s₀ x0 → Keeps s₀ (f x0).state) : Keeps s₀ (withTab c t ns s f).state := by
  unfold withTab
  repeat' with_reducible first | assumption | apply State_modPq_keeps | apply hf | simp only [QRes.state_exn] | split

theorem execCtrlSrrd_keeps {s₀ s : State} (h₀ : Keeps s₀ s) (q : Byte) : Done s₀ (execCtrlSrrd q s) := by
  unfold execCtrlSrrd
  repeat' with_reducible first
    | assumption | apply done_done | apply quillStep_keeps | apply withTab_keeps | apply QCtx_mod_keeps
    | simp only [QRes.state_ok] | intro _

theorem execLoop_keeps {s₀ s : State} (h₀ : Keeps s₀ s) (q : Byte) : Done s₀ (execLoop q s) := by
  unfold execLoop
  repeat' with_reducible first
    | assumption | apply done_done | apply quillStep_keeps | simp only [QRes.state_ok] | intro _

theorem execLd_keeps {s₀ s : State} (h₀ : Keeps s₀ s) (q : Byte) : Done s₀ (execLd q s) := by
  unfold execLd
  repeat' with_reducible first
    | assumption | apply done_done | apply quillStep_keeps | apply withRead_keeps | apply QCtx_mod_keeps
    | simp only [QRes.state_ok] | intro _ | split

theorem execSt_keeps {s₀ s : State} (h₀ : Keeps s₀ s) (q : Byte) : Done s₀ (execSt q s) := by
  unfold execSt
  repeat' with_reducible first
    | assumption | apply done_done | apply quillStep_keeps | apply quillWrite_keeps | simp only [QRes.state_ok]
    | intro _ | split

theorem traceIns_keeps {s₀ s : State} (h₀ : Keeps s₀ s) (c : QCtx) : Keeps s₀ (traceIns c s) := by
  unfold traceIns
  repeat' with_reducible first | assumption | apply State_modPq_keeps | simp only [keeps_mk] | split

theorem execTrace_keeps {s₀ s : State} (h₀ : Keeps s₀ s) (q : Byte) : Done s₀ (execTrace q s) := by
  unfold execTrace
  repeat' with_reducible first
    | assumption | apply done_done | apply quillStep_keeps | apply traceIns_keeps | simp only [QRes.state_ok]
    | intro _

theorem debugBrk_keeps {s₀ s : State} (h₀ : Keeps s₀ s) (c : QCtx) : Keeps s₀ (debugBrk c s) := by
  unfold debugBrk
  repeat' with_reducible first
    | assumption | apply logErr_keeps | apply State_modPart_keeps | apply xtFire_keeps | apply QCtx_mod_keeps
    | simp only [keeps_mk]

theorem execBrk_keeps {s₀ s : State} (h₀ : Keeps s₀ s) (q : Byte) : Done s₀ (execBrk q s) := by
  unfold execBrk
  repeat' with_reducible first
    | assumption | apply done_done | apply quillStep_keeps | apply debugBrk_keeps | simp only [QRes.state_ok, QRes.state_exn]
    | intro _ | split

-- The operations of Machine/QuillLat.lean

theorem satNote_keeps {s₀ s : State} (h₀ : Keeps s₀ s) (c : QCtx) (mat : Bool) : Keeps s₀ (satNote c mat s) := by
  unfold satNote
  repeat' with_reducible first
    | assumption | apply State_modPq_keeps | apply logErr_keeps | apply QCtx_mod_keeps | dsimp only | split

theorem addF_keeps {s₀ s : State} (h₀ : Keeps s₀ s) (c : QCtx) (mat : Bool) (terms : List (List Int)) : Keeps s₀
    (addF c mat terms s) := by
  unfold addF
  repeat' with_reducible first | assumption | apply QCtx_mod_keeps | apply satNote_keeps | dsimp only | split

theorem addA_keeps {s₀ s : State} (h₀ : Keeps s₀ s) (c : QCtx) (terms : List (List (List Int))) : Keeps s₀ (addA c terms s) := by
  unfold addA
  repeat' with_reducible first | assumption | apply QCtx_mod_keeps | apply satNote_keeps | dsimp only | split

theorem initEff_keeps {s₀ s : State} (h₀ : Keeps s₀ s) (c : QCtx) : Keeps s₀ (initEff c s).state := by
  unfold initEff
  repeat' with_reducible first
    | assumption | apply QCtx_mod_keeps | apply withOperand_keeps | simp only [QRes.state_ok] | intro _ | split

theorem execStrokeInit_keeps {s₀ s : State} (h₀ : Keeps s₀ s) (q : Byte) : Done s₀ (execStrokeInit q s) := by
  unfold execStrokeInit
  repeat' with_reducible first | assumption | apply done_done | apply quillStep_keeps | apply initEff_keeps | intro _

theorem withReads_keeps {s₀ y2 : State} (h₀ : Keeps s₀ y2) (q : Nat) (y1 : List (Nat × Nat)) (y3 : List Byte) (y4
    : List Byte → State → QRes) (hy4 : ∀ (x0 : List Byte) (x1 : State), Keeps s₀ x1 → Keeps s₀ (y4 x0 x1).state) : Keeps s₀
    (withReads q y1 y2 y3 y4).state := by
  induction y1 generalizing y2 y3 y4 with
  | nil => exact hy4 _ _ h₀
  | cons a l ih =>
    unfold withReads
    repeat' with_reducible first | assumption | apply ih | apply withRead_keeps | intro _

theorem ploadEff_keeps {s₀ s : State} (h₀ : Keeps s₀ s) (c : QCtx) : Keeps s₀ (ploadEff c s).state := by
  unfold ploadEff
  repeat' with_reducible first
    | assumption | apply withReads_keeps | apply QCtx_mod_keeps | simp only [QRes.state_ok] | intro _

theorem execStrokePload_keeps {s₀ s : State} (h₀ : Keeps s₀ s) (q : Byte) : Done s₀ (execStrokePload q s) := by
  unfold execStrokePload
  repeat' with_reducible first | assumption | apply done_done | apply quillStep_keeps | apply ploadEff_keeps | intro _

theorem denseEff_keeps {s₀ s : State} (h₀ : Keeps s₀ s) (c : QCtx) : Keeps s₀ (denseEff c s).state := by
  unfold denseEff
  repeat' with_reducible first
    | assumption | apply withOperand_keeps | apply addA_keeps | apply addF_keeps | simp only [QRes.state_ok]
    | intro _ | split

theorem execStrokeDense_keeps {s₀ s : State} (h₀ : Keeps s₀ s) (q : Byte) : Done s₀ (execStrokeDense q s) := by
  unfold execStrokeDense
  repeat' with_reducible first | assumption | apply done_done | apply quillStep_keeps | apply denseEff_keeps | intro _

theorem withScatter_keeps {s₀ s : State} (h₀ : Keeps s₀ s) (c : QCtx) (bytes : List Nat) (f : State → QRes) (hf : ∀ (x0
    : State), Keeps s₀ x0 → Keeps s₀ (f x0).state) : Keeps s₀ (withScatter c bytes s f).state := by
  unfold withScatter
  repeat' with_reducible first | assumption | apply eccNote_keeps | apply hf | simp only [QRes.state_exn] | split

theorem sparseEff_keeps {s₀ s : State} (h₀ : Keeps s₀ s) (c : QCtx) : Keeps s₀ (sparseEff c s).state := by
  unfold sparseEff
  repeat' with_reducible first
    | assumption | apply withReads_keeps | apply withScatter_keeps | apply addA_keeps | apply addF_keeps
    | simp only [QRes.state_ok] | intro _ | split

theorem execStrokeSparse_keeps {s₀ s : State} (h₀ : Keeps s₀ s) (q : Byte) : Done s₀ (execStrokeSparse q s) := by
  unfold execStrokeSparse
  repeat' with_reducible first | assumption | apply done_done | apply quillStep_keeps | apply sparseEff_keeps | intro _

theorem slotRead_keeps {s₀ s : State} (h₀ : Keeps s₀ s) (q : Nat) (off : Nat) (n : Nat) (f : List Byte → State → SlotR) (hf : ∀
    (x0 : List Byte) (x1 : State), Keeps s₀ x1 → Keeps s₀ (f x0 x1).state) : Keeps s₀ (slotRead q off n s f).state := by
  unfold slotRead
  repeat' with_reducible first
    | assumption | apply quillRead_keeps | apply hf | apply keeps_snd (by assumption)
    | simp only [SlotR.state_exn] | split

theorem slotVars_keeps {s₀ y6 : State} (h₀ : Keeps s₀ y6) (c : QCtx) (d : Desc) (pos : Nat) (base : Nat) (y4 : List Nat) (y5
    : List Nat) (y7 : List Nat → State → SlotR) (hy7 : ∀ (x0 : List Nat) (x1 : State), Keeps s₀ x1 → Keeps s₀ (y7 x0 x1).state)
    : Keeps s₀ (slotVars c d pos base y4 y5 y6 y7).state := by
  induction y4 generalizing y5 y6 y7 with
  | nil => exact hy7 _ _ h₀
  | cons a l ih =>
    unfold slotVars
    repeat' with_reducible first
      | assumption | apply ih | apply slotRead_keeps | simp only [SlotR.state_exn] | intro _ | split

theorem slotPhi_keeps {s₀ y6 : State} (h₀ : Keeps s₀ y6) (c : QCtx) (d : Desc) (pos : Nat) (xs : List Nat) (y4 : List Nat) (y5
    : List Int) (y7 : List Int → State → SlotR) (hy7 : ∀ (x0 : List Int) (x1 : State), Keeps s₀ x1 → Keeps s₀ (y7 x0 x1).state)
    : Keeps s₀ (slotPhi c d pos xs y4 y5 y6 y7).state := by
  induction y4 generalizing y5 y6 y7 with
  | nil => exact hy7 _ _ h₀
  | cons a l ih =>
    unfold slotPhi
    repeat' with_reducible first
      | assumption | apply ih | apply slotRead_keeps | simp only [SlotR.state_exn] | intro _ | split

theorem slotRun_keeps {s₀ s : State} (h₀ : Keeps s₀ s) (c : QCtx) (slot : W16) : Keeps s₀ (slotRun c slot s).state := by
  unfold slotRun
  repeat' with_reducible first
    | assumption | apply slotRead_keeps | apply slotVars_keeps | apply slotPhi_keeps | simp only [SlotR.state_ok, SlotR.state_exn]
    | intro _ | split

theorem slotsRun_keeps {s₀ y3 : State} (h₀ : Keeps s₀ y3) (c : QCtx) (y1 : List W16) (y2 : List (List Int)) (y4 : List
    (List Int) → State → QRes) (hy4 : ∀ (x0 : List (List Int)) (x1 : State), Keeps s₀ x1 → Keeps s₀ (y4 x0 x1).state) : Keeps s₀
    (slotsRun c y1 y2 y3 y4).state := by
  induction y1 generalizing y2 y3 y4 with
  | nil => exact hy4 _ _ h₀
  | cons a l ih =>
    unfold slotsRun
    repeat' with_reducible first
      | assumption | apply ih | apply slotRun_keeps | apply keeps_of_slot_ok (by assumption)
      | apply keeps_of_slot_exn (by assumption) | simp only [QRes.state_exn] | split

theorem nibsRun_keeps {s₀ y3 : State} (h₀ : Keeps s₀ y3) (c : QCtx) (y1 : List Nat) (y2 : List (List (List Int))) (y4 : List (List
    (List Int)) → State → QRes) (hy4 : ∀ (x0 : List (List (List Int))) (x1 : State), Keeps s₀ x1 → Keeps s₀ (y4 x0 x1).state)
    : Keeps s₀ (nibsRun c y1 y2 y3 y4).state := by
  induction y1 generalizing y2 y3 y4 with
  | nil => exact hy4 _ _ h₀
  | cons a l ih =>
    unfold nibsRun
    repeat' with_reducible first | assumption | apply ih | apply withRead_keeps | apply slotsRun_keeps | intro _

theorem factorEff_keeps {s₀ s : State} (h₀ : Keeps s₀ s) (c : QCtx) : Keeps s₀ (factorEff c s).state := by
  unfold factorEff
  repeat' with_reducible first
    | assumption | apply nibsRun_keeps | apply addA_keeps | apply addF_keeps | simp only [QRes.state_ok] | intro _
    | split

theorem execStrokeFactor_keeps {s₀ s : State} (h₀ : Keeps s₀ s) (q : Byte) : Done s₀ (execStrokeFactor q s) := by
  unfold execStrokeFactor
  repeat' with_reducible first | assumption | apply done_done | apply quillStep_keeps | apply factorEff_keeps | intro _

theorem passEff_keeps {s₀ s : State} (h₀ : Keeps s₀ s) (c : QCtx) : Keeps s₀ (passEff c s).state := by
  unfold passEff
  repeat' with_reducible first
    | assumption | apply withOperand_keeps | apply QCtx_mod_keeps | apply addF_keeps | simp only [QRes.state_ok]
    | intro _ | split

theorem execMmaPass_keeps {s₀ s : State} (h₀ : Keeps s₀ s) (q : Byte) : Done s₀ (execMmaPass q s) := by
  unfold execMmaPass
  repeat' with_reducible first | assumption | apply done_done | apply quillStep_keeps | apply passEff_keeps | intro _

theorem execMmaClr_keeps {s₀ s : State} (h₀ : Keeps s₀ s) (q : Byte) : Done s₀ (execMmaClr q s) := by
  unfold execMmaClr
  repeat' with_reducible first | assumption | apply done_done | apply quillStep_keeps | apply lqEff_keeps | intro _

theorem execMmaStore_keeps {s₀ s : State} (h₀ : Keeps s₀ s) (q : Byte) : Done s₀ (execMmaStore q s) := by
  unfold execMmaStore
  repeat' with_reducible first
    | assumption | apply done_done | apply quillStep_keeps | apply quillWrite_keeps | simp only [QRes.state_ok]
    | intro _

-- The operations of Machine/QuillNib.lean

theorem nnFall_keeps {s₀ s : State} (h₀ : Keeps s₀ s) (c : QCtx) : Keeps s₀ (nnFall c s).2 := by
  unfold nnFall
  repeat' with_reducible first
    | assumption | apply State_modPq_keeps | apply State_modPart_keeps | apply QCtx_mod_keeps | dsimp only | split

theorem acceptBin_keeps {s₀ s : State} (h₀ : Keeps s₀ s) (mh : Bool) (c : QCtx) : Keeps s₀ (acceptBin mh c s).state := by
  unfold acceptBin
  repeat' with_reducible first
    | assumption | apply withOperand_keeps | apply withTab_keeps | apply nnFall_keeps | apply drawN_keeps | apply quillWrite_keeps
    | simp only [QRes.state_ok] | intro _ | split

theorem execAcceptHb_keeps {s₀ s : State} (h₀ : Keeps s₀ s) (q : Byte) : Done s₀ (execAcceptHb q s) := by
  unfold execAcceptHb
  repeat' with_reducible first | assumption | apply done_done | apply quillStep_keeps | apply acceptBin_keeps | intro _

theorem execAcceptMh_keeps {s₀ s : State} (h₀ : Keeps s₀ s) (q : Byte) : Done s₀ (execAcceptMh q s) := by
  unfold execAcceptMh
  repeat' with_reducible first | assumption | apply done_done | apply quillStep_keeps | apply acceptBin_keeps | intro _

theorem acceptCat_keeps {s₀ s : State} (h₀ : Keeps s₀ s) (c : QCtx) : Keeps s₀ (acceptCat c s).state := by
  unfold acceptCat
  repeat' with_reducible first
    | assumption | apply withOperand_keeps | apply withTab_keeps | apply quillWrite_keeps
    | simp only [QRes.state_ok] | intro _

theorem execAcceptCat_keeps {s₀ s : State} (h₀ : Keeps s₀ s) (q : Byte) : Done s₀ (execAcceptCat q s) := by
  unfold execAcceptCat
  repeat' with_reducible first | assumption | apply done_done | apply quillStep_keeps | apply acceptCat_keeps | intro _

theorem execAcceptMask_keeps {s₀ s : State} (h₀ : Keeps s₀ s) (q : Byte) : Done s₀ (execAcceptMask q s) := by
  unfold execAcceptMask
  repeat' with_reducible first
    | assumption | apply done_done | apply quillStep_keeps | apply withOperand_keeps | apply QCtx_mod_keeps
    | simp only [QRes.state_ok] | intro _

theorem execVar_keeps {s₀ s : State} (h₀ : Keeps s₀ s) (q : Byte) : Done s₀ (execVar q s) := by
  unfold execVar
  repeat' with_reducible first | assumption | apply done_done | apply quillStep_keeps | apply lqEff_keeps | intro _

theorem execBetaAdv_keeps {s₀ s : State} (h₀ : Keeps s₀ s) (q : Byte) : Done s₀ (execBetaAdv q s) := by
  unfold execBetaAdv
  repeat' with_reducible first | assumption | apply done_done | apply quillStep_keeps | apply lqEff_keeps | intro _

theorem execBetaSet_keeps {s₀ s : State} (h₀ : Keeps s₀ s) (q : Byte) : Done s₀ (execBetaSet q s) := by
  unfold execBetaSet
  repeat' with_reducible first | assumption | apply done_done | apply quillStep_keeps | apply lqEff_keeps | intro _

theorem execBetaLda_keeps {s₀ s : State} (h₀ : Keeps s₀ s) (q : Byte) : Done s₀ (execBetaLda q s) := by
  unfold execBetaLda
  repeat' with_reducible first
    | assumption | apply done_done | apply quillStep_keeps | apply withOperand_keeps | apply QCtx_mod_keeps
    | apply State_modPq_keeps | simp only [QRes.state_ok] | intro _

theorem execBetaLdc_keeps {s₀ s : State} (h₀ : Keeps s₀ s) (q : Byte) : Done s₀ (execBetaLdc q s) := by
  unfold execBetaLdc
  repeat' with_reducible first
    | assumption | apply done_done | apply quillStep_keeps | apply withOperand_keeps | apply QCtx_mod_keeps
    | apply State_modPq_keeps | simp only [QRes.state_ok] | intro _

theorem execBetaLds_keeps {s₀ s : State} (h₀ : Keeps s₀ s) (q : Byte) : Done s₀ (execBetaLds q s) := by
  unfold execBetaLds
  repeat' with_reducible first
    | assumption | apply done_done | apply quillStep_keeps | apply withOperand_keeps | apply QCtx_mod_keeps
    | apply State_modPq_keeps | simp only [QRes.state_ok] | intro _

theorem execBetaSweep_keeps {s₀ s : State} (h₀ : Keeps s₀ s) (q : Byte) : Done s₀ (execBetaSweep q s) := by
  unfold execBetaSweep
  repeat' with_reducible first | assumption | apply done_done | apply quillStep_keeps | apply lqEff_keeps | intro _

-- The operations of Machine/Sync.lean

theorem applyIncr_keeps {s₀ s : State} (h₀ : Keeps s₀ s) (o : Owner) (n : Nat) (v : W32) (ag : Agent) : Keeps s₀
    (applyIncr o n v ag s) := by
  unfold applyIncr
  repeat' with_reducible first | assumption | apply keeps_setSync | apply logErr_keeps | dsimp only | split

theorem syncAllocFor_keeps {s₀ s : State} (h₀ : Keeps s₀ s) (o : Owner) : Keeps s₀ (syncAllocFor o s).2 := by
  unfold syncAllocFor
  repeat' with_reducible first | assumption | apply keeps_setSync | dsimp only | split

theorem execSyncAlloc_keeps {s₀ s : State} (h₀ : Keeps s₀ s) (ag : Agent) (o : Owner) : Done s₀ (execSyncAlloc ag o s) := by
  unfold execSyncAlloc
  repeat' with_reducible first
    | assumption | apply done_done | apply syncAllocFor_keeps | apply ans_keeps | dsimp only | split

theorem syncFreeFor_keeps {s₀ s : State} (h₀ : Keeps s₀ s) (o : Owner) (n : Nat) : Keeps s₀ (syncFreeFor o n s) := by
  unfold syncFreeFor
  repeat' with_reducible first | assumption | apply setCtxReason_keeps | apply keeps_setSync | dsimp only | split

theorem execSyncFree_keeps {s₀ s : State} (h₀ : Keeps s₀ s) (o : Owner) (n : W32) : Done s₀ (execSyncFree o n s) := by
  unfold execSyncFree
  repeat' with_reducible first | assumption | apply done_done | apply syncFreeFor_keeps | split

theorem syncWrite_keeps {s₀ s : State} (h₀ : Keeps s₀ s) (o : Owner) (ag : Agent) (n : BitVec 17) (thresh : Bool) (v : W32)
    : Keeps s₀ (syncWrite o ag n thresh v s) := by
  unfold syncWrite
  repeat' with_reducible first | assumption | simp only [keeps_mk]

theorem execSyncCountWrite_keeps {s₀ s : State} (h₀ : Keeps s₀ s) (o : Owner) (n : BitVec 17) (thresh : Bool) (v : W32) : Done s₀
    (execSyncCountWrite o n thresh v s) := by
  unfold execSyncCountWrite
  repeat' with_reducible first | assumption | apply done_done | apply syncWrite_keeps

theorem syncApply_keeps {s₀ s : State} (h₀ : Keeps s₀ s) (w : SyncWr) : Keeps s₀ (syncApply w s) := by
  unfold syncApply
  repeat' with_reducible first | assumption | apply logErr_keeps | apply keeps_setSync | dsimp only | split

theorem incrNow_keeps {s₀ s : State} (h₀ : Keeps s₀ s) (o : Owner) (n : BitVec 17) (v : W32) (ag : Agent) : Keeps s₀
    (incrNow o n v ag s) := by
  unfold incrNow
  repeat' with_reducible first | assumption | apply applyIncr_keeps | simp only [keeps_mk] | split

theorem execSyncAdd_keeps {s₀ s : State} (h₀ : Keeps s₀ s) (o : Owner) (n : BitVec 17) (v : W32) : Done s₀ (execSyncAdd o n v s)
    := by
  unfold execSyncAdd
  repeat' with_reducible first | assumption | apply done_done | apply incrNow_keeps

theorem execSyncIncrementApply_keeps {s₀ s : State} (h₀ : Keeps s₀ s) : Done s₀ (execSyncIncrementApply s) := by
  unfold execSyncIncrementApply
  repeat' with_reducible first
    | assumption | apply inboxTake_keeps | apply done_done | apply applyIncr_keeps | apply keeps_opt (by assumption) | split

-- The operations of Machine/QuillComm.lean

theorem xsendEff_keeps {s₀ s : State} (h₀ : Keeps s₀ s) (c : QCtx) : Keeps s₀ (xsendEff c s).state := by
  unfold xsendEff
  repeat' with_reducible first
    | assumption | apply withOperand_keeps | apply QCtx_mod_keeps | apply sendX_keeps | simp only [QRes.state_ok]
    | intro _ | split

theorem execXsend_keeps {s₀ s : State} (h₀ : Keeps s₀ s) (q : Byte) : Done s₀ (execXsend q s) := by
  unfold execXsend
  repeat' with_reducible first | assumption | apply done_done | apply quillStep_keeps | apply xsendEff_keeps | intro _

theorem xrecvEff_keeps {s₀ s : State} (h₀ : Keeps s₀ s) (c : QCtx) : Keeps s₀ (xrecvEff c s).state := by
  unfold xrecvEff
  repeat' with_reducible first
    | assumption | apply quillWrite_keeps | apply QCtx_mod_keeps | simp only [QRes.state_ok] | split

theorem execXrecv_keeps {s₀ s : State} (h₀ : Keeps s₀ s) (q : Byte) : Done s₀ (execXrecv q s) := by
  unfold execXrecv
  repeat' with_reducible first | assumption | apply done_done | apply quillStep_keeps | apply xrecvEff_keeps | intro _

theorem signalsAfter_keeps {s₀ s : State} (h₀ : Keeps s₀ s) (src : LqId) (n : Nat) (rel : W64) : Keeps s₀
    (signalsAfter src n rel s) := by
  unfold signalsAfter
  repeat' with_reducible first | assumption | apply State_modLq_keeps

theorem flitTake_keeps {s₀ s : State} (h₀ : Keeps s₀ s) (id : LqId) (ch : Nat) (d : BitVec 256) : Keeps s₀ (flitTake id ch d s)
    := by
  unfold flitTake
  repeat' with_reducible first | assumption | apply State_modLq_keeps | apply quillRaise_keeps | dsimp only | split

theorem execFlitRelease_keeps {s₀ s : State} (h₀ : Keeps s₀ s) : Done s₀ (execFlitRelease s) := by
  unfold execFlitRelease
  repeat' with_reducible first
    | assumption | apply inboxTake_keeps | apply done_done | apply signalsAfter_keeps | apply flitTake_keeps
    | apply keeps_opt (by assumption) | simp only [keeps_mk] | split

theorem execSwapBufferDeliver_keeps {s₀ s : State} (h₀ : Keeps s₀ s) (i : Nat) : Done s₀ (execSwapBufferDeliver i s) := by
  unfold execSwapBufferDeliver
  repeat' with_reducible first | assumption | apply done_done | apply flitTake_keeps | simp only [keeps_mk] | split

theorem postEff_keeps {s₀ s : State} (h₀ : Keeps s₀ s) (c : QCtx) : Keeps s₀ (postEff c s).state := by
  unfold postEff
  repeat' with_reducible first
    | assumption | apply sendX_keeps | apply withRead_keeps | simp only [QRes.state_ok] | intro _ | split

theorem execPost_keeps {s₀ s : State} (h₀ : Keeps s₀ s) (q : Byte) : Done s₀ (execPost q s) := by
  unfold execPost
  repeat' with_reducible first | assumption | apply done_done | apply quillStep_keeps | apply postEff_keeps | intro _

theorem clampEff_keeps {s₀ s : State} (h₀ : Keeps s₀ s) (c : QCtx) : Keeps s₀ (clampEff c s).state := by
  unfold clampEff
  repeat' with_reducible first | assumption | apply QCtx_mod_keeps | apply sendX_keeps | simp only [QRes.state_ok]

theorem execClamp_keeps {s₀ s : State} (h₀ : Keeps s₀ s) (q : Byte) : Done s₀ (execClamp q s) := by
  unfold execClamp
  repeat' with_reducible first | assumption | apply done_done | apply quillStep_keeps | apply clampEff_keeps | intro _

theorem execClampSample_keeps {s₀ s : State} (h₀ : Keeps s₀ s) : Done s₀ (execClampSample s) := by
  unfold execClampSample
  repeat' with_reducible first
    | assumption | apply inboxTake_keeps | apply done_done | apply sendX_keeps | apply keeps_opt (by assumption) | split

theorem clampField_keeps {s₀ s : State} (h₀ : Keeps s₀ s) (c : QCtx) (off : Nat) (pos : Nat) (w : Nat) (v : W32) : Keeps s₀
    (clampField c off pos w v s) := by
  unfold clampField
  repeat' with_reducible first | assumption | apply quillWriteBits_keeps

theorem execClampReply_keeps {s₀ s : State} (h₀ : Keeps s₀ s) (q : Byte) : Done s₀ (execClampReply q s) := by
  unfold execClampReply
  repeat' with_reducible first
    | assumption | apply done_done | apply inboxTake_keeps | apply State_modLq_keeps | apply clampField_keeps
    | apply keeps_opt (by assumption) | dsimp only | split

theorem waitEff_keeps {s₀ s : State} (h₀ : Keeps s₀ s) (c : QCtx) : Keeps s₀ (waitEff c s).state := by
  unfold waitEff
  repeat' with_reducible first
    | assumption | apply QCtx_mod_keeps | apply sendX_keeps | simp only [QRes.state_ok] | split

theorem execWait_keeps {s₀ s : State} (h₀ : Keeps s₀ s) (q : Byte) : Done s₀ (execWait q s) := by
  unfold execWait
  repeat' with_reducible first | assumption | apply done_done | apply quillStep_keeps | apply waitEff_keeps | intro _

theorem sendReply_keeps {s₀ s : State} (h₀ : Keeps s₀ s) (id : LqId) (p : Part) : Keeps s₀ (sendReply id p s) := by
  unfold sendReply
  repeat' with_reducible first | assumption | apply sendX_keeps

theorem execWaitQuerySatisfied_keeps {s₀ s : State} (h₀ : Keeps s₀ s) (i : Nat) : Done s₀ (execWaitQuerySatisfied i s) := by
  unfold execWaitQuerySatisfied
  repeat' with_reducible first | assumption | apply done_done | apply sendReply_keeps | simp only [keeps_mk] | split

theorem execWaitReplyRelease_keeps {s₀ s : State} (h₀ : Keeps s₀ s) (q : Byte) : Done s₀ (execWaitReplyRelease q s) := by
  unfold execWaitReplyRelease
  repeat' with_reducible first
    | assumption | apply done_done | apply State_modLq_keeps | apply inboxTake_keeps | apply keeps_opt (by assumption)
    | dsimp only | split

theorem signalEff_keeps {s₀ s : State} (h₀ : Keeps s₀ s) (c : QCtx) : Keeps s₀ (signalEff c s).state := by
  unfold signalEff
  repeat' with_reducible first | assumption | apply QCtx_mod_keeps | simp only [QRes.state_ok] | split

theorem execSignal_keeps {s₀ s : State} (h₀ : Keeps s₀ s) (q : Byte) : Done s₀ (execSignal q s) := by
  unfold execSignal
  repeat' with_reducible first | assumption | apply done_done | apply quillStep_keeps | apply signalEff_keeps | intro _

theorem execSignalSend_keeps {s₀ s : State} (h₀ : Keeps s₀ s) (q : Byte) : Done s₀ (execSignalSend q s) := by
  unfold execSignalSend
  repeat' with_reducible first
    | assumption | apply done_done | apply sendX_keeps | apply State_modLq_keeps | dsimp only | split

theorem pghintEff_keeps {s₀ s : State} (h₀ : Keeps s₀ s) (c : QCtx) : Keeps s₀ (pghintEff c s).state := by
  unfold pghintEff
  repeat' with_reducible first
    | assumption | apply pageUsed_keeps | apply pageAsk_keeps | simp only [QRes.state_ok] | split

theorem execPghint_keeps {s₀ s : State} (h₀ : Keeps s₀ s) (q : Byte) : Done s₀ (execPghint q s) := by
  unfold execPghint
  repeat' with_reducible first | assumption | apply done_done | apply quillStep_keeps | apply pghintEff_keeps | intro _

theorem execEndReportSend_keeps {s₀ s : State} (h₀ : Keeps s₀ s) (q : Byte) : Done s₀ (execEndReportSend q s) := by
  unfold execEndReportSend
  repeat' with_reducible first
    | assumption | apply done_done | apply sendX_keeps | apply State_modLq_keeps | dsimp only | split

theorem dropWaits_keeps {s₀ s : State} (h₀ : Keeps s₀ s) (p : LqId → Bool) : Keeps s₀ (dropWaits p s) := by
  unfold dropWaits
  repeat' with_reducible first | assumption | simp only [keeps_mk]

theorem stopOthers_keeps {s₀ s : State} (h₀ : Keeps s₀ s) (p : Part) (but : Option Byte) : Keeps s₀ (stopOthers p but s) := by
  unfold stopOthers
  repeat' with_reducible first
    | assumption | apply sendX_keeps | apply dropWaits_keeps | apply State_modLq_keeps | apply keeps_foldl | dsimp only
    | intro _ | split

theorem execQuillExceptionReport_keeps {s₀ s : State} (h₀ : Keeps s₀ s) : Done s₀ (execQuillExceptionReport s) := by
  unfold execQuillExceptionReport
  repeat' with_reducible first
    | assumption | apply inboxTake_keeps | apply done_done | apply State_modPart_keeps | apply stopOthers_keeps
    | apply keeps_opt (by assumption) | dsimp only | split

theorem execPartitionStop_keeps {s₀ s : State} (h₀ : Keeps s₀ s) (q : Byte) : Done s₀ (execPartitionStop q s) := by
  unfold execPartitionStop
  repeat' with_reducible first
    | assumption | apply done_done | apply inboxTake_keeps | apply dropWaits_keeps | apply State_modLq_keeps
    | apply State_modPq_keeps | apply keeps_opt (by assumption) | split

-- The operations of Machine/Paging.lean

theorem hostPart_keeps {s₀ s : State} (h₀ : Keeps s₀ s) (ag : Agent) (h : HostBytes) (a : Nat) (n : Nat) : Keeps s₀
    (hostPart ag h a n s).2 := by
  unfold hostPart
  repeat' with_reducible first | assumption | apply logErr_keeps | split

theorem lmaPart_keeps {s₀ s : State} (h₀ : Keeps s₀ s) (c : Acc) (a : Nat) (n : Nat) (h : HostBytes) : Keeps s₀
    (lmaPart c a n h s).2 := by
  unfold lmaPart
  repeat' with_reducible first
    | assumption | apply pageWalk_keeps | apply hostPart_keeps | apply hbmRead_keeps | apply keeps_snd (by assumption)
    | dsimp only | split

theorem lmaReadGo_keeps {s₀ y6 : State} (h₀ : Keeps s₀ y6) (c : Acc) (h : HostBytes) (y2 : Nat) (y3 : Nat) (y4 : Nat) (y5
    : List Byte) : Keeps s₀ (lmaReadGo c h y2 y3 y4 y5 y6).2 := by
  induction y2 generalizing y3 y4 y5 y6 with
  | zero => exact h₀
  | succ n ih =>
    unfold lmaReadGo
    repeat' with_reducible first
      | assumption | apply ih | apply lmaPart_keeps | apply keeps_snd (by assumption) | dsimp only | split

theorem lmaRead_keeps {s₀ s : State} (h₀ : Keeps s₀ s) (c : Acc) (a : Nat) (n : Nat) (h : HostBytes) : Keeps s₀
    (lmaRead c a n h s).2 := by
  unfold lmaRead
  repeat' with_reducible first | assumption | apply lmaReadGo_keeps

theorem lmaWritePart_keeps {s₀ s : State} (h₀ : Keeps s₀ s) (c : Acc) (a : Nat) (d : List Byte) : Keeps s₀
    (lmaWritePart c a d s).2 := by
  unfold lmaWritePart
  repeat' with_reducible first
    | assumption | apply pageWalk_keeps | apply hcClear_keeps | apply hostWrite_keeps | apply hbmWrite_keeps
    | apply keeps_snd (by assumption) | dsimp only | split

theorem lmaWriteGo_keeps {s₀ y4 : State} (h₀ : Keeps s₀ y4) (c : Acc) (y1 : Nat) (y2 : Nat) (y3 : List Byte) : Keeps s₀
    (lmaWriteGo c y1 y2 y3 y4).2 := by
  induction y1 generalizing y2 y3 y4 with
  | zero => exact h₀
  | succ n ih =>
    unfold lmaWriteGo
    repeat' with_reducible first
      | assumption | apply ih | apply lmaWritePart_keeps | apply keeps_snd (by assumption) | dsimp only | split

theorem lmaWrite_keeps {s₀ s : State} (h₀ : Keeps s₀ s) (c : Acc) (a : Nat) (d : List Byte) : Keeps s₀ (lmaWrite c a d s).2 := by
  unfold lmaWrite
  repeat' with_reducible first | assumption | apply lmaWriteGo_keeps

theorem hbmPageLine_keeps {s₀ s : State} (h₀ : Keeps s₀ s) (o : Owner) (k : Nat) (a : Nat) (i : Nat) : Keeps s₀
    (hbmPageLine o k a i s).2 := by
  unfold hbmPageLine
  repeat' with_reducible first
    | assumption | apply logErr_keeps | apply eccCount_keeps | apply keeps_foldl | dsimp only | intro _ | split

theorem hostPageLine_keeps {s₀ s : State} (h₀ : Keeps s₀ s) (k : Nat) (a : Nat) (h : HostBytes) (i : Nat) : Keeps s₀
    (hostPageLine k a h i s).2 := by
  unfold hostPageLine
  repeat' with_reducible first | assumption | apply logErr_keeps | split

theorem pageSrc_keeps {s₀ s : State} (h₀ : Keeps s₀ s) (k : Nat) (o : Owner) (p : BitVec 24) (e : W64) : Keeps s₀
    (pageSrc k o p e s).2 := by
  unfold pageSrc
  repeat' with_reducible first
    | assumption | apply hcHit_keeps | apply hbmWrite_keeps | apply keeps_snd (by assumption) | dsimp only | split

theorem pageLine_keeps {s₀ s : State} (h₀ : Keeps s₀ s) (k : Nat) (o : Owner) (p : BitVec 24) (src : PageSrc) (h : HostBytes) (i
    : Nat) : Keeps s₀ (pageLine k o p src h i s).2.2 := by
  unfold pageLine
  repeat' with_reducible first
    | assumption | apply hbmPageLine_keeps | apply hostPageLine_keeps | apply hbmWrite_keeps | dsimp only | split

theorem pageTag_keeps {s₀ s : State} (h₀ : Keeps s₀ s) (k : Nat) (o : Owner) (p : BitVec 24) (src : PageSrc) (whole : Bool)
    : Keeps s₀ (pageTag k o p src whole s) := by
  unfold pageTag
  repeat' with_reducible first | assumption | apply hbmWrite_keeps | split

theorem pageData_keeps {s₀ s : State} (h₀ : Keeps s₀ s) (k : Nat) (o : Owner) (p : BitVec 24) (e : W64) (h : HostBytes) : Keeps s₀
    (pageData k o p e h s).2 := by
  unfold pageData
  repeat' with_reducible first
    | assumption | apply pageSrc_keeps | apply pageLine_keeps | apply pageTag_keeps | apply keeps_foldl_snd_snd
    | dsimp only | intro _

theorem modStores_keeps {s₀ s : State} (h₀ : Keeps s₀ s) (id : LqId) (f : Stores → Stores) : Keeps s₀ (modStores id f s) := by
  unfold modStores
  repeat' with_reducible first | assumption | apply State_modPq_keeps | apply State_modLq_keeps | split

theorem pageAnswer_keeps {s₀ s : State} (h₀ : Keeps s₀ s) (k : Nat) (id : LqId) (p : BitVec 24) (code : W16) : Keeps s₀
    (pageAnswer k id p code s) := by
  unfold pageAnswer
  repeat' with_reducible first | assumption | apply sendX_keeps | dsimp only | split

theorem renew_keeps {s₀ s : State} (h₀ : Keeps s₀ s) (id : LqId) (p : BitVec 24) (t : W64) : Keeps s₀ (renew id p t s) := by
  unfold renew
  repeat' with_reducible first | assumption | simp only [keeps_mk]

theorem takeReq_keeps {s₀ s : State} (h₀ : Keeps s₀ s) (k : Nat) : Keeps s₀ (takeReq k s) := by
  unfold takeReq
  repeat' with_reducible first
    | assumption | apply inboxTake_keeps | apply pageAnswer_keeps | apply renew_keeps | apply keeps_opt (by assumption)
    | simp only [keeps_mk] | split

theorem startFetch_keeps {s₀ s : State} (h₀ : Keeps s₀ s) (f : Fetch) : Keeps s₀ (startFetch f s) := by
  unfold startFetch
  repeat' with_reducible first | assumption | apply Xfer_start_keeps | simp only [keeps_mk]

theorem pageFetch_keeps {s₀ s : State} (h₀ : Keeps s₀ s) (k : Nat) : Keeps s₀ (pageFetch k s) := by
  unfold pageFetch
  repeat' with_reducible first | assumption | apply takeReq_keeps | apply startFetch_keeps | dsimp only | split

theorem execPageFetch_keeps {s₀ s : State} (h₀ : Keeps s₀ s) (k : BitVec 2) : Done s₀ (execPageFetch k s) := by
  unfold execPageFetch
  repeat' with_reducible first | assumption | apply done_done | apply pageFetch_keeps

theorem fetchEnd_keeps {s₀ s : State} (h₀ : Keeps s₀ s) (i : Nat) (f : Fetch) : Keeps s₀ (fetchEnd i f s) := by
  unfold fetchEnd
  repeat' with_reducible first
    | assumption | apply Xfer_stop_keeps | apply State_setWell_keeps | apply startFetch_keeps | simp only [keeps_mk] | split

theorem fetchMove_keeps {s₀ s : State} (h₀ : Keeps s₀ s) (i : Nat) (f : Fetch) (e : W64) : Keeps s₀ (fetchMove i f e s) := by
  unfold fetchMove
  repeat' with_reducible first
    | assumption | apply fetchEnd_keeps | apply pageAnswer_keeps | apply pageSrc_keeps | apply Xfer_start_keeps
    | apply State_setWell_keeps | apply State_modLq_keeps | simp only [keeps_mk] | split

theorem pageWalkDone_keeps {s₀ s : State} (h₀ : Keeps s₀ s) (i : Nat) : Keeps s₀ (pageWalkDone i s) := by
  unfold pageWalkDone
  repeat' with_reducible first
    | assumption | apply pageWalk_keeps | apply fetchEnd_keeps | apply pageAnswer_keeps | apply fetchMove_keeps
    | apply Xfer_stop_keeps | apply keeps_snd (by assumption) | split

theorem execPageWalkDone_keeps {s₀ s : State} (h₀ : Keeps s₀ s) (i : Nat) : Done s₀ (execPageWalkDone i s) := by
  unfold execPageWalkDone
  repeat' with_reducible first | assumption | apply done_done | apply pageWalkDone_keeps

theorem fetchLine_keeps {s₀ s : State} (h₀ : Keeps s₀ s) (i : Nat) (f : Fetch) (src : PageSrc) (h : HostBytes) : Keeps s₀
    (fetchLine i f src h s) := by
  unfold fetchLine
  repeat' with_reducible first
    | assumption | apply pageLine_keeps | apply modStores_keeps | apply lineMoved_keeps | simp only [keeps_mk] | split

theorem fetchLines_keeps {s₀ y3 : State} (h₀ : Keeps s₀ y3) (i : Nat) (h : HostBytes) (y2 : Nat) : Keeps s₀ (fetchLines i h y2 y3)
    := by
  induction y2 generalizing y3 with
  | zero => exact h₀
  | succ n ih =>
    unfold fetchLines
    repeat' with_reducible first | assumption | apply ih | apply fetchLine_keeps | split

theorem pageResident_keeps {s₀ s : State} (h₀ : Keeps s₀ s) (i : Nat) : Keeps s₀ (pageResident i s) := by
  unfold pageResident
  repeat' with_reducible first
    | assumption | apply pageTag_keeps | apply State_modPart_keeps | apply State_modLq_keeps | apply pageAnswer_keeps
    | apply fetchEnd_keeps | dsimp only | split

theorem execPageResident_keeps {s₀ s : State} (h₀ : Keeps s₀ s) (i : Nat) (h : HostBytes) : Done s₀ (execPageResident i h s) := by
  unfold execPageResident
  repeat' with_reducible first | assumption | apply done_done | apply pageResident_keeps | apply fetchLines_keeps | split

theorem swapLine_keeps {s₀ s : State} (h₀ : Keeps s₀ s) (q : Nat) (met : Bool) : Keeps s₀ (swapLine q met s) := by
  unfold swapLine
  repeat' with_reducible first | assumption | apply State_modPq_keeps | apply State_setWell_keeps

theorem meteredLines_keeps {s₀ y2 : State} (h₀ : Keeps s₀ y2) (k : Nat) (y1 : Nat) : Keeps s₀ (meteredLines k y1 y2) := by
  induction y1 generalizing y2 with
  | zero => exact h₀
  | succ n ih =>
    unfold meteredLines
    repeat' with_reducible first
      | assumption | apply ih | apply swapLine_keeps | apply fetchLine_keeps | dsimp only | split

theorem inkMetered_keeps {s₀ s : State} (h₀ : Keeps s₀ s) : Keeps s₀ (inkMetered s) := by
  unfold inkMetered
  repeat' with_reducible first
    | assumption | apply meteredLines_keeps | apply pageResident_keeps | apply keeps_foldl | intro _ | split

-- The operations of Machine/Sched.lean

theorem ctxOn_keeps {s₀ s : State} (h₀ : Keeps s₀ s) (o : Nat) : Keeps s₀ (ctxOn o s) := by
  unfold ctxOn
  repeat' with_reducible first
    | assumption | apply generate_keeps | apply State_setOwn_keeps | dsimp only | simp only [keeps_mk_hbm]

theorem ctxEnable_keeps {s₀ s : State} (h₀ : Keeps s₀ s) (o : Nat) : Keeps s₀ (ctxEnable o s) := by
  unfold ctxEnable
  repeat' with_reducible first
    | assumption | apply setCtxReason_keeps | apply State_setOwn_keeps | apply setReason_keeps | apply ctxOn_keeps
    | dsimp only | split

theorem enableWaiting_keeps {s₀ s : State} (h₀ : Keeps s₀ s) : Keeps s₀ (enableWaiting s) := by
  unfold enableWaiting
  repeat' with_reducible first | assumption | apply ctxEnable_keeps | apply keeps_foldl | intro _ | split

theorem execCtxEnableSet_keeps {s₀ s : State} (h₀ : Keeps s₀ s) (o : Owner) : Done s₀ (execCtxEnableSet o s) := by
  unfold execCtxEnableSet
  repeat' with_reducible first | assumption | apply done_done | apply ctxEnable_keeps | split

theorem modDisp_keeps {s₀ s : State} (h₀ : Keeps s₀ s) (id : CmdId) (f : Disp → Disp) : Keeps s₀ (modDisp id f s) := by
  unfold modDisp
  repeat' with_reducible first | assumption | simp only [keeps_mk]

theorem finish_keeps {s₀ s : State} (h₀ : Keeps s₀ s) (id : CmdId) (r : Outc) : Keeps s₀ (finish id r s) := by
  unfold finish
  repeat' with_reducible first | assumption | apply modDisp_keeps | apply sendX_keeps | dsimp only | split

theorem undispatched_keeps {s₀ s : State} (h₀ : Keeps s₀ s) (o : Nat) (k : Nat) (c : Cmd) (r : Outc) : Keeps s₀
    (undispatched o k c r s) := by
  unfold undispatched
  repeat' with_reducible first | assumption | simp only [keeps_mk]

theorem stopPart_keeps {s₀ s : State} (h₀ : Keeps s₀ s) (p : Part) (cause : W16) : Keeps s₀ (stopPart p cause s) := by
  unfold stopPart
  repeat' with_reducible first | assumption | apply stopOthers_keeps | apply State_modPart_keeps | dsimp only | split

theorem ctxDisable_keeps {s₀ s : State} (h₀ : Keeps s₀ s) (o : Nat) : Keeps s₀ (ctxDisable o s) := by
  unfold ctxDisable
  repeat' with_reducible first
    | assumption | apply State_setOwn_keeps | apply State_setQueue_keeps | apply undispatched_keeps | apply stopPart_keeps
    | apply finish_keeps | apply keeps_foldl | dsimp only | intro _ | split

theorem execCtxEnableClear_keeps {s₀ s : State} (h₀ : Keeps s₀ s) (o : Owner) : Done s₀ (execCtxEnableClear o s) := by
  unfold execCtxEnableClear
  repeat' with_reducible first | assumption | apply done_done | apply ctxDisable_keeps | split

theorem slotTake_keeps {s₀ s : State} (h₀ : Keeps s₀ s) (k : Nat) : Keeps s₀ (slotTake k s) := by
  unfold slotTake
  repeat' with_reducible first | assumption | apply State_setWell_keeps

theorem slotGive_keeps {s₀ s : State} (h₀ : Keeps s₀ s) (k : Nat) : Keeps s₀ (slotGive k s) := by
  unfold slotGive
  repeat' with_reducible first | assumption | apply State_setWell_keeps

theorem returnPart_keeps {s₀ s : State} (h₀ : Keeps s₀ s) (p : Part) : Keeps s₀ (returnPart p s) := by
  unfold returnPart
  repeat' with_reducible first | assumption | apply slotGive_keeps | apply keeps_foldl | simp only [keeps_mk] | intro _

theorem bindHandles_keeps {s₀ s : State} (h₀ : Keeps s₀ s) (p : Part) (by_ : Byte → Byte) : Keeps s₀ (bindHandles p by_ s) := by
  unfold bindHandles
  repeat' with_reducible first | assumption | apply keeps_setSync | apply keeps_foldl | dsimp only | intro _

theorem clearSlots_keeps {s₀ s : State} (h₀ : Keeps s₀ s) (o : Owner) : Keeps s₀ (clearSlots o s) := by
  unfold clearSlots
  repeat' with_reducible first | assumption | simp only [keeps_mk]

theorem drainDone_keeps {s₀ s : State} (h₀ : Keeps s₀ s) (o : Nat) : Keeps s₀ (drainDone o s) := by
  unfold drainDone
  repeat' with_reducible first
    | assumption | apply returnPart_keeps | apply unbindOwner_keeps | apply cacheDrop_keeps | apply keeps_setSync
    | apply clearSlots_keeps | apply State_setOwn_keeps | apply keeps_foldl | dsimp only | intro _

theorem execContextDrainDone_keeps {s₀ s : State} (h₀ : Keeps s₀ s) (o : Owner) : Done s₀ (execContextDrainDone o s) := by
  unfold execContextDrainDone
  repeat' with_reducible first | assumption | apply done_done | apply drainDone_keeps | split

theorem doorbell_keeps {s₀ s : State} (h₀ : Keeps s₀ s) (o : Nat) (k : Nat) (v : W32) : Keeps s₀ (doorbell o k v s) := by
  unfold doorbell
  repeat' with_reducible first | assumption | apply setCtxReason_keeps | apply State_setQueue_keeps | dsimp only | split

theorem execDoorbell_keeps {s₀ s : State} (h₀ : Keeps s₀ s) (o : Owner) (k : BitVec 3) (v : W32) : Done s₀ (execDoorbell o k v s)
    := by
  unfold execDoorbell
  repeat' with_reducible first | assumption | apply done_done | apply doorbell_keeps | split

theorem qEnable_keeps {s₀ s : State} (h₀ : Keeps s₀ s) (o : Nat) (k : Nat) (v : Bool) : Keeps s₀ (qEnable o k v s) := by
  unfold qEnable
  repeat' with_reducible first | assumption | apply State_setQueue_keeps | apply setCtxReason_keeps | dsimp only | split

theorem execQEnable_keeps {s₀ s : State} (h₀ : Keeps s₀ s) (o : Owner) (k : BitVec 3) (v : Bool) : Done s₀ (execQEnable o k v s)
    := by
  unfold execQEnable
  repeat' with_reducible first | assumption | apply done_done | apply qEnable_keeps | split

theorem slotRead__keeps {s₀ s : State} (h₀ : Keeps s₀ s) (o : Owner) (q : Queue) (h : HostBytes) : Keeps s₀ (slotRead_ o q h s).2
    := by
  unfold slotRead_
  repeat' with_reducible first | assumption | apply hbmRead_keeps | apply keeps_snd (by assumption) | dsimp only | split

theorem fetchFail_keeps {s₀ s : State} (h₀ : Keeps s₀ s) (o : Nat) (k : Nat) : Keeps s₀ (fetchFail o k s) := by
  unfold fetchFail
  repeat' with_reducible first | assumption | apply logErr_keeps | apply State_setQueue_keeps

theorem execRingSlotFetch_keeps {s₀ s : State} (h₀ : Keeps s₀ s) (o : Owner) (k : BitVec 3) (h : HostBytes) : Done s₀
    (execRingSlotFetch o k h s) := by
  unfold execRingSlotFetch
  repeat' with_reducible first
    | assumption | apply done_done | apply slotRead__keeps | apply fetchFail_keeps | apply State_setQueue_keeps
    | apply keeps_snd (by assumption) | split

theorem execOutboundReadTimeout_keeps {s₀ s : State} (h₀ : Keeps s₀ s) (o : Owner) (k : BitVec 3) : Done s₀
    (execOutboundReadTimeout o k s) := by
  unfold execOutboundReadTimeout
  repeat' with_reducible first | assumption | apply done_done | apply fetchFail_keeps | split

theorem execQStoppedClear_keeps {s₀ s : State} (h₀ : Keeps s₀ s) (o : Owner) (k : BitVec 3) : Done s₀ (execQStoppedClear o k s)
    := by
  unfold execQStoppedClear
  repeat' with_reducible first | assumption | apply done_done | apply State_setQueue_keeps

theorem execHeaderCheck_keeps {s₀ s : State} (h₀ : Keeps s₀ s) (o : Owner) (k : BitVec 3) : Done s₀ (execHeaderCheck o k s) := by
  unfold execHeaderCheck
  repeat' with_reducible first
    | assumption | apply done_done | apply State_setQueue_keeps | apply undispatched_keeps | dsimp only | split

theorem execCommandWaitSatisfied_keeps {s₀ s : State} (h₀ : Keeps s₀ s) (o : Owner) (k : BitVec 3) : Done s₀
    (execCommandWaitSatisfied o k s) := by
  unfold execCommandWaitSatisfied
  repeat' with_reducible first
    | assumption | apply done_done | apply State_setQueue_keeps | apply keeps_setSync | simp only [keeps_mk] | split

theorem sendCmd_keeps {s₀ s : State} (h₀ : Keeps s₀ s) (d : Disp) : Keeps s₀ (sendCmd d s) := by
  unfold sendCmd
  repeat' with_reducible first | assumption | apply State_setWell_keeps | apply sendX_keeps | dsimp only | split

theorem execCommandDispatch_keeps {s₀ s : State} (h₀ : Keeps s₀ s) (o : Owner) (k : BitVec 3) : Done s₀
    (execCommandDispatch o k s) := by
  unfold execCommandDispatch
  repeat' with_reducible first
    | assumption | apply done_done | apply State_setQueue_keeps | apply sendCmd_keeps | simp only [keeps_mk] | split

theorem execNop_keeps {s₀ s : State} (h₀ : Keeps s₀ s) (o : Owner) (k : BitVec 3) (n : W32) : Done s₀ (execNop o k n s) := by
  unfold execNop
  repeat' with_reducible first | assumption | apply done_done | apply finish_keeps | split

theorem execSyncSet_keeps {s₀ s : State} (h₀ : Keeps s₀ s) (o : Owner) (k : BitVec 3) (n : W32) : Done s₀ (execSyncSet o k n s)
    := by
  unfold execSyncSet
  repeat' with_reducible first
    | assumption | apply done_done | apply finish_keeps | apply keeps_setSync | dsimp only | split

theorem toHost_keeps {s₀ s : State} (h₀ : Keeps s₀ s) (o : Nat) (m : HostOut) : Keeps s₀ (toHost o m s) := by
  unfold toHost
  repeat' with_reducible first | assumption | apply sendX_keeps

theorem writeRecord_keeps {s₀ s : State} (h₀ : Keeps s₀ s) (o : Nat) (d : Disp) (r : Outc) (seq : W32) : Keeps s₀
    (writeRecord o d r seq s) := by
  unfold writeRecord
  repeat' with_reducible first
    | assumption | apply logErr_keeps | apply State_setOwn_keeps | apply toHost_keeps | apply hbmWrite_keeps
    | apply keeps_snd (by assumption) | dsimp only | split

theorem retire_keeps {s₀ s : State} (h₀ : Keeps s₀ s) (o : Nat) (d : Disp) (r : Outc) (seq : W32) : Keeps s₀ (retire o d r seq s)
    := by
  unfold retire
  repeat' with_reducible first | assumption | simp only [keeps_mk] | split

theorem cplInterrupt_keeps {s₀ s : State} (h₀ : Keeps s₀ s) (o : Nat) : Keeps s₀ (cplInterrupt o s) := by
  unfold cplInterrupt
  repeat' with_reducible first | assumption | apply sendX_keeps | apply toHost_keeps | split

theorem copyOver_keeps {s₀ s : State} (h₀ : Keeps s₀ s) (d : Disp) : Keeps s₀ (copyOver d s) := by
  unfold copyOver
  repeat' with_reducible first | assumption | apply State_setWell_keeps | dsimp only | split

theorem complete_keeps {s₀ s : State} (h₀ : Keeps s₀ s) (o : Nat) (d : Disp) (r : Outc) (seq : W32) : Keeps s₀
    (complete o d r seq s) := by
  unfold complete
  repeat' with_reducible first
    | assumption | apply copyOver_keeps | apply retire_keeps | apply writeRecord_keeps | apply incrNow_keeps
    | apply cplInterrupt_keeps | apply State_setQueue_keeps | dsimp only | split

theorem execCommandCompletion_keeps {s₀ s : State} (h₀ : Keeps s₀ s) (o : Owner) (k : BitVec 3) (n : W32) : Done s₀
    (execCommandCompletion o k n s) := by
  unfold execCommandCompletion
  repeat' with_reducible first | assumption | apply done_done | apply complete_keeps | simp only [keeps_mk] | split

-- The operations of Machine/Launch.lean

theorem launchKey_keeps {s₀ s : State} (h₀ : Keeps s₀ s) (c : Cmd) : KeepsOpt s₀ (launchKey c s) := by
  unfold launchKey
  repeat' with_reducible first
    | assumption | apply takeOut_keeps | apply hold_keeps | exact keepsOpt_none _ | apply keepsOpt_some | apply keepsOpt_map
    | apply keeps_opt (by assumption) | dsimp only | intro _ | split

theorem refuse_keeps {s₀ s : State} (h₀ : Keeps s₀ s) (id : CmdId) (r : W16) : Keeps s₀ (refuse id r s) := by
  unfold refuse
  repeat' with_reducible first | assumption | apply finish_keeps | apply setReason_keeps | split

theorem launchTake_keeps {s₀ s : State} (h₀ : Keeps s₀ s) (d : Disp) (h : HostBytes) : Keeps s₀ (launchTake d h s) := by
  unfold launchTake
  repeat' with_reducible first
    | assumption | apply finish_keeps | apply refuse_keeps | apply lmaRead_keeps | apply launchKey_keeps | apply modDisp_keeps
    | apply State_setPart_keeps | apply keeps_snd (by assumption) | apply keeps_opt (by assumption) | dsimp only | split

theorem execLaunch_keeps {s₀ s : State} (h₀ : Keeps s₀ s) (o : Owner) (k : BitVec 3) (n : W32) (h : HostBytes) : Done s₀
    (execLaunch o k n h s) := by
  unfold execLaunch
  repeat' with_reducible first | assumption | apply done_done | apply launchTake_keeps | split

theorem loadImage_keeps {s₀ : State} (c : Acc) (a : Nat) (n : Nat) (off : Nat) (opt : Bool) (h : HostBytes) (r
    : Except MemErr Stores × State) (h₀ : Keeps s₀ r.2) : Keeps s₀ (loadImage c a n off opt h r).2 := by
  obtain ⟨x, y⟩ := r
  unfold loadImage
  repeat' with_reducible first | assumption | apply lmaRead_keeps | apply keeps_snd (by assumption) | split

theorem loadPages_keeps {s₀ y6 : State} (h₀ : Keeps s₀ y6) (c : Acc) (exact : Bool) (h : HostBytes) (y3 : List (BitVec 24)) (y4
    : Stores) (y5 : KMap Frame) : Keeps s₀ (loadPages c exact h y3 y4 y5 y6).2 := by
  induction y3 generalizing y4 y5 y6 with
  | nil => exact h₀
  | cons a l ih =>
    unfold loadPages
    repeat' with_reducible first
      | assumption | apply ih | apply pageWalk_keeps | apply pageData_keeps | apply keeps_snd (by assumption)
      | dsimp only | split

theorem loadStores_keeps {s₀ s : State} (h₀ : Keeps s₀ s) (c : Acc) (r : LqRec) (exact : Bool) (h : HostBytes) : Keeps s₀
    (loadStores c r exact h s).2 := by
  unfold loadStores
  repeat' with_reducible first
    | assumption | apply loadImage_keeps | apply loadPages_keeps | apply keeps_snd (by assumption) | dsimp only | split

theorem placeLq_keeps {s₀ s : State} (h₀ : Keeps s₀ s) (p : Part) (l : Nat) (q : Option Nat) (t : Stores) (fs : KMap Frame)
    : Keeps s₀ (placeLq p l q t fs s) := by
  unfold placeLq
  repeat' with_reducible first | assumption | apply State_modLq_keeps | apply State_modPq_keeps | dsimp only | split

theorem loadLqs_keeps {s₀ y6 : State} (h₀ : Keeps s₀ y6) (p : Part) (exact : Bool) (h : HostBytes) (y3 : Nat) (y4 : Nat) (y5
    : List Nat) : Keeps s₀ (loadLqs p exact h y3 y4 y5 y6).2 := by
  induction y3 generalizing y4 y5 y6 with
  | zero => exact h₀
  | succ n ih =>
    unfold loadLqs
    repeat' with_reducible first
      | assumption | apply ih | apply loadStores_keeps | apply placeLq_keeps | apply keeps_snd (by assumption)
      | dsimp only | split

theorem keepPages_keeps {s₀ s : State} (h₀ : Keeps s₀ s) (p : Part) (l : Nat) : Keeps s₀ (keepPages p l s) := by
  unfold keepPages
  repeat' with_reducible first | assumption | apply State_modLq_keeps | simp only [keeps_mk]

theorem dropLaunch_keeps {s₀ s : State} (h₀ : Keeps s₀ s) (p : Part) (r : Outc) : Keeps s₀ (dropLaunch p r s) := by
  unfold dropLaunch
  repeat' with_reducible first
    | assumption | apply bindHandles_keeps | apply finish_keeps | apply State_modPart_keeps | apply returnPart_keeps
    | dsimp only | split

theorem sendKeys_keeps {s₀ s : State} (h₀ : Keeps s₀ s) (p : Part) : Keeps s₀ (sendKeys p s) := by
  unfold sendKeys
  repeat' with_reducible first | assumption | apply sendX_keeps | apply keeps_foldl | intro _ | split

theorem setUpLaunch_keeps {s₀ s : State} (h₀ : Keeps s₀ s) (p : Part) : Keeps s₀ (setUpLaunch p s) := by
  unfold setUpLaunch
  repeat' with_reducible first
    | assumption | apply dropLaunch_keeps | apply sendKeys_keeps | apply bindHandles_keeps | apply State_setPart_keeps
    | dsimp only | split

theorem launchPlace_keeps {s₀ s : State} (h₀ : Keeps s₀ s) (p : Part) (h : HostBytes) : Keeps s₀ (launchPlace p h s) := by
  unfold launchPlace
  repeat' with_reducible first
    | assumption | apply dropLaunch_keeps | apply setUpLaunch_keeps | apply keepPages_keeps | apply loadLqs_keeps
    | apply keeps_foldl | apply keeps_snd (by assumption) | dsimp only | intro _ | split

theorem execLaunchPlace_keeps {s₀ s : State} (h₀ : Keeps s₀ s) (o : Owner) (pid : BitVec 6) (h : HostBytes) : Done s₀
    (execLaunchPlace o pid h s) := by
  unfold execLaunchPlace
  repeat' with_reducible first | assumption | apply done_done | apply launchPlace_keeps | split

theorem lsLaunch_keeps {s₀ s : State} (h₀ : Keeps s₀ s) (p : Part) : Keeps s₀ (lsLaunch p s) := by
  unfold lsLaunch
  repeat' with_reducible first | assumption | simp only [keeps_mk] | split

theorem setRunning_keeps {s₀ s : State} (h₀ : Keeps s₀ s) (p : Part) (b : Bool) : Keeps s₀ (setRunning p b s) := by
  unfold setRunning
  repeat' with_reducible first | assumption | simp only [keeps_mk]

theorem nnStart_keeps {s₀ s : State} (h₀ : Keeps s₀ s) (p : Part) : Keeps s₀ (nnStart p s) := by
  unfold nnStart
  repeat' with_reducible first
    | assumption | apply State_modPq_keeps | apply State_modPart_keeps | apply keeps_foldl | dsimp only | intro _
    | split

theorem launchStart_keeps {s₀ s : State} (h₀ : Keeps s₀ s) (p : Part) : Keeps s₀ (launchStart p s) := by
  unfold launchStart
  repeat' with_reducible first
    | assumption | apply State_setPart_keeps | apply modDisp_keeps | apply nnStart_keeps | apply lsLaunch_keeps
    | apply setRunning_keeps

theorem execLaunchTick_keeps {s₀ s : State} (h₀ : Keeps s₀ s) (o : Owner) (pid : BitVec 6) : Done s₀ (execLaunchTick o pid s) := by
  unfold execLaunchTick
  repeat' with_reducible first | assumption | apply done_done | apply launchStart_keeps | split

theorem execAgreedCountMissed_keeps {s₀ s : State} (h₀ : Keeps s₀ s) (o : Owner) (pid : BitVec 6) : Done s₀
    (execAgreedCountMissed o pid s) := by
  unfold execAgreedCountMissed
  repeat' with_reducible first | assumption | apply done_done | apply dropLaunch_keeps | split

-- The operations of Machine/Sweep.lean

theorem endBoundary_keeps {s₀ s : State} (h₀ : Keeps s₀ s) (id : PartId) : Keeps s₀ (endBoundary id s) := by
  unfold endBoundary
  repeat' with_reducible first | assumption | apply finish_keeps | apply keeps_foldl | intro _ | split

theorem setReplica_keeps {s₀ s : State} (h₀ : Keeps s₀ s) (id : PartId) (v : BitVec 6) : Keeps s₀ (setReplica id v s) := by
  unfold setReplica
  repeat' with_reducible first | assumption | apply State_modPart_keeps

theorem exchangeEnd_keeps {s₀ s : State} (h₀ : Keeps s₀ s) (d : Disp) (x : ExSt) (r : Outc) : Keeps s₀ (exchangeEnd d x r s) := by
  unfold exchangeEnd
  repeat' with_reducible first | assumption | apply setReplica_keeps | apply finish_keeps | apply keeps_foldl | intro _

theorem abortExchanges_keeps {s₀ s : State} (h₀ : Keeps s₀ s) (id : PartId) : Keeps s₀ (abortExchanges id s) := by
  unfold abortExchanges
  repeat' with_reducible first
    | assumption | apply draw_keeps | apply exchangeEnd_keeps | apply keeps_foldl | dsimp only | intro _ | split

theorem finishStops_keeps {s₀ s : State} (h₀ : Keeps s₀ s) (id : PartId) : Keeps s₀ (finishStops id s) := by
  unfold finishStops
  repeat' with_reducible first | assumption | apply finish_keeps | apply keeps_foldl | intro _

theorem completeLaunch_keeps {s₀ s : State} (h₀ : Keeps s₀ s) (p : Part) (r : Outc) : Keeps s₀ (completeLaunch p r s) := by
  unfold completeLaunch
  repeat' with_reducible first
    | assumption | apply finish_keeps | apply modDisp_keeps | apply setRunning_keeps | apply bindHandles_keeps
    | apply dropWaits_keeps | apply finishStops_keeps | apply abortExchanges_keeps | apply endBoundary_keeps
    | apply returnPart_keeps | apply State_modPart_keeps | dsimp only | split

theorem execEndReportReceive_keeps {s₀ s : State} (h₀ : Keeps s₀ s) : Done s₀ (execEndReportReceive s) := by
  unfold execEndReportReceive
  repeat' with_reducible first
    | assumption | apply done_done | apply inboxTake_keeps | apply completeLaunch_keeps | apply keeps_opt (by assumption) | split

theorem execLaunchFaultDrained_keeps {s₀ s : State} (h₀ : Keeps s₀ s) (o : Owner) (pid : BitVec 6) : Done s₀
    (execLaunchFaultDrained o pid s) := by
  unfold execLaunchFaultDrained
  repeat' with_reducible first | assumption | apply done_done | apply completeLaunch_keeps | split

theorem execStop_keeps {s₀ s : State} (h₀ : Keeps s₀ s) (o : Owner) (k : BitVec 3) (n : W32) : Done s₀ (execStop o k n s) := by
  unfold execStop
  repeat' with_reducible first
    | assumption | apply done_done | apply finish_keeps | apply stopPart_keeps | apply modDisp_keeps | split

theorem execRelease_keeps {s₀ s : State} (h₀ : Keeps s₀ s) (o : Owner) (k : BitVec 3) (n : W32) : Done s₀ (execRelease o k n s)
    := by
  unfold execRelease
  repeat' with_reducible first | assumption | apply done_done | apply finish_keeps | apply returnPart_keeps | split

theorem exchangeTake_keeps {s₀ s : State} (h₀ : Keeps s₀ s) (d : Disp) (h : HostBytes) : Keeps s₀ (exchangeTake d h s) := by
  unfold exchangeTake
  repeat' with_reducible first
    | assumption | apply finish_keeps | apply lmaRead_keeps | apply modDisp_keeps | apply setReplica_keeps | apply keeps_foldl
    | apply keeps_snd (by assumption) | dsimp only | intro _ | split

theorem execExchange_keeps {s₀ s : State} (h₀ : Keeps s₀ s) (o : Owner) (k : BitVec 3) (n : W32) (h : HostBytes) : Done s₀
    (execExchange o k n h s) := by
  unfold execExchange
  repeat' with_reducible first | assumption | apply done_done | apply exchangeTake_keeps | split

theorem storeRead_keeps {s₀ s : State} (h₀ : Keeps s₀ s) (id : LqId) (off : Nat) (n : Nat) (ag : Agent) : Keeps s₀
    (storeRead id off n ag s).2 := by
  unfold storeRead
  repeat' with_reducible first | assumption | apply eccNote_keeps | apply logErr_keeps | dsimp only | split

theorem energyOf_keeps {s₀ y4 : State} (h₀ : Keeps s₀ y4) (p : Part) (y1 : Nat) (y2 : Nat) (y3 : W64) : Keeps s₀
    (energyOf p y1 y2 y3 y4).2 := by
  induction y1 generalizing y2 y3 y4 with
  | zero => exact h₀
  | succ n ih =>
    unfold energyOf
    repeat' with_reducible first | assumption | apply ih | apply storeRead_keeps | apply keeps_snd (by assumption) | split

theorem betaOf_keeps {s₀ s : State} (h₀ : Keeps s₀ s) (p : Part) : Keeps s₀ (betaOf p s).2 := by
  unfold betaOf
  repeat' with_reducible first | assumption | apply logErr_keeps | apply State_modPq_keeps | dsimp only | split

theorem replicaRead_keeps {s₀ s : State} (h₀ : Keeps s₀ s) (p : Part) (paired : Bool) : Keeps s₀ (replicaRead p paired s).2 := by
  unfold replicaRead
  repeat' with_reducible first | assumption | apply energyOf_keeps | apply betaOf_keeps | apply keeps_snd (by assumption) | split

theorem replicasRead_keeps {s₀ y3 : State} (h₀ : Keeps s₀ y3) (paired : Nat → Bool) (y1 : Nat) (y2 : List Part) : Keeps s₀
    (replicasRead paired y1 y2 y3).2 := by
  induction y2 generalizing y1 y3 with
  | nil => exact h₀
  | cons a l ih =>
    unfold replicasRead
    repeat' with_reducible first | assumption | apply ih | apply replicaRead_keeps | apply keeps_snd (by assumption) | split

theorem swapPtr_keeps {s₀ s : State} (h₀ : Keeps s₀ s) (pa : Part) (pb : Part) : Keeps s₀ (swapPtr pa pb s) := by
  unfold swapPtr
  repeat' with_reducible first | assumption | apply State_modPart_keeps

theorem swapPair_keeps {s₀ : State} (x : ExSt) (n : Nat) (ps : List (Part × W64 × W16)) (r : Nat × State) (a : Nat)
    (h₀ : Keeps s₀ r.2) : Keeps s₀ (swapPair x n ps r a).2 := by
  unfold swapPair
  repeat' first | with_reducible assumption | with_reducible apply swapPtr_keeps | split

theorem exchangeRound_keeps {s₀ s : State} (h₀ : Keeps s₀ s) (d : Disp) (x : ExSt) (ps : List Part) : Keeps s₀
    (exchangeRound d x ps s) := by
  unfold exchangeRound
  repeat' with_reducible first
    | assumption | apply replicasRead_keeps | apply exchangeEnd_keeps | apply swapPair_keeps | apply incrNow_keeps
    | apply modDisp_keeps | apply keeps_foldl | apply keeps_foldl_snd | apply keeps_snd (by assumption) | dsimp only
    | intro _ | split

theorem execExchangeRound_keeps {s₀ s : State} (h₀ : Keeps s₀ s) (o : Owner) (k : BitVec 3) (n : W32) (y3 : HostBytes) : Done s₀
    (execExchangeRound o k n y3 s) := by
  unfold execExchangeRound
  repeat' with_reducible first | assumption | apply done_done | apply exchangeRound_keeps | split

theorem swapBegin_keeps {s₀ s : State} (h₀ : Keeps s₀ s) (q : Nat) (next : LqId) (n : Nat) : Keeps s₀ (swapBegin q next n s) := by
  unfold swapBegin
  repeat' with_reducible first | assumption | apply slotTake_keeps | apply State_modPq_keeps | apply State_modPart_keeps

theorem swapOut_keeps {s₀ s : State} (h₀ : Keeps s₀ s) (q : Nat) (id : LqId) (next : LqId) : Keeps s₀ (swapOut q id next s) := by
  unfold swapOut
  repeat' with_reducible first | assumption | apply State_modLq_keeps | apply swapBegin_keeps | apply State_modPq_keeps

theorem quillSwap_keeps {s₀ s : State} (h₀ : Keeps s₀ s) (q : Nat) : Keeps s₀ (quillSwap q s) := by
  unfold quillSwap
  repeat' with_reducible first | assumption | apply swapOut_keeps | apply swapBegin_keeps | dsimp only | split

theorem execQuillSwap_keeps {s₀ s : State} (h₀ : Keeps s₀ s) (q : Byte) : Done s₀ (execQuillSwap q s) := by
  unfold execQuillSwap
  repeat' with_reducible first | assumption | apply done_done | apply quillSwap_keeps

theorem swapIn_keeps {s₀ s : State} (h₀ : Keeps s₀ s) (q : Nat) (id : LqId) : Keeps s₀ (swapIn q id s) := by
  unfold swapIn
  repeat' with_reducible first | assumption | apply State_modPq_keeps | apply State_modLq_keeps | dsimp only | split

theorem swapLines_keeps {s₀ y2 : State} (h₀ : Keeps s₀ y2) (q : Nat) (y1 : Nat) : Keeps s₀ (swapLines q y1 y2) := by
  induction y1 generalizing y2 with
  | zero => exact h₀
  | succ n ih =>
    unfold swapLines
    repeat' with_reducible first | assumption | apply ih | apply swapLine_keeps | split

theorem swapEnd_keeps {s₀ s : State} (h₀ : Keeps s₀ s) (q : Nat) : Keeps s₀ (swapEnd q s) := by
  unfold swapEnd
  repeat' with_reducible first | assumption | apply swapIn_keeps | apply slotGive_keeps | split

theorem execSwapComplete_keeps {s₀ s : State} (h₀ : Keeps s₀ s) (q : Byte) : Done s₀ (execSwapComplete q s) := by
  unfold execSwapComplete
  repeat' with_reducible first | assumption | apply done_done | apply swapEnd_keeps | apply swapLines_keeps

theorem execQuillMove_keeps {s₀ s : State} (h₀ : Keeps s₀ s) (q : Byte) (q' : Byte) : Done s₀ (execQuillMove q q' s) := by
  unfold execQuillMove
  repeat' with_reducible first
    | assumption | apply done_done | apply State_modPq_keeps | apply State_modLq_keeps | dsimp only | split

-- The operations of Machine/Engines.lean

theorem logUnmapped_keeps {s₀ s : State} (h₀ : Keeps s₀ s) (c : Acc) (e : MemErr) : Keeps s₀ (logUnmapped c e s) := by
  unfold logUnmapped
  repeat' with_reducible first | assumption | apply logErr_keeps | split

theorem copyRead_keeps {s₀ s : State} (h₀ : Keeps s₀ s) (c : Acc) (e : CopyEnd) (h : HostBytes) : Keeps s₀ (copyRead c e h s).2
    := by
  unfold copyRead
  repeat' with_reducible first
    | assumption | apply lmaRead_keeps | apply logUnmapped_keeps | apply hbmRead_keeps | apply hostPart_keeps
    | apply storeRead_keeps | apply keeps_snd (by assumption) | split

theorem copyWrite_keeps {s₀ s : State} (h₀ : Keeps s₀ s) (c : Acc) (e : CopyEnd) (d : List Byte) : Keeps s₀ (copyWrite c e d s).2
    := by
  unfold copyWrite
  repeat' with_reducible first
    | assumption | apply lmaWrite_keeps | apply logUnmapped_keeps | apply hbmWrite_keeps | apply hostWrite_keeps
    | apply extWrite_keeps | apply modStores_keeps | apply keeps_snd (by assumption) | split

theorem copyLine_keeps {s₀ s : State} (h₀ : Keeps s₀ s) (c : Acc) (src : CopyEnd) (dst : CopyEnd) (h : HostBytes) : Keeps s₀
    (copyLine c src dst h s).2 := by
  unfold copyLine
  repeat' with_reducible first | assumption | apply copyRead_keeps | apply copyWrite_keeps | apply keeps_snd (by assumption) | split

theorem copyEnds_keeps {s₀ s : State} (h₀ : Keeps s₀ s) (d : Disp) (x : Xfer) (r : Outc) : Keeps s₀ (copyEnds d x r s) := by
  unfold copyEnds
  repeat' with_reducible first
    | assumption | apply Xfer_stop_keeps | apply State_setWell_keeps | apply finish_keeps | apply modDisp_keeps

theorem copyChunk_keeps {s₀ s : State} (h₀ : Keeps s₀ s) (d : Disp) (x : Xfer) (n : Nat) : Keeps s₀ (copyChunk d x n s).2 := by
  unfold copyChunk
  repeat' with_reducible first | assumption | apply Xfer_start_keeps | dsimp only | split

theorem copyLines_keeps {s₀ s : State} (h₀ : Keeps s₀ s) (d : Disp) (c : Acc) (src dst : CopyEnd) (n : Nat) (h : HostBytes)
    (k : Nat) (x : Xfer) : Keeps s₀ (copyLines d c src dst n h k x s) := by
  induction k generalizing x s with
  | zero => exact modDisp_keeps h₀ _ _
  | succ k ih =>
    unfold copyLines
    repeat' first
      | with_reducible assumption | with_reducible apply ih | with_reducible apply modDisp_keeps
      | with_reducible apply copyEnds_keeps | with_reducible apply State_setWell_keeps | with_reducible apply lineMoved_keeps
      | with_reducible apply copyChunk_keeps | with_reducible apply copyLine_keeps
      | with_reducible apply keeps_snd (by assumption) | dsimp only | split

theorem copyGo_keeps {s₀ s : State} (h₀ : Keeps s₀ s) (d : Disp) (x : Xfer) (h : HostBytes) : Keeps s₀ (copyGo d x h s) := by
  unfold copyGo
  repeat' with_reducible first | assumption | apply copyLines_keeps | apply copyEnds_keeps | dsimp only | split

theorem copyTake_keeps {s₀ s : State} (h₀ : Keeps s₀ s) (d : Disp) (h : HostBytes) : Keeps s₀ (copyTake d h s) := by
  unfold copyTake
  repeat' with_reducible first
    | assumption | apply refuse_keeps | apply State_setWell_keeps | apply copyGo_keeps | apply modDisp_keeps
    | dsimp only | split

theorem execCopy_keeps {s₀ s : State} (h₀ : Keeps s₀ s) (o : Owner) (k : BitVec 3) (n : W32) (h : HostBytes) : Done s₀
    (execCopy o k n h s) := by
  unfold execCopy
  repeat' with_reducible first | assumption | apply done_done | apply copyTake_keeps | apply copyGo_keeps | split

theorem tagsClear_keeps {s₀ y3 : State} (h₀ : Keeps s₀ y3) (o : Owner) (y1 : Nat) (y2 : Nat) : Keeps s₀ (tagsClear o y1 y2 y3).2
    := by
  induction y1 generalizing y2 y3 with
  | zero => exact h₀
  | succ n ih =>
    unfold tagsClear
    repeat' with_reducible first | assumption | apply ih | apply hcClear_keeps | apply keeps_snd (by assumption) | split

theorem pageForget_keeps {s₀ s : State} (h₀ : Keeps s₀ s) (o : Owner) (p : Nat) (n : Nat) : Keeps s₀ (pageForget o p n s).2 := by
  unfold pageForget
  repeat' with_reducible first | assumption | apply cacheDrop_keeps | apply tagsClear_keeps | dsimp only | split

theorem execPageInval_keeps {s₀ s : State} (h₀ : Keeps s₀ s) (o : Owner) (k : BitVec 3) (n : W32) : Done s₀
    (execPageInval o k n s) := by
  unfold execPageInval
  repeat' with_reducible first
    | assumption | apply done_done | apply refuse_keeps | apply pageForget_keeps | apply finish_keeps
    | apply keeps_snd (by assumption) | dsimp only | split

theorem execPlantBind_keeps {s₀ s : State} (h₀ : Keeps s₀ s) (o : Owner) (k : BitVec 3) (n : W32) : Done s₀
    (execPlantBind o k n s) := by
  unfold execPlantBind
  repeat' with_reducible first
    | assumption | apply done_done | apply finish_keeps | apply setReason_keeps | apply unbindEv_keeps | apply unbindDec_keeps
    | apply bindMailboxes_keeps | dsimp only | split

theorem execPlantArm_keeps {s₀ s : State} (h₀ : Keeps s₀ s) (o : Owner) (k : BitVec 3) (n : W32) : Done s₀ (execPlantArm o k n s)
    := by
  unfold execPlantArm
  repeat' with_reducible first
    | assumption | apply done_done | apply finish_keeps | apply disarmMask_keeps | apply setReason_keeps | apply armMask_keeps
    | dsimp only | split

-- The operations of Machine/Coll.lean

theorem tieSeed_keeps {s₀ s : State} (h₀ : Keeps s₀ s) (o : Owner) (bs : List Byte) : Keeps s₀ (tieSeed o bs s).2 := by
  unfold tieSeed
  repeat' with_reducible first | assumption | apply draw_keeps | split

theorem logSort_keeps {s₀ s : State} (h₀ : Keeps s₀ s) (c : Acc) (e : MemErr) : Keeps s₀ (logSort c e s) := by
  unfold logSort
  repeat' with_reducible first | assumption | apply logErr_keeps | split

theorem scramble_keeps {s₀ s : State} (h₀ : Keeps s₀ s) (c : Acc) (a : Nat) (n : Nat) : Keeps s₀ (scramble c a n s) := by
  unfold scramble
  repeat' with_reducible first | assumption | apply drawN_keeps | apply lmaWrite_keeps | simp only [keeps_mk]

theorem sortFault_keeps {s₀ s : State} (h₀ : Keeps s₀ s) (d : Disp) (c : Acc) (e : MemErr) : Keeps s₀ (sortFault d c e s) := by
  unfold sortFault
  repeat' with_reducible first | assumption | apply finish_keeps | apply scramble_keeps | apply logSort_keeps

theorem sortTake_keeps {s₀ s : State} (h₀ : Keeps s₀ s) (d : Disp) : Keeps s₀ (sortTake d s) := by
  unfold sortTake
  repeat' with_reducible first
    | assumption | apply finish_keeps | apply setReason_keeps | apply modDisp_keeps | apply scramble_keeps | dsimp only
    | split

theorem sortRun_keeps {s₀ s : State} (h₀ : Keeps s₀ s) (d : Disp) (h : HostBytes) : Keeps s₀ (sortRun d h s) := by
  unfold sortRun
  repeat' with_reducible first
    | assumption | apply lmaRead_keeps | apply sortFault_keeps | apply tieSeed_keeps | apply lmaWrite_keeps | apply finish_keeps
    | apply keeps_snd (by assumption) | dsimp only | split

theorem execSort_keeps {s₀ s : State} (h₀ : Keeps s₀ s) (o : Owner) (k : BitVec 3) (n : W32) (h : HostBytes) : Done s₀
    (execSort o k n h s) := by
  unfold execSort
  repeat' with_reducible first | assumption | apply done_done | apply sortTake_keeps | apply sortRun_keeps | split

theorem State_setGrp_keeps {s₀ s : State} (h₀ : Keeps s₀ s) (g : Nat) (x : Grp) : Keeps s₀ (State.setGrp s g x) := by
  unfold State.setGrp
  repeat' with_reducible first | assumption | simp only [keeps_mk]

theorem grpWrite_keeps {s₀ s : State} (h₀ : Keeps s₀ s) (g : Nat) (v : Bool) : Keeps s₀ (grpWrite g v s) := by
  unfold grpWrite
  repeat' with_reducible first
    | assumption | apply State_setGrp_keeps | apply checked_keeps | dsimp only | intro _ | split

theorem execCollGrpValid_keeps {s₀ s : State} (h₀ : Keeps s₀ s) (g : BitVec 4) (v : Bool) : Done s₀ (execCollGrpValid g v s) := by
  unfold execCollGrpValid
  repeat' with_reducible first | assumption | apply done_done | apply grpWrite_keeps

theorem ctlReceive_keeps {s₀ s : State} (h₀ : Keeps s₀ s) (g : BitVec 4) (src : Byte) (fields : W64) : Keeps s₀
    (ctlReceive g src fields s) := by
  unfold ctlReceive
  repeat' with_reducible first | assumption | apply State_setGrp_keeps | dsimp only | split

theorem execCollCtlReceive_keeps {s₀ s : State} (h₀ : Keeps s₀ s) (g : BitVec 4) (src : Byte) (fields : W64) : Done s₀
    (execCollCtlReceive g src fields s) := by
  unfold execCollCtlReceive
  repeat' with_reducible first | assumption | apply done_done | apply ctlReceive_keeps

theorem collEnd_keeps {s₀ s : State} (h₀ : Keeps s₀ s) (d : Disp) (r : Outc) : Keeps s₀ (collEnd d r s) := by
  unfold collEnd
  repeat' with_reducible first | assumption | apply State_setGrp_keeps | apply finish_keeps

theorem sendCtl_keeps {s₀ s : State} (h₀ : Keeps s₀ s) (d : Disp) : Keeps s₀ (sendCtl d s) := by
  unfold sendCtl
  repeat' with_reducible first | assumption | apply sendC2k_keeps | dsimp only | split

theorem issueReq_keeps {s₀ s : State} (h₀ : Keeps s₀ s) (id : CmdId) (c : Nat) (wr : Bool) (a : Dpa) (len : Nat) (data
    : List Byte) : Keeps s₀ (issueReq id c wr a len data s) := by
  unfold issueReq
  repeat' with_reducible first | assumption | apply sendC2k_keeps | simp only [keeps_mk] | split

theorem collAsk_keeps {s₀ s : State} (h₀ : Keeps s₀ s) (d : Disp) (x : CollCmd) : Keeps s₀ (collAsk d x s) := by
  unfold collAsk
  repeat' with_reducible first | assumption | apply draw_keeps | apply issueReq_keeps | dsimp only | split

theorem collTake_keeps {s₀ s : State} (h₀ : Keeps s₀ s) (d : Disp) (op : Nat) (body : CollCmd → Acc → State → Option
    (Outc × State)) (hbody : ∀ (x0 : CollCmd) (x1 : Acc) (x2 : State), Keeps s₀ x2 → KeepsOpt s₀ (body x0 x1 x2)) : Keeps s₀
    (collTake d op body s) := by
  unfold collTake
  repeat' with_reducible first
    | assumption | apply finish_keeps | apply setReason_keeps | apply modDisp_keeps | apply sendCtl_keeps | apply collEnd_keeps
    | apply logErr_keeps | apply collAsk_keeps | apply hbody | apply keeps_opt (by assumption) | dsimp only | split

theorem collUndef_keeps {s₀ s : State} (h₀ : Keeps s₀ s) (d : Disp) : Keeps s₀ (collUndef d s) := by
  unfold collUndef
  repeat' with_reducible first | assumption | apply finish_keeps | apply setReason_keeps | split

theorem collData_keeps {s₀ s : State} (h₀ : Keeps s₀ s) (x : CollCmd) (c : Acc) (n : Nat) (h : HostBytes) (f
    : List Byte → State → Option (List Byte)) : KeepsOpt s₀ (collData x c n h f s) := by
  unfold collData
  repeat' with_reducible first
    | assumption | apply lmaRead_keeps | apply logSort_keeps | apply lmaWrite_keeps | exact keepsOpt_none _ | apply keepsOpt_some
    | apply keepsOpt_mapVal | apply keeps_snd (by assumption) | intro _ | split

theorem execAllReduce_keeps {s₀ s : State} (h₀ : Keeps s₀ s) (o : Owner) (k : BitVec 3) (n : W32) (h : HostBytes) (peers : List
    (List Byte)) : Done s₀ (execAllReduce o k n h peers s) := by
  unfold execAllReduce
  repeat' with_reducible first
    | assumption | apply done_done | apply collUndef_keeps | apply collTake_keeps | apply collData_keeps | intro _ | split

theorem execAllGather_keeps {s₀ s : State} (h₀ : Keeps s₀ s) (o : Owner) (k : BitVec 3) (n : W32) (h : HostBytes) (peers : List
    (List Byte)) : Done s₀ (execAllGather o k n h peers s) := by
  unfold execAllGather
  repeat' with_reducible first | assumption | apply done_done | apply collTake_keeps | apply collData_keeps | intro _ | split

theorem execBroadcast_keeps {s₀ s : State} (h₀ : Keeps s₀ s) (o : Owner) (k : BitVec 3) (n : W32) (h : HostBytes) (peers : List
    (List Byte)) : Done s₀ (execBroadcast o k n h peers s) := by
  unfold execBroadcast
  repeat' with_reducible first
    | assumption | apply done_done | apply collTake_keeps | apply collData_keeps | dsimp only | intro _ | split

theorem execBarrier_keeps {s₀ s : State} (h₀ : Keeps s₀ s) (o : Owner) (k : BitVec 3) (n : W32) : Done s₀ (execBarrier o k n s)
    := by
  unfold execBarrier
  repeat' with_reducible first | assumption | apply done_done | apply collTake_keeps | apply keepsOpt_some | intro _ | split

theorem sampleSort_keeps {s₀ s : State} (h₀ : Keeps s₀ s) (x : CollCmd) (c : Acc) (h : HostBytes) (peers : List (List Byte))
    : KeepsOpt s₀ (sampleSort x c h peers s) := by
  unfold sampleSort
  repeat' with_reducible first
    | assumption | apply lmaRead_keeps | apply logSort_keeps | apply tieSeed_keeps | apply drawN_keeps | apply lmaWrite_keeps
    | exact keepsOpt_none _ | apply keepsOpt_some | apply keeps_snd (by assumption) | dsimp only | split

theorem execSampleSort_keeps {s₀ s : State} (h₀ : Keeps s₀ s) (o : Owner) (k : BitVec 3) (n : W32) (h : HostBytes) (peers : List
    (List Byte)) : Done s₀ (execSampleSort o k n h peers s) := by
  unfold execSampleSort
  repeat' with_reducible first | assumption | apply done_done | apply collTake_keeps | apply sampleSort_keeps | intro _ | split

theorem sortWrite_keeps {s₀ s : State} (h₀ : Keeps s₀ s) (off : Nat) (v : W32) : Keeps s₀ (sortWrite off v s) := by
  unfold sortWrite
  repeat' with_reducible first | assumption | apply grpWrite_keeps | apply State_setGrp_keeps | dsimp only | split

-- The operations of Machine/Debug.lean

theorem wireAns_keeps {s₀ s : State} (h₀ : Keeps s₀ s) (coll : Bool) (st : RspSt) (d : BitVec 512) : Keeps s₀
    (wireAns coll st d s) := by
  unfold wireAns
  repeat' with_reducible first | assumption | apply logErr_keeps | apply ans_keeps | simp only [keeps_mk] | split

theorem execWakePulse_keeps {s₀ s : State} (h₀ : Keeps s₀ s) : Done s₀ (execWakePulse s) := by
  unfold execWakePulse
  repeat' with_reducible first | assumption | apply done_done | simp only [keeps_mk]

theorem execWake_keeps {s₀ s : State} (h₀ : Keeps s₀ s) (arg : Byte) : Done s₀ (execWake arg s) := by
  unfold execWake
  repeat' with_reducible first | assumption | apply done_done | simp only [keeps_mk] | split

theorem sessionEnd_keeps {s₀ s : State} (h₀ : Keeps s₀ s) : Keeps s₀ (sessionEnd s) := by
  unfold sessionEnd
  repeat' with_reducible first | assumption | simp only [keeps_mk]

theorem execSleep_keeps {s₀ s : State} (h₀ : Keeps s₀ s) : Done s₀ (execSleep s) := by
  unfold execSleep
  repeat' with_reducible first | assumption | apply done_done | apply sessionEnd_keeps | simp only [keeps_mk] | split

theorem execSessionTimeout_keeps {s₀ s : State} (h₀ : Keeps s₀ s) : Done s₀ (execSessionTimeout s) := by
  unfold execSessionTimeout
  repeat' with_reducible first | assumption | apply done_done | apply sessionEnd_keeps

theorem execWireFrameError_keeps {s₀ s : State} (h₀ : Keeps s₀ s) : Done s₀ (execWireFrameError s) := by
  unfold execWireFrameError
  repeat' with_reducible first | assumption | apply done_done | apply logErr_keeps | simp only [keeps_mk] | split

theorem execRestingLevelChange_keeps {s₀ s : State} (h₀ : Keeps s₀ s) (level : Bool) : Done s₀ (execRestingLevelChange level s)
    := by
  unfold execRestingLevelChange
  repeat' with_reducible first | assumption | apply done_done | simp only [keeps_mk]

theorem execIdcode_keeps {s₀ s : State} (h₀ : Keeps s₀ s) (coll : Bool) : Done s₀ (execIdcode coll s) := by
  unfold execIdcode
  repeat' with_reducible first | assumption | apply done_done | apply wireAns_keeps | split

theorem wireRefuse_keeps {s₀ s : State} (h₀ : Keeps s₀ s) (coll : Bool) (r : W16) : Keeps s₀ (wireRefuse coll r s) := by
  unfold wireRefuse
  repeat' with_reducible first | assumption | apply wireAns_keeps | apply setReason_keeps

theorem execHalt_keeps {s₀ s : State} (h₀ : Keeps s₀ s) (m : Byte) (coll : Bool) : Done s₀ (execHalt m coll s) := by
  unfold execHalt
  repeat' with_reducible first | assumption | apply done_done | apply wireAns_keeps | apply xtFire_keeps | split

theorem execResume_keeps {s₀ s : State} (h₀ : Keeps s₀ s) (m : Byte) (coll : Bool) : Done s₀ (execResume m coll s) := by
  unfold execResume
  repeat' with_reducible first | assumption | apply done_done | apply wireAns_keeps | apply sendXt_keeps | split

theorem resumeCore_keeps {s₀ s : State} (h₀ : Keeps s₀ s) (c : Nat) (stepping : Bool) : Keeps s₀ (resumeCore c stepping s) := by
  unfold resumeCore
  repeat' with_reducible first | assumption | apply State_setDcore_keeps | apply State_setCore_keeps

theorem execStep_keeps {s₀ s : State} (h₀ : Keeps s₀ s) (c : Byte) (coll : Bool) : Done s₀ (execStep c coll s) := by
  unfold execStep
  repeat' with_reducible first
    | assumption | apply done_done | apply wireRefuse_keeps | apply wireAns_keeps | apply resumeCore_keeps | split

theorem execVtrd_keeps {s₀ s : State} (h₀ : Keeps s₀ s) (coll : Bool) : Done s₀ (execVtrd coll s) := by
  unfold execVtrd
  repeat' with_reducible first
    | assumption | apply done_done | apply wireRefuse_keeps | apply wireAns_keeps | simp only [keeps_mk] | split

theorem execVtwr_keeps {s₀ s : State} (h₀ : Keeps s₀ s) (v : W32) (coll : Bool) : Done s₀ (execVtwr v coll s) := by
  unfold execVtwr
  repeat' with_reducible first
    | assumption | apply done_done | apply wireRefuse_keeps | apply wireAns_keeps | simp only [keeps_mk] | split

theorem execWireAccessTimeout_keeps {s₀ s : State} (h₀ : Keeps s₀ s) : Done s₀ (execWireAccessTimeout s) := by
  unfold execWireAccessTimeout
  repeat' with_reducible first | assumption | apply done_done | apply logErr_keeps | apply ans_keeps | split

theorem execDbgXtFire_keeps {s₀ s : State} (h₀ : Keeps s₀ s) (ag : Agent) (m : Byte) : Done s₀ (execDbgXtFire ag m s) := by
  unfold execDbgXtFire
  repeat' with_reducible first | assumption | apply done_done | apply xtFire_keeps

theorem execDbgXtResume_keeps {s₀ s : State} (h₀ : Keeps s₀ s) (ag : Agent) (m : Byte) : Done s₀ (execDbgXtResume ag m s) := by
  unfold execDbgXtResume
  repeat' with_reducible first | assumption | apply done_done | apply sendXt_keeps

theorem fireRelease_keeps {s₀ s : State} (h₀ : Keeps s₀ s) (m : Byte) : Keeps s₀ (fireRelease m s) := by
  unfold fireRelease
  repeat' with_reducible first
    | assumption | apply debugEvent_keeps | apply State_setPart_keeps | apply keeps_foldl | simp only [keeps_mk] | intro _ | split

theorem resumeRelease_keeps {s₀ s : State} (h₀ : Keeps s₀ s) (m : Byte) : Keeps s₀ (resumeRelease m s) := by
  unfold resumeRelease
  repeat' with_reducible first | assumption | apply resumeCore_keeps | apply keeps_foldl | simp only [keeps_mk] | intro _ | split

theorem execXtRelease_keeps {s₀ s : State} (h₀ : Keeps s₀ s) : Done s₀ (execXtRelease s) := by
  unfold execXtRelease
  repeat' with_reducible first
    | assumption | apply inboxTake_keeps | apply done_done | apply fireRelease_keeps | apply resumeRelease_keeps
    | apply keeps_opt (by assumption) | split

theorem coreHaltCmd_keeps {s₀ s : State} (h₀ : Keeps s₀ s) (c : Nat) : Keeps s₀ (coreHaltCmd c s) := by
  unfold coreHaltCmd
  repeat' with_reducible first | assumption | apply debugEvent_keeps | split

theorem execDbgCoreHalt_keeps {s₀ s : State} (h₀ : Keeps s₀ s) (c : BitVec 3) : Done s₀ (execDbgCoreHalt c s) := by
  unfold execDbgCoreHalt
  repeat' with_reducible first | assumption | apply done_done | apply coreHaltCmd_keeps

theorem coreResumeCmd_keeps {s₀ s : State} (h₀ : Keeps s₀ s) (c : Nat) (stepping : Bool) : Keeps s₀ (coreResumeCmd c stepping s)
    := by
  unfold coreResumeCmd
  repeat' with_reducible first | assumption | apply checked_keeps | apply resumeCore_keeps | intro _

theorem execDbgCoreResume_keeps {s₀ s : State} (h₀ : Keeps s₀ s) (c : BitVec 3) : Done s₀ (execDbgCoreResume c s) := by
  unfold execDbgCoreResume
  repeat' with_reducible first | assumption | apply done_done | apply coreResumeCmd_keeps

theorem execDbgCoreStep_keeps {s₀ s : State} (h₀ : Keeps s₀ s) (c : BitVec 3) : Done s₀ (execDbgCoreStep c s) := by
  unfold execDbgCoreStep
  repeat' with_reducible first | assumption | apply done_done | apply coreResumeCmd_keeps

theorem selWrite_keeps {s₀ s : State} (h₀ : Keeps s₀ s) (c : Nat) (v : W32) : Keeps s₀ (selWrite c v s) := by
  unfold selWrite
  repeat' with_reducible first | assumption | apply checked_keeps | apply State_setCore_keeps | intro _

theorem execDbgCoreData_keeps {s₀ s : State} (h₀ : Keeps s₀ s) (ag : Agent) (c : BitVec 3) (wr : Bool) (v : W32) : Done s₀
    (execDbgCoreData ag c wr v s) := by
  unfold execDbgCoreData
  repeat' with_reducible first
    | assumption | apply done_done | apply selWrite_keeps | apply ans_keeps | apply setReason_keeps | split

theorem qwTgt_keeps {s₀ s : State} (h₀ : Keeps s₀ s) (v : W32) : Keeps s₀ (qwTgt v s) := by
  unfold qwTgt
  repeat' with_reducible first | assumption | apply checked_keeps | simp only [keeps_mk] | intro _

theorem execDbgQwTgt_keeps {s₀ s : State} (h₀ : Keeps s₀ s) (v : W32) : Done s₀ (execDbgQwTgt v s) := by
  unfold execDbgQwTgt
  repeat' with_reducible first | assumption | apply done_done | apply qwTgt_keeps

theorem execTraceDrain_keeps {s₀ s : State} (h₀ : Keeps s₀ s) : Done s₀ (execTraceDrain s) := by
  unfold execTraceDrain
  repeat' with_reducible first | assumption | apply done_done | apply State_modPq_keeps | simp only [keeps_mk] | split

theorem invalLine_keeps {s₀ s : State} (h₀ : Keeps s₀ s) (n : Nat) : Keeps s₀ (invalLine n s) := by
  unfold invalLine
  repeat' with_reducible first
    | assumption | apply setFilt_keeps | apply State_setCore_keeps | apply keeps_foldl | dsimp only | intro _

theorem patchWrite_keeps {s₀ s : State} (h₀ : Keeps s₀ s) (n : Nat) (v : W32) : Keeps s₀ (patchWrite n v s) := by
  unfold patchWrite
  repeat' with_reducible first | assumption | apply checked_keeps | apply invalLine_keeps | simp only [keeps_mk] | intro _ | split

theorem execPatchUnitWrite_keeps {s₀ s : State} (h₀ : Keeps s₀ s) (n : BitVec 4) (v : W32) : Done s₀ (execPatchUnitWrite n v s)
    := by
  unfold execPatchUnitWrite
  repeat' with_reducible first | assumption | apply done_done | apply patchWrite_keeps

theorem patchRamWr_keeps {s₀ s : State} (h₀ : Keeps s₀ s) (n : Nat) (k : Nat) (v : W32) : Keeps s₀ (patchRamWr n k v s) := by
  unfold patchRamWr
  repeat' with_reducible first | assumption | apply checked_keeps | simp only [keeps_mk] | intro _

theorem execPatchRamWrite_keeps {s₀ s : State} (h₀ : Keeps s₀ s) (n : BitVec 4) (k : BitVec 3) (v : W32) : Done s₀
    (execPatchRamWrite n k v s) := by
  unfold execPatchRamWrite
  repeat' with_reducible first | assumption | apply done_done | apply patchRamWr_keeps

theorem vtTxWrite_keeps {s₀ s : State} (h₀ : Keeps s₀ s) (ag : Agent) (v : W32) : Keeps s₀ (vtTxWrite ag v s) := by
  unfold vtTxWrite
  repeat' with_reducible first | assumption | simp only [keeps_mk] | split

theorem vtTxRead_keeps {s₀ s : State} (h₀ : Keeps s₀ s) (ag : Agent) : Keeps s₀ (vtTxRead ag s).2 := by
  unfold vtTxRead
  repeat' with_reducible first | assumption | apply setReason_keeps | simp only [keeps_mk] | split

theorem vtRxWrite_keeps {s₀ s : State} (h₀ : Keeps s₀ s) (ag : Agent) (v : W32) : Keeps s₀ (vtRxWrite ag v s) := by
  unfold vtRxWrite
  repeat' with_reducible first | assumption | apply setReason_keeps | simp only [keeps_mk] | split

theorem vtRxRead_keeps {s₀ s : State} (h₀ : Keeps s₀ s) (ag : Agent) : Keeps s₀ (vtRxRead ag s).2 := by
  unfold vtRxRead
  repeat' with_reducible first | assumption | simp only [keeps_mk] | split

theorem execDbgVtTx_keeps {s₀ s : State} (h₀ : Keeps s₀ s) (ag : Agent) (wr : Bool) (v : W32) : Done s₀ (execDbgVtTx ag wr v s)
    := by
  unfold execDbgVtTx
  repeat' with_reducible first
    | assumption | apply done_done | apply vtTxWrite_keeps | apply vtTxRead_keeps | apply ans_keeps | dsimp only | split

theorem execDbgVtRx_keeps {s₀ s : State} (h₀ : Keeps s₀ s) (ag : Agent) (wr : Bool) (v : W32) : Done s₀ (execDbgVtRx ag wr v s)
    := by
  unfold execDbgVtRx
  repeat' with_reducible first
    | assumption | apply done_done | apply vtRxWrite_keeps | apply vtRxRead_keeps | apply ans_keeps | dsimp only | split

theorem dbgClear_keeps {s₀ s : State} (h₀ : Keeps s₀ s) (ag : Agent) (off : Nat) : Keeps s₀ (dbgClear ag off s) := by
  unfold dbgClear
  repeat' with_reducible first
    | assumption | apply vtTxRead_keeps | apply vtRxRead_keeps | apply setReason_keeps | apply State_setDcore_keeps
    | simp only [keeps_mk] | split

theorem unitReason_keeps {s₀ s : State} (h₀ : Keeps s₀ s) (was : Bool) (bad : Bool) (v : W32) : Keeps s₀ (unitReason was bad v s)
    := by
  unfold unitReason
  repeat' with_reducible first | assumption | apply setReason_keeps | split

theorem dcoreWrite_keeps {s₀ s : State} (h₀ : Keeps s₀ s) (c : Nat) (off : Nat) (v : W32) : Keeps s₀ (dcoreWrite c off v s) := by
  unfold dcoreWrite
  repeat' with_reducible first
    | assumption | apply State_setDcore_keeps | apply selWrite_keeps | apply coreHaltCmd_keeps | apply coreResumeCmd_keeps
    | apply unitReason_keeps | dsimp only | split

theorem dbgWrite_keeps {s₀ s : State} (h₀ : Keeps s₀ s) (ag : Agent) (off : Nat) (v : W32) : Keeps s₀ (dbgWrite ag off v s) := by
  unfold dbgWrite
  repeat' with_reducible first
    | assumption | apply xtFire_keeps | apply sendXt_keeps | apply dcoreWrite_keeps | apply qwTgt_keeps | apply unitReason_keeps
    | apply patchWrite_keeps | apply patchRamWr_keeps | apply vtTxWrite_keeps | apply vtRxWrite_keeps | apply keeps_ite
    | simp only [keeps_mk]

-- The operations of Machine/HostIf.lean

theorem causeSet_keeps {s₀ s : State} (h₀ : Keeps s₀ s) (k : Nat) : Keeps s₀ (causeSet k s) := by
  unfold causeSet
  repeat' with_reducible first | assumption | apply sendMsi_keeps | simp only [keeps_mk] | split

theorem execMsixCauseActive_keeps {s₀ s : State} (h₀ : Keeps s₀ s) (v : Byte) : Done s₀ (execMsixCauseActive v s) := by
  unfold execMsixCauseActive
  repeat' with_reducible first | assumption | apply done_done | apply causeSet_keeps | split

theorem irqStatusClear_keeps {s₀ s : State} (h₀ : Keeps s₀ s) (m : BitVec 15) : Keeps s₀ (irqStatusClear m s) := by
  unfold irqStatusClear
  repeat' with_reducible first | assumption | apply causeSet_keeps | apply keeps_foldl | simp only [keeps_mk] | intro _ | split

theorem execHostIrqStatusClear_keeps {s₀ s : State} (h₀ : Keeps s₀ s) (m : BitVec 15) : Done s₀ (execHostIrqStatusClear m s) := by
  unfold execHostIrqStatusClear
  repeat' with_reducible first | assumption | apply done_done | apply irqStatusClear_keeps

theorem swint_keeps {s₀ s : State} (h₀ : Keeps s₀ s) (m : Byte) : Keeps s₀ (swint m s) := by
  unfold swint
  repeat' with_reducible first | assumption | apply sendMsi_keeps | apply keeps_foldl | intro _ | split

theorem execHostSwint_keeps {s₀ s : State} (h₀ : Keeps s₀ s) (m : Byte) : Done s₀ (execHostSwint m s) := by
  unfold execHostSwint
  repeat' with_reducible first | assumption | apply done_done | apply swint_keeps

theorem pbaSend_keeps {s₀ s : State} (h₀ : Keeps s₀ s) (v : Nat) : Keeps s₀ (pbaSend v s) := by
  unfold pbaSend
  repeat' with_reducible first | assumption | apply sendMsi_keeps | simp only [keeps_mk] | split

theorem msixWrite_keeps {s₀ s : State} (h₀ : Keeps s₀ s) (i : Nat) (w : W32) : Keeps s₀ (msixWrite i w s) := by
  unfold msixWrite
  repeat' with_reducible first | assumption | apply pbaSend_keeps | simp only [keeps_mk]

theorem execMsixUnmask_keeps {s₀ s : State} (h₀ : Keeps s₀ s) (v : Byte) : Done s₀ (execMsixUnmask v s) := by
  unfold execMsixUnmask
  repeat' with_reducible first | assumption | apply done_done | apply msixWrite_keeps

theorem execBarAccessError_keeps {s₀ s : State} (h₀ : Keeps s₀ s) (bar : BitVec 3) (off : BitVec 37) (y2 : Bool) : Done s₀
    (execBarAccessError bar off y2 s) := by
  unfold execBarAccessError
  repeat' with_reducible first | assumption | apply done_done | apply ans_keeps | apply errRsp_keeps | apply logErr_keeps | split

theorem execPcieLinkUp_keeps {s₀ s : State} (h₀ : Keeps s₀ s) (gen5 : Bool) (width : BitVec 5) : Done s₀
    (execPcieLinkUp gen5 width s) := by
  unfold execPcieLinkUp
  repeat' with_reducible first | assumption | apply done_done | simp only [keeps_mk] | split

theorem execPcieD3hot_keeps {s₀ s : State} (h₀ : Keeps s₀ s) (v : Bool) : Done s₀ (execPcieD3hot v s) := by
  unfold execPcieD3hot
  repeat' with_reducible first | assumption | apply done_done | simp only [keeps_mk]

theorem hostRegClear_keeps {s₀ s : State} (h₀ : Keeps s₀ s) (off : Nat) : Keeps s₀ (hostRegClear off s) := by
  unfold hostRegClear
  repeat' with_reducible first | assumption | simp only [keeps_mk] | split

theorem hostRegWrite_keeps {s₀ s : State} (h₀ : Keeps s₀ s) (off : Nat) (v : W32) : Keeps s₀ (hostRegWrite off v s) := by
  unfold hostRegWrite
  repeat' with_reducible first
    | assumption | apply msixWrite_keeps | apply irqStatusClear_keeps | apply swint_keeps | simp only [keeps_mk] | split

-- The operations of Machine/Remote.lean

theorem lmaWords_keeps {s₀ s : State} (h₀ : Keeps s₀ s) (c : Acc) (a : Nat) (n : Nat) (h : HostBytes) : Keeps s₀
    (lmaWords c a n h s).2 := by
  unfold lmaWords
  repeat' with_reducible first | assumption | apply lmaRead_keeps | apply keeps_snd (by assumption) | split

theorem bxFail_keeps {s₀ s : State} (h₀ : Keeps s₀ s) (d : Disp) (code : W16) : Keeps s₀ (bxFail d code s) := by
  unfold bxFail
  repeat' with_reducible first | assumption | apply finish_keeps | apply logErr_keeps

theorem modBx_keeps {s₀ s : State} (h₀ : Keeps s₀ s) (id : CmdId) (f : BxSt → BxSt) : Keeps s₀ (modBx id f s) := by
  unfold modBx
  repeat' with_reducible first | assumption | apply modDisp_keeps

theorem bxWrite_keeps {s₀ s : State} (h₀ : Keeps s₀ s) (d : Disp) (b : BxSt) (chip : Byte) (v : BitVec 256) :
    ∀ t, bxWrite d b chip v s = some t → Keeps s₀ t := by
  intro t h
  unfold bxWrite at h
  dsimp only at h
  split at h
  · exact absurd h (by simp)
  · rw [← Option.some.inj h]
    apply modBx_keeps
    split
    · exact extWrite_keeps h₀ _ _ _ _
    · exact modStores_keeps h₀ _ _

theorem bxEntry_keeps {s₀ s : State} (h₀ : Keeps s₀ s) (id : CmdId) (r : W16) (chip : Byte) (v : BitVec 256) :
    Keeps s₀ (bxEntry id r chip s v) := by
  unfold bxEntry
  repeat' first
    | with_reducible assumption | exact bxWrite_keeps h₀ _ _ _ _ _ (by assumption) | with_reducible apply bxFail_keeps
    | with_reducible apply modBx_keeps | dsimp only | split

theorem bxPacket_keeps {s₀ s : State} (h₀ : Keeps s₀ s) (id : CmdId) (p : Pkt) : Keeps s₀ (bxPacket id p s) := by
  unfold bxPacket
  repeat' with_reducible first | assumption | apply bxEntry_keeps | apply keeps_foldl | intro _

theorem bxTake_keeps {s₀ s : State} (h₀ : Keeps s₀ s) (d : Disp) (h : HostBytes) : Keeps s₀ (bxTake d h s) := by
  unfold bxTake
  repeat' with_reducible first
    | assumption | apply finish_keeps | apply setReason_keeps | apply logSort_keeps | apply lmaRead_keeps | apply lmaWords_keeps
    | apply modDisp_keeps | apply bxPacket_keeps | apply keeps_foldl | apply keeps_snd (by assumption) | simp only [keeps_mk]
    | intro _ | split

theorem execBoundaryExchange_keeps {s₀ s : State} (h₀ : Keeps s₀ s) (o : Owner) (k : BitVec 3) (n : W32) (h : HostBytes) : Done s₀
    (execBoundaryExchange o k n h s) := by
  unfold execBoundaryExchange
  repeat' with_reducible first | assumption | apply done_done | apply bxTake_keeps | split

theorem bxRead_keeps {s₀ y3 : State} (h₀ : Keeps s₀ y3) (d : Disp) (b : BxSt) (y2 : List (Byte × BitVec 11 × Byte)) : Keeps s₀
    (bxRead d b y2 y3).2 := by
  induction y2 generalizing y3 with
  | nil => exact h₀
  | cons a l ih =>
    unfold bxRead
    repeat' with_reducible first | assumption | apply ih | apply storeRead_keeps | apply keeps_snd (by assumption) | split

theorem bxSend_keeps {s₀ s : State} (h₀ : Keeps s₀ s) (d : Disp) (b : BxSt) (es : List (Byte × List Byte)) : Keeps s₀
    (bxSend d b es s) := by
  unfold bxSend
  repeat' with_reducible first | assumption | apply sendC2k_keeps | apply keeps_foldl | dsimp only | intro _

theorem bxSendAll_keeps {s₀ s : State} (h₀ : Keeps s₀ s) (d : Disp) (b : BxSt) : Keeps s₀ (bxSendAll d b s) := by
  unfold bxSendAll
  repeat' with_reducible first
    | assumption | apply bxRead_keeps | apply finish_keeps | apply bxSend_keeps | apply keeps_snd (by assumption) | split

theorem bxFire_keeps {s₀ s : State} (h₀ : Keeps s₀ s) (d : Disp) (b : BxSt) : Keeps s₀ (bxFire d b s) := by
  unfold bxFire
  repeat' with_reducible first
    | assumption | apply bxSendAll_keeps | apply modBx_keeps | apply bxEntry_keeps | apply keeps_foldl | intro _

theorem execBoundaryRound_keeps {s₀ s : State} (h₀ : Keeps s₀ s) (o : Owner) (k : BitVec 3) (n : W32) : Done s₀
    (execBoundaryRound o k n s) := by
  unfold execBoundaryRound
  repeat' with_reducible first | assumption | apply done_done | apply bxFire_keeps | split

theorem execBoundaryRoundDone_keeps {s₀ s : State} (h₀ : Keeps s₀ s) (o : Owner) (k : BitVec 3) (n : W32) : Done s₀
    (execBoundaryRoundDone o k n s) := by
  unfold execBoundaryRoundDone
  repeat' with_reducible first
    | assumption | apply done_done | apply modBx_keeps | apply incrNow_keeps | apply finish_keeps | dsimp only | split

theorem freexBatch_keeps {s₀ s : State} (h₀ : Keeps s₀ s) (d : Disp) : Keeps s₀ (freexBatch d s) := by
  unfold freexBatch
  repeat' with_reducible first | assumption | apply bxSendAll_keeps | apply modBx_keeps | split

theorem execFreexBatch_keeps {s₀ s : State} (h₀ : Keeps s₀ s) (o : Owner) (k : BitVec 3) (n : W32) : Done s₀
    (execFreexBatch o k n s) := by
  unfold execFreexBatch
  repeat' with_reducible first | assumption | apply done_done | apply freexBatch_keeps | split

theorem execBoundaryRoundTimeout_keeps {s₀ s : State} (h₀ : Keeps s₀ s) (o : Owner) (k : BitVec 3) (n : W32) : Done s₀
    (execBoundaryRoundTimeout o k n s) := by
  unfold execBoundaryRoundTimeout
  repeat' with_reducible first | assumption | apply done_done | apply bxFail_keeps | split

theorem remoteFault_keeps {s₀ s : State} (h₀ : Keeps s₀ s) (d : Disp) (r : Outc) : Keeps s₀ (remoteFault d r s) := by
  unfold remoteFault
  repeat' with_reducible first | assumption | apply collEnd_keeps | apply finish_keeps | split

theorem tagFault_keeps {s₀ s : State} (h₀ : Keeps s₀ s) (id : CmdId) (r : Outc) : Keeps s₀ (tagFault id r s) := by
  unfold tagFault
  repeat' with_reducible first | assumption | apply remoteFault_keeps | split

theorem linkLost_keeps {s₀ s : State} (h₀ : Keeps s₀ s) (l : Nat) : Keeps s₀ (linkLost l s) := by
  unfold linkLost
  repeat' with_reducible first
    | assumption | apply linkFail_keeps | apply logErr_keeps | apply remoteFault_keeps | apply keeps_foldl | simp only [keeps_mk]
    | intro _

theorem execLinkFrame_keeps {s₀ s : State} (h₀ : Keeps s₀ s) (l : BitVec 4) (f : BitVec 1088) : Done s₀ (execLinkFrame l f s) := by
  unfold execLinkFrame
  repeat' with_reducible first
    | assumption | apply done_done | apply fecSeen_keeps | apply State_setLink_keeps | apply linkLost_keeps | split

theorem execReplayTimeout_keeps {s₀ s : State} (h₀ : Keeps s₀ s) (l : BitVec 4) : Done s₀ (execReplayTimeout l s) := by
  unfold execReplayTimeout
  repeat' with_reducible first | assumption | apply done_done | apply State_setLink_keeps | apply linkLost_keeps | split

theorem execLaneLockLost_keeps {s₀ s : State} (h₀ : Keeps s₀ s) (l : BitVec 4) : Done s₀ (execLaneLockLost l s) := by
  unfold execLaneLockLost
  repeat' with_reducible first | assumption | apply done_done | apply linkLost_keeps | split

theorem lateOwner_keeps {s₀ s : State} (h₀ : Keeps s₀ s) (o : Owner) : Keeps s₀ (lateOwner o s) := by
  unfold lateOwner
  repeat' with_reducible first | assumption | simp only [keeps_mk] | split

theorem pktLate_keeps {s₀ s : State} (h₀ : Keeps s₀ s) (l : Nat) (p : Pkt) : Keeps s₀ (pktLate l p s) := by
  unfold pktLate
  repeat' with_reducible first
    | assumption | apply lateOwner_keeps | apply logErr_keeps | apply State_setLink_keeps | dsimp only | split

theorem deliverPkt_keeps {s₀ s : State} (h₀ : Keeps s₀ s) (l : Nat) (p : Pkt) : Keeps s₀ (deliverPkt l p s) := by
  unfold deliverPkt
  repeat' with_reducible first | assumption | apply sendC2k_keeps

theorem engineTake_keeps {s₀ s : State} (h₀ : Keeps s₀ s) (p : Pkt) : Keeps s₀ (engineTake p s) := by
  unfold engineTake
  repeat' with_reducible first
    | assumption | apply freeSpace_keeps | apply bxPacket_keeps | apply ctlReceive_keeps | simp only [keeps_mk] | split

theorem execPacketRelease_keeps {s₀ s : State} (h₀ : Keeps s₀ s) (l : BitVec 4) (b : BitVec 3) : Done s₀ (execPacketRelease l b s)
    := by
  unfold execPacketRelease
  repeat' with_reducible first
    | assumption | apply done_done | apply pktLate_keeps | apply State_setLink_keeps | apply dropPkt_keeps
    | apply deliverPkt_keeps | apply routePkt_keeps | dsimp only | split

theorem remotePerform_keeps {s₀ s : State} (h₀ : Keeps s₀ s) (p : Pkt) : Keeps s₀ (remotePerform p s) := by
  unfold remotePerform
  repeat' with_reducible first
    | assumption | apply sendC2k_keeps | apply hbmRead_keeps | apply hbmWrite_keeps | apply keeps_snd (by assumption)
    | dsimp only | split

theorem execRemoteRequest_keeps {s₀ s : State} (h₀ : Keeps s₀ s) : Done s₀ (execRemoteRequest s) := by
  unfold execRemoteRequest
  repeat' with_reducible first
    | assumption | apply done_done | apply remotePerform_keeps | apply freeSpace_keeps | simp only [keeps_mk] | split

theorem execRemoteResponse_keeps {s₀ s : State} (h₀ : Keeps s₀ s) : Done s₀ (execRemoteResponse s) := by
  unfold execRemoteResponse
  repeat' with_reducible first
    | assumption | apply done_done | apply freeSpace_keeps | apply tagFault_keeps | apply logErr_keeps | simp only [keeps_mk]
    | split

theorem execRemoteRequestTimeout_keeps {s₀ s : State} (h₀ : Keeps s₀ s) (tag : BitVec 10) : Done s₀
    (execRemoteRequestTimeout tag s) := by
  unfold execRemoteRequestTimeout
  repeat' with_reducible first
    | assumption | apply done_done | apply tagFault_keeps | apply logErr_keeps | simp only [keeps_mk] | split

-- The operations of Machine/Time.lean

theorem releaseWhere_keeps {s₀ s : State} (h₀ : Keeps s₀ s) (ok : XItem → Bool) : Keeps s₀ (releaseWhere ok s) := by
  unfold releaseWhere
  repeat' with_reducible first | assumption | simp only [keeps_mk]

theorem meterLate_keeps {s₀ s : State} (h₀ : Keeps s₀ s) (x : XItem) : Keeps s₀ (meterLate x s) := by
  unfold meterLate
  repeat' with_reducible first | assumption | apply logErrC_keeps | simp only [keeps_mk]

theorem arrive_keeps {s₀ s : State} (h₀ : Keeps s₀ s) (i : Nat) : Keeps s₀ (arrive i s) := by
  unfold arrive
  repeat' with_reducible first | assumption | apply meterLate_keeps | apply releaseWhere_keeps | simp only [keeps_mk] | split

theorem placeItem_keeps {s₀ s : State} (h₀ : Keeps s₀ s) (x : XItem) : Keeps s₀ (placeItem x s) := by
  unfold placeItem
  repeat' with_reducible first | assumption | apply State_modLq_keeps | simp only [keeps_mk] | split

theorem latchPlace_keeps {s₀ s : State} (h₀ : Keeps s₀ s) (i : Nat) : Keeps s₀ (latchPlace i s) := by
  unfold latchPlace
  repeat' with_reducible first | assumption | apply placeItem_keeps | simp only [keeps_mk] | split

theorem execSendLatchPlace_keeps {s₀ s : State} (h₀ : Keeps s₀ s) (i : Nat) : Done s₀ (execSendLatchPlace i s) := by
  unfold execSendLatchPlace
  repeat' with_reducible first | assumption | apply done_done | apply latchPlace_keeps

theorem execFlitInject_keeps {s₀ s : State} (h₀ : Keeps s₀ s) (i : Nat) : Done s₀ (execFlitInject i s) := by
  unfold execFlitInject
  repeat' with_reducible first | assumption | apply done_done | simp only [keeps_mk]

theorem pauseMetered_keeps {s₀ s : State} (h₀ : Keeps s₀ s) (b : Bool) : Keeps s₀ (pauseMetered b s) := by
  unfold pauseMetered
  repeat' with_reducible first | assumption | simp only [keeps_mk]

theorem execServiceWindowBegin_keeps {s₀ s : State} (h₀ : Keeps s₀ s) : Done s₀ (execServiceWindowBegin s) := by
  unfold execServiceWindowBegin
  repeat' with_reducible first | assumption | apply done_done | apply pauseMetered_keeps | split

theorem execServiceWindowEnd_keeps {s₀ s : State} (h₀ : Keeps s₀ s) : Done s₀ (execServiceWindowEnd s) := by
  unfold execServiceWindowEnd
  repeat' with_reducible first | assumption | apply done_done | apply pauseMetered_keeps | split

theorem tickLoad_keeps {s₀ s : State} (h₀ : Keeps s₀ s) : Keeps s₀ (tickLoad s) := by
  unfold tickLoad
  repeat' with_reducible first | assumption | apply checked_keeps | simp only [keeps_mk] | intro _

theorem execTickLoad_keeps {s₀ s : State} (h₀ : Keeps s₀ s) : Done s₀ (execTickLoad s) := by
  unfold execTickLoad
  repeat' with_reducible first | assumption | apply done_done | apply tickLoad_keeps

theorem syncEn_keeps {s₀ s : State} (h₀ : Keeps s₀ s) (v : Bool) : Keeps s₀ (syncEn v s) := by
  unfold syncEn
  repeat' with_reducible first | assumption | apply checked_keeps | simp only [keeps_mk] | intro _ | split

theorem execSyncEn_keeps {s₀ s : State} (h₀ : Keeps s₀ s) (v : Bool) : Done s₀ (execSyncEn v s) := by
  unfold execSyncEn
  repeat' with_reducible first | assumption | apply done_done | apply syncEn_keeps

theorem lsEnable_keeps {s₀ s : State} (h₀ : Keeps s₀ s) (v : Bool) : Keeps s₀ (lsEnable v s) := by
  unfold lsEnable
  repeat' with_reducible first | assumption | apply checked_keeps | simp only [keeps_mk] | intro _ | split

theorem execLsEnable_keeps {s₀ s : State} (h₀ : Keeps s₀ s) (v : Bool) : Done s₀ (execLsEnable v s) := by
  unfold execLsEnable
  repeat' with_reducible first | assumption | apply done_done | apply lsEnable_keeps

theorem lsWords_keeps {s₀ s : State} (h₀ : Keeps s₀ s) (ws : List W64) : Keeps s₀ (lsWords ws s) := by
  unfold lsWords
  repeat' with_reducible first | assumption | apply sendC2k_keeps | apply keeps_foldl | intro _

theorem lsSend_keeps {s₀ s : State} (h₀ : Keeps s₀ s) (r : LsRecord) : Keeps s₀ (lsSend r s) := by
  unfold lsSend
  repeat' with_reducible first | assumption | apply lsWords_keeps

theorem divAddr_keeps {s₀ s : State} (h₀ : Keeps s₀ s) (own : LsRecord) (r : LsRecord) (q : Nat) : Keeps s₀ (divAddr own r q s).2
    := by
  unfold divAddr
  repeat' with_reducible first | assumption | apply lsWords_keeps | apply draw_keeps | dsimp only | split

theorem lsDiverge_keeps {s₀ s : State} (h₀ : Keeps s₀ s) (code : W16) (epoch : W64) (lq : BitVec 9) (addr : W16) (cmd : Bool)
    (hist : Bool) : Keeps s₀ (lsDiverge code epoch lq addr cmd hist s) := by
  unfold lsDiverge
  repeat' with_reducible first | assumption | apply xtFire_keeps | apply logErr_keeps | simp only [keeps_mk]

theorem lsCompare_keeps {s₀ s : State} (h₀ : Keeps s₀ s) (own : LsRecord) (r : LsRecord) : Keeps s₀ (lsCompare own r s) := by
  unfold lsCompare
  repeat' with_reducible first | assumption | apply divAddr_keeps | apply lsDiverge_keeps | simp only [keeps_mk] | split

theorem lsReceive_keeps {s₀ s : State} (h₀ : Keeps s₀ s) (r : LsRecord) : Keeps s₀ (lsReceive r s) := by
  unfold lsReceive
  repeat' with_reducible first | assumption | apply lsCompare_keeps | simp only [keeps_mk] | split

theorem lsEpochEnd_keeps {s₀ s : State} (h₀ : Keeps s₀ s) (p : Part) : Keeps s₀ (lsEpochEnd p s) := by
  unfold lsEpochEnd
  repeat' with_reducible first
    | assumption | apply lsSend_keeps | apply State_setPart_keeps | apply lsReceive_keeps | simp only [keeps_mk] | split

theorem lsEpochStep_keeps {s₀ s : State} (h₀ : Keeps s₀ s) : Keeps s₀ (lsEpochStep s) := by
  unfold lsEpochStep
  repeat' with_reducible first | assumption | apply lsEpochEnd_keeps | split

theorem execLsEpochEnd_keeps {s₀ s : State} (h₀ : Keeps s₀ s) : Done s₀ (execLsEpochEnd s) := by
  unfold execLsEpochEnd
  repeat' with_reducible first | assumption | apply done_done | apply lsEpochStep_keeps

theorem execLsRecordReceive_keeps {s₀ s : State} (h₀ : Keeps s₀ s) (r : LsRecord) : Done s₀ (execLsRecordReceive r s) := by
  unfold execLsRecordReceive
  repeat' with_reducible first | assumption | apply done_done | apply lsReceive_keeps | simp only [keeps_mk] | split

theorem lsTimeout_keeps {s₀ s : State} (h₀ : Keeps s₀ s) : Keeps s₀ (lsTimeout s) := by
  unfold lsTimeout
  repeat' with_reducible first | assumption | apply lsDiverge_keeps | simp only [keeps_mk] | split

theorem execLsPartnerTimeout_keeps {s₀ s : State} (h₀ : Keeps s₀ s) : Done s₀ (execLsPartnerTimeout s) := by
  unfold execLsPartnerTimeout
  repeat' with_reducible first | assumption | apply done_done | apply lsTimeout_keeps

theorem lsRelease_keeps {s₀ s : State} (h₀ : Keeps s₀ s) : Keeps s₀ (lsRelease s) := by
  unfold lsRelease
  repeat' with_reducible first | assumption | simp only [keeps_mk] | split

theorem execLsHoldRelease_keeps {s₀ s : State} (h₀ : Keeps s₀ s) : Done s₀ (execLsHoldRelease s) := by
  unfold execLsHoldRelease
  repeat' with_reducible first | assumption | apply done_done | apply lsRelease_keeps

theorem lsWrite_keeps {s₀ s : State} (h₀ : Keeps s₀ s) (v : W32) : Keeps s₀ (lsWrite v s) := by
  unfold lsWrite
  repeat' with_reducible first | assumption | apply lsEnable_keeps | simp only [keeps_mk] | split

theorem tickWrite_keeps {s₀ s : State} (h₀ : Keeps s₀ s) (off : Nat) (v : W32) (pair : W64) : Keeps s₀ (tickWrite off v pair s)
    := by
  unfold tickWrite
  repeat' with_reducible first
    | assumption | apply syncEn_keeps | apply tickLoad_keeps | apply lsWrite_keeps | simp only [keeps_mk] | split

-- The operations of Machine/Windows.lean

theorem domainDownLog_keeps {s₀ s : State} (h₀ : Keeps s₀ s) (ag : Agent) (a : Dpa) : Keeps s₀ (domainDownLog ag a s) := by
  unfold domainDownLog
  repeat' with_reducible first | assumption | apply logErr_keeps

theorem unassigned_keeps {s₀ s : State} (h₀ : Keeps s₀ s) (ag : Agent) (a : Dpa) : Keeps s₀ (unassigned ag a s) := by
  unfold unassigned
  repeat' with_reducible first | assumption | apply logErr_keeps

theorem winGate_keeps {s₀ s : State} (h₀ : Keeps s₀ s) (ag : Agent) (a : Dpa) (n : Nat) : Keeps s₀ (winGate ag a n s).2 := by
  unfold winGate
  repeat' with_reducible first
    | assumption | apply unassigned_keeps | apply domainDownLog_keeps | apply logErr_keeps | dsimp only | split

theorem winRead_keeps {s₀ s : State} (h₀ : Keeps s₀ s) (ag : Agent) (a : Dpa) (n : Nat) : Keeps s₀ (winRead ag a n s).2 := by
  unfold winRead
  repeat' with_reducible first
    | assumption | apply winGate_keeps | apply quillRead_keeps | apply logErr_keeps | apply keeps_snd (by assumption) | split

theorem winWrite_keeps {s₀ s : State} (h₀ : Keeps s₀ s) (ag : Agent) (a : Dpa) (mask : Byte) (d : W64) : Keeps s₀
    (winWrite ag a mask d s).2 := by
  unfold winWrite
  repeat' with_reducible first
    | assumption | apply winGate_keeps | apply extWrite_keeps | apply keeps_foldl | apply keeps_snd (by assumption)
    | dsimp only | intro _ | split

theorem execStoreWindowRead_keeps {s₀ s : State} (h₀ : Keeps s₀ s) (ag : Agent) (a : Dpa) (len : Nat) : Done s₀
    (execStoreWindowRead ag a len s) := by
  unfold execStoreWindowRead
  repeat' with_reducible first
    | assumption | apply done_done | apply winRead_keeps | apply ans_keeps | apply errRsp_keeps | apply keeps_snd (by assumption)
    | split

theorem execStoreWindowWrite_keeps {s₀ s : State} (h₀ : Keeps s₀ s) (ag : Agent) (a : Dpa) (mask : Byte) (d : W64) : Done s₀
    (execStoreWindowWrite ag a mask d s) := by
  unfold execStoreWindowWrite
  repeat' with_reducible first
    | assumption | apply done_done | apply winWrite_keeps | apply ans_keeps | apply errRsp_keeps | apply keeps_snd (by assumption)
    | split

theorem execNnCalibrationStart_keeps {s₀ s : State} (h₀ : Keeps s₀ s) (q : Byte) : Done s₀ (execNnCalibrationStart q s) := by
  unfold execNnCalibrationStart
  repeat' with_reducible first | assumption | apply done_done | apply State_setPq_keeps | split

theorem nnFail_keeps {s₀ s : State} (h₀ : Keeps s₀ s) (q : Nat) : Keeps s₀ (nnFail q s) := by
  unfold nnFail
  repeat' with_reducible first | assumption | apply State_modPart_keeps | dsimp only | split

theorem execNnCalibrationEnd_keeps {s₀ s : State} (h₀ : Keeps s₀ s) (q : Byte) (trims : List Byte) (met : Bool) (accepts
    : BitVec 13) : Done s₀ (execNnCalibrationEnd q trims met accepts s) := by
  unfold execNnCalibrationEnd
  repeat' with_reducible first
    | assumption | apply done_done | apply State_setPq_keeps | apply nnFail_keeps | apply logErr_keeps | dsimp only
    | split

theorem qctlClear_keeps {s₀ s : State} (h₀ : Keeps s₀ s) (q : Nat) (off : Nat) : Keeps s₀ (qctlClear q off s) := by
  unfold qctlClear
  repeat' with_reducible first | assumption | apply State_modPq_keeps | split

theorem qctlWrite_keeps {s₀ s : State} (h₀ : Keeps s₀ s) (q : Nat) (off : Nat) (v : W32) : Keeps s₀ (qctlWrite q off v s) := by
  unfold qctlWrite
  repeat' with_reducible first | assumption | apply State_modPq_keeps | split

theorem schedClear_keeps {s₀ s : State} (h₀ : Keeps s₀ s) (off : Nat) : Keeps s₀ (schedClear off s) := by
  unfold schedClear
  repeat' with_reducible first | assumption | apply syncAllocFor_keeps | apply State_setOwn_keeps | dsimp only | split

theorem queueRegWrite_keeps {s₀ s : State} (h₀ : Keeps s₀ s) (o : Nat) (k : Nat) (r : Nat) (v : W32) (pair : W64) : Keeps s₀
    (queueRegWrite o k r v pair s) := by
  unfold queueRegWrite
  repeat' with_reducible first
    | assumption | apply State_setQueue_keeps | apply qEnable_keeps | apply doorbell_keeps | dsimp only | split

theorem ownWrite_keeps {s₀ s : State} (h₀ : Keeps s₀ s) (o : Nat) (r : Nat) (v : W32) (pair : W64) : Keeps s₀
    (ownWrite o r v pair s) := by
  unfold ownWrite
  repeat' with_reducible first
    | assumption | apply State_setOwn_keeps | apply ctxEnable_keeps | apply ctxDisable_keeps | apply syncFreeFor_keeps
    | apply queueRegWrite_keeps | dsimp only | split

theorem schedWrite_keeps {s₀ s : State} (h₀ : Keeps s₀ s) (off : Nat) (v : W32) (pair : W64) : Keeps s₀ (schedWrite off v pair s)
    := by
  unfold schedWrite
  repeat' with_reducible first | assumption | apply ownWrite_keeps | split

theorem syncRegWrite_keeps {s₀ s : State} (h₀ : Keeps s₀ s) (ag : Agent) (off : Nat) (v : W32) : Keeps s₀
    (syncRegWrite ag off v s) := by
  unfold syncRegWrite
  repeat' with_reducible first | assumption | apply syncWrite_keeps | apply incrNow_keeps | dsimp only | split

-- The operations of Machine/RegMap.lean

theorem regClear_keeps {s₀ s : State} (h₀ : Keeps s₀ s) (ag : Agent) (b : RegBlk) (off : Nat) : Keeps s₀ (regClear ag b off s) := by
  unfold regClear
  repeat' with_reducible first
    | assumption | apply schedClear_keeps | apply inkClear_keeps | apply klClear_keeps | apply madClear_keeps
    | apply velClear_keeps | apply plantClear_keeps | apply dbgClear_keeps | apply sepClear_keeps | apply hostRegClear_keeps
    | apply qctlClear_keeps | split

theorem regPut_keeps {s₀ s : State} (h₀ : Keeps s₀ s) (ag : Agent) (b : RegBlk) (off : Nat) (v : W32) (pair : W64) : Keeps s₀
    (regPut ag b off v pair s) := by
  unfold regPut
  repeat' with_reducible first
    | assumption | apply glbWrite_keeps | apply tickWrite_keeps | apply schedWrite_keeps | apply syncRegWrite_keeps
    | apply inkWrite_keeps | apply sortWrite_keeps | apply klWrite_keeps | apply madWrite_keeps | apply velWrite_keeps
    | apply plantWrite_keeps | apply dbgWrite_keeps | apply pwrWrite_keeps | apply sepWrite_keeps | apply hostRegWrite_keeps
    | apply qctlWrite_keeps | split

theorem codeClear_keeps {s₀ s : State} (h₀ : Keeps s₀ s) (b : Blk) : Keeps s₀ (codeClear b s) := by
  unfold codeClear
  repeat' with_reducible first | assumption | apply setErr_keeps | simp only [keeps_mk] | split

theorem blockRead_keeps {s₀ s : State} (h₀ : Keeps s₀ s) (ag : Agent) (b : RegBlk) (lo : Nat) (off : Nat) : Keeps s₀
    (blockRead ag b lo off s).2 := by
  unfold blockRead
  repeat' with_reducible first | assumption | apply codeClear_keeps | apply regClear_keeps | simp only [keeps_mk] | split

theorem blockWrite_keeps {s₀ s : State} (h₀ : Keeps s₀ s) (ag : Agent) (b : RegBlk) (lo : Nat) (off : Nat) (v : W32) : Keeps s₀
    (blockWrite ag b lo off v s) := by
  unfold blockWrite
  repeat' with_reducible first | assumption | apply regPut_keeps | simp only [keeps_mk] | split

theorem writeSend_keeps {s₀ s : State} (h₀ : Keeps s₀ s) (c : XCls) (ag : Agent) (a : Dpa) (v : W32) (met : Bool) : Keeps s₀
    (writeSend c ag a v met s) := by
  unfold writeSend
  repeat' with_reducible first | assumption | apply sendX_keeps

theorem writeLand_keeps {s₀ s : State} (h₀ : Keeps s₀ s) (ag : Agent) (a : Dpa) (v : W32) : Keeps s₀ (writeLand ag a v s) := by
  unfold writeLand
  repeat' with_reducible first | assumption | apply blockWrite_keeps | split

theorem regGate_keeps {s₀ s : State} (h₀ : Keeps s₀ s) (ag : Agent) (a : Dpa) : Keeps s₀ (regGate ag a s).2 := by
  unfold regGate
  repeat' with_reducible first | assumption | apply unassigned_keeps | apply domainDownLog_keeps | split

theorem regRead_keeps {s₀ s : State} (h₀ : Keeps s₀ s) (ag : Agent) (a : Dpa) : Keeps s₀ (regRead ag a s).2 := by
  unfold regRead
  repeat' with_reducible first
    | assumption | apply regGate_keeps | apply slaveAccess_keeps | apply swRead_keeps | apply logErr_keeps
    | apply State_modPq_keeps | apply blockRead_keeps | apply keeps_snd (by assumption) | dsimp only | split

theorem regWrite_keeps {s₀ s : State} (h₀ : Keeps s₀ s) (ag : Agent) (a : Dpa) (v : W32) : Keeps s₀ (regWrite ag a v s).2 := by
  unfold regWrite
  repeat' with_reducible first
    | assumption | apply regGate_keeps | apply writeSend_keeps | apply slaveAccess_keeps | apply blockWrite_keeps
    | apply keeps_snd (by assumption) | split

theorem answer_keeps {s₀ s0 : State} (h₀ : Keeps s₀ s0) (ag : Agent) (r : AccR × State) (h₁ : Keeps s₀ r.2) : Keeps s₀
    (answer ag s0 r) := by
  obtain ⟨x, y⟩ := r
  unfold answer
  repeat' with_reducible first | assumption | apply ans_keeps | apply errRsp_keeps | apply keeps_snd (by assumption) | split

theorem regStep_keeps {s₀ s : State} (h₀ : Keeps s₀ s) (ag : Agent) (a : Dpa) (f : State → AccR × State) (hf : ∀ (x0
    : State), Keeps s₀ x0 → Keeps s₀ (f x0).2) : Keeps s₀ (regStep ag a f s) := by
  unfold regStep
  repeat' with_reducible first | assumption | apply ans_keeps | apply answer_keeps | apply hf | split

theorem execPairReadLo_keeps {s₀ s : State} (h₀ : Keeps s₀ s) (ag : Agent) (a : Dpa) : Done s₀ (execPairReadLo ag a s) := by
  unfold execPairReadLo
  repeat' with_reducible first | assumption | apply done_done | apply regStep_keeps | apply regRead_keeps | intro _ | split

theorem execPairReadHi_keeps {s₀ s : State} (h₀ : Keeps s₀ s) (ag : Agent) (a : Dpa) : Done s₀ (execPairReadHi ag a s) := by
  unfold execPairReadHi
  repeat' with_reducible first | assumption | apply done_done | apply regStep_keeps | apply regRead_keeps | intro _ | split

theorem execPairWriteLo_keeps {s₀ s : State} (h₀ : Keeps s₀ s) (ag : Agent) (a : Dpa) (v : W32) : Done s₀
    (execPairWriteLo ag a v s) := by
  unfold execPairWriteLo
  repeat' with_reducible first | assumption | apply done_done | apply regStep_keeps | apply regWrite_keeps | intro _ | split

theorem execPairWriteHi_keeps {s₀ s : State} (h₀ : Keeps s₀ s) (ag : Agent) (a : Dpa) (v : W32) : Done s₀
    (execPairWriteHi ag a v s) := by
  unfold execPairWriteHi
  repeat' with_reducible first | assumption | apply done_done | apply regStep_keeps | apply regWrite_keeps | intro _ | split

theorem execErrlogCodeRead_keeps {s₀ s : State} (h₀ : Keeps s₀ s) (ag : Agent) (a : Dpa) : Done s₀ (execErrlogCodeRead ag a s) := by
  unfold execErrlogCodeRead
  repeat' with_reducible first | assumption | apply done_done | apply regStep_keeps | apply regRead_keeps | intro _ | split

theorem execRcRegisterRead_keeps {s₀ s : State} (h₀ : Keeps s₀ s) (ag : Agent) (a : Dpa) : Done s₀ (execRcRegisterRead ag a s) := by
  unfold execRcRegisterRead
  repeat' with_reducible first | assumption | apply done_done | apply regStep_keeps | apply regRead_keeps | intro _

theorem execRegisterWrite_keeps {s₀ s : State} (h₀ : Keeps s₀ s) (ag : Agent) (a : Dpa) (v : W32) : Done s₀
    (execRegisterWrite ag a v s) := by
  unfold execRegisterWrite
  repeat' with_reducible first | assumption | apply done_done | apply regStep_keeps | apply regWrite_keeps | intro _

theorem laneWord_keeps {s₀ s : State} (h₀ : Keeps s₀ s) (a : Nat) (n : Nat) (v : W32) : Keeps s₀ (laneWord a n v s).2 := by
  unfold laneWord
  repeat' with_reducible first | assumption | apply draw_keeps | dsimp only | split

theorem hbmReach_keeps {s₀ s : State} (h₀ : Keeps s₀ s) (ag : Agent) (a : Dpa) : KeepsOpt s₀ (hbmReach ag a s) := by
  unfold hbmReach
  repeat' with_reducible first
    | assumption | apply logErr_keeps | apply domainDownLog_keeps | exact keepsOpt_none _ | apply keepsOpt_some | split

theorem lineRead_keeps {s₀ s : State} (h₀ : Keeps s₀ s) (ag : Agent) (a : Dpa) (n : Nat) : Keeps s₀ (lineRead ag a n s).2 := by
  unfold lineRead
  repeat' with_reducible first
    | assumption | apply domainDownLog_keeps | apply nrdNow_keeps | apply keeps_snd (by assumption) | split

theorem lineWrite_keeps {s₀ s : State} (h₀ : Keeps s₀ s) (ag : Agent) (a : Dpa) (d : List Byte) : Keeps s₀ (lineWrite ag a d s).2
    := by
  unfold lineWrite
  repeat' with_reducible first | assumption | apply domainDownLog_keeps | apply nwrNow_keeps | dsimp only | split

theorem memRead_keeps {s₀ s : State} (h₀ : Keeps s₀ s) (ag : Agent) (a : Dpa) (n : Nat) : Keeps s₀ (memRead ag a n s).2 := by
  unfold memRead
  repeat' with_reducible first
    | assumption | apply hbmReach_keeps | apply hbmRead_keeps | apply winRead_keeps | apply lineRead_keeps | apply regRead_keeps
    | apply keeps_snd (by assumption) | apply keeps_opt (by assumption) | split

theorem memWrite_keeps {s₀ s : State} (h₀ : Keeps s₀ s) (ag : Agent) (a : Dpa) (n : Nat) (v : W32) : Keeps s₀
    (memWrite ag a n v s).2 := by
  unfold memWrite
  repeat' with_reducible first
    | assumption | apply hbmReach_keeps | apply hbmWrite_keeps | apply winWrite_keeps | apply lineWrite_keeps
    | apply laneWord_keeps | apply regWrite_keeps | apply keeps_snd (by assumption) | apply keeps_opt (by assumption)
    | dsimp only | split

theorem settle_keeps {s₀ s0 : State} (h₀ : Keeps s₀ s0) (ag : Agent) (r : AccR × State) (h₁ : Keeps s₀ r.2) : Keeps s₀
    (settle ag s0 r) := by
  obtain ⟨x, y⟩ := r
  unfold settle
  repeat' with_reducible first | assumption | apply respond_keeps | apply keeps_snd (by assumption) | split

theorem execUncachedAccess_keeps {s₀ s : State} (h₀ : Keeps s₀ s) (c : BitVec 3) : Done s₀ (execUncachedAccess c s) := by
  unfold execUncachedAccess
  repeat' with_reducible first
    | assumption | apply done_done | apply State_setCore_keeps | apply settle_keeps | apply memWrite_keeps | apply memRead_keeps
    | dsimp only | split

theorem hbmAmo_keeps {s₀ s : State} (h₀ : Keeps s₀ s) (a : Dpa) (op : BitVec 5) (v : W32) : Keeps s₀ (hbmAmo a op v s).2 := by
  unfold hbmAmo
  repeat' with_reducible first
    | assumption | apply hbmReach_keeps | apply hbmRead_keeps | apply hbmWrite_keeps | apply keeps_snd (by assumption)
    | apply keeps_opt (by assumption) | dsimp only | split

theorem mstAccess_keeps {s₀ s : State} (h₀ : Keeps s₀ s) (op : BitVec 4) (a : Dpa) (d : W32) : Keeps s₀ (mstAccess op a d s).2 := by
  unfold mstAccess
  repeat' with_reducible first
    | assumption | apply domainDownLog_keeps | apply busPost_keeps | apply memRead_keeps | apply memWrite_keeps
    | apply hbmAmo_keeps | dsimp only | split

theorem execMstReq_keeps {s₀ s : State} (h₀ : Keeps s₀ s) (op : BitVec 4) (a : Dpa) (d : W32) : Done s₀ (execMstReq op a d s) := by
  unfold execMstReq
  repeat' with_reducible first
    | assumption | apply done_done | apply respond_keeps | apply logErr_keeps | apply settle_keeps | apply mstAccess_keeps
    | simp only [keeps_mk] | split

theorem dbgHbmRead_keeps {s₀ s : State} (h₀ : Keeps s₀ s) (a : Dpa) : Keeps s₀ (dbgHbmRead a s).2 := by
  unfold dbgHbmRead
  repeat' with_reducible first | assumption | apply eccCount_keeps | apply logErr_keeps | dsimp only | split

theorem regPairRead_keeps {s₀ s : State} (h₀ : Keeps s₀ s) (a : Dpa) : Keeps s₀ (regPairRead a s).2 := by
  unfold regPairRead
  repeat' with_reducible first | assumption | apply regRead_keeps | apply keeps_snd (by assumption) | split

theorem regPairWrite_keeps {s₀ s : State} (h₀ : Keeps s₀ s) (a : Dpa) (v : W64) : Keeps s₀ (regPairWrite a v s).2 := by
  unfold regPairWrite
  repeat' with_reducible first | assumption | apply regWrite_keeps | apply keeps_snd (by assumption) | split

theorem wireBytes_keeps {s₀ : State} (r : Option (List Byte) × State) (h₀ : Keeps s₀ r.2) : Keeps s₀ (wireBytes r).2 := by
  obtain ⟨x, y⟩ := r
  unfold wireBytes
  repeat' with_reducible first | assumption | apply keeps_snd (by assumption) | split

theorem wireDone_keeps {s₀ : State} (r : Bool × State) (h₀ : Keeps s₀ r.2) : Keeps s₀ (wireDone r).2 := by
  unfold wireDone
  split <;> exact h₀

theorem wireMemRead_keeps {s₀ s : State} (h₀ : Keeps s₀ s) (a : Dpa) : Keeps s₀ (wireMemRead a s).2 := by
  unfold wireMemRead
  repeat' with_reducible first
    | assumption | apply hbmReach_keeps | apply wireBytes_keeps | apply dbgHbmRead_keeps | apply winRead_keeps
    | apply lineRead_keeps | apply regPairRead_keeps | apply keeps_opt (by assumption) | split

theorem wireMemWrite_keeps {s₀ s : State} (h₀ : Keeps s₀ s) (a : Dpa) (v : W64) : Keeps s₀ (wireMemWrite a v s).2 := by
  unfold wireMemWrite
  repeat' with_reducible first
    | assumption | apply hbmReach_keeps | apply hbmWrite_keeps | apply wireDone_keeps | apply winWrite_keeps
    | apply lineWrite_keeps | apply regPairWrite_keeps | apply keeps_snd (by assumption) | apply keeps_opt (by assumption) | split

theorem wireEnd_keeps {s₀ s0 : State} (h₀ : Keeps s₀ s0) (coll : Bool) (r : WireR × State) (h₁ : Keeps s₀ r.2) : Keeps s₀
    (wireEnd coll s0 r) := by
  obtain ⟨x, y⟩ := r
  unfold wireEnd
  repeat' with_reducible first | assumption | apply wireAns_keeps | apply keeps_snd (by assumption) | simp only [keeps_mk] | split

theorem wireReg_keeps {s₀ s : State} (h₀ : Keeps s₀ s) (a : Dpa) (r : State → AccR × State) (hr : ∀ (x0
    : State), Keeps s₀ x0 → Keeps s₀ (r x0).2) : Keeps s₀ (wireReg a r s).2 := by
  unfold wireReg
  repeat' with_reducible first | assumption | apply unassigned_keeps | apply hr | apply keeps_snd (by assumption) | split

theorem execRdreg_keeps {s₀ s : State} (h₀ : Keeps s₀ s) (a : Dpa) (coll : Bool) : Done s₀ (execRdreg a coll s) := by
  unfold execRdreg
  repeat' with_reducible first
    | assumption | apply done_done | apply wireEnd_keeps | apply wireReg_keeps | apply regRead_keeps | intro _ | split

theorem execWrreg_keeps {s₀ s : State} (h₀ : Keeps s₀ s) (a : Dpa) (v : W32) (coll : Bool) : Done s₀ (execWrreg a v coll s) := by
  unfold execWrreg
  repeat' with_reducible first
    | assumption | apply done_done | apply wireEnd_keeps | apply wireReg_keeps | apply regWrite_keeps | intro _ | split

theorem execRdmem_keeps {s₀ s : State} (h₀ : Keeps s₀ s) (a : Dpa) (coll : Bool) : Done s₀ (execRdmem a coll s) := by
  unfold execRdmem
  repeat' with_reducible first
    | assumption | apply done_done | apply wireEnd_keeps | apply wireMemRead_keeps | apply unassigned_keeps | split

theorem execWrmem_keeps {s₀ s : State} (h₀ : Keeps s₀ s) (a : Dpa) (v : W64) (coll : Bool) : Done s₀ (execWrmem a v coll s) := by
  unfold execWrmem
  repeat' with_reducible first
    | assumption | apply done_done | apply wireEnd_keeps | apply wireMemWrite_keeps | apply unassigned_keeps | split

-- The operations of Machine/Tick.lean

theorem ran_keeps {s₀ s : State} (h₀ : Keeps s₀ s) (f : State → Out) (hf : ∀ t, Keeps s₀ t → Done s₀ (f t)) : Keeps s₀ (ran f s)
    := by
  obtain ⟨t, ht, h⟩ := hf s h₀
  simp only [ran, ht]
  exact h

theorem times_keeps {s₀ s : State} (h₀ : Keeps s₀ s) (n : Nat) (f : State → State) (hf : ∀ (x0 : State), Keeps s₀ x0 → Keeps s₀
    (f x0)) : Keeps s₀ (times n f s) := by
  induction n generalizing s with
  | zero => exact h₀
  | succ n ih =>
    unfold times
    repeat' with_reducible first | assumption | apply ih | apply hf

theorem forEach_keeps {s₀ s : State} (h₀ : Keeps s₀ s) {α : Type} (l : List α) (f : α → State → Out) (hf : ∀ (x0 : α) (x1
    : State), Keeps s₀ x1 → Done s₀ (f x0 x1)) : Keeps s₀ (forEach l f s) := by
  unfold forEach
  repeat' with_reducible first | assumption | apply ran_keeps | apply hf | apply keeps_foldl | intro _

theorem landed_keeps {s₀ s : State} (h₀ : Keeps s₀ s) (x : XItem) : Keeps s₀ (landed x s) := by
  unfold landed
  repeat' with_reducible first
    | assumption | apply modDisp_keeps | apply writeLand_keeps | apply hostWrite_keeps | apply sendMsi_keeps | apply srcPend_keeps
    | apply routePkt_keeps | apply engineTake_keeps | apply State_modLq_keeps | split

theorem takeDirect_keeps {s₀ s : State} (h₀ : Keeps s₀ s) : Keeps s₀ (takeDirect s) := by
  unfold takeDirect
  repeat' with_reducible first | assumption | apply landed_keeps | apply keeps_foldl | simp only [keeps_mk] | intro _ | split

theorem execCrossingArrive_keeps {s₀ s : State} (h₀ : Keeps s₀ s) (i : Nat) : Done s₀ (execCrossingArrive i s) := by
  unfold execCrossingArrive
  repeat' with_reducible first | assumption | apply done_done | apply takeDirect_keeps | apply arrive_keeps

theorem execCrossingRelease_keeps {s₀ s : State} (h₀ : Keeps s₀ s) (i : Nat) : Done s₀ (execCrossingRelease i s) := by
  unfold execCrossingRelease
  repeat' with_reducible first | assumption | apply done_done | apply takeDirect_keeps | apply releaseWhere_keeps | split

theorem releaseDue_keeps {s₀ s : State} (h₀ : Keeps s₀ s) : Keeps s₀ (releaseDue s) := by
  unfold releaseDue
  repeat' with_reducible first | assumption | apply takeDirect_keeps | apply releaseWhere_keeps

theorem plantWork_keeps {s₀ s : State} (h₀ : Keeps s₀ s) : Keeps s₀ (plantWork s) := by
  unfold plantWork
  repeat' with_reducible first
    | assumption | apply ran_keeps | apply execTripSeen_keeps | apply times_keeps | apply execPostRelease_keeps
    | apply execClampSample_keeps | intro _ | split

theorem completions_keeps {s₀ s : State} (h₀ : Keeps s₀ s) : Keeps s₀ (completions s) := by
  unfold completions
  repeat' with_reducible first | assumption | apply forEach_keeps | apply execCommandCompletion_keeps | intro _

theorem writesApply_keeps {s₀ s : State} (h₀ : Keeps s₀ s) : Keeps s₀ (writesApply s) := by
  unfold writesApply
  repeat' with_reducible first | assumption | apply syncApply_keeps | apply keeps_foldl | simp only [keeps_mk] | intro _ | split

theorem forOp_keeps {s₀ s : State} (h₀ : Keeps s₀ s) (op : Nat) (f : Owner → BitVec 3 → W32 → State → Out) (hf : ∀ (x0 : Owner)
    (x1 : BitVec 3) (x2 : W32) (x3 : State), Keeps s₀ x3 → Done s₀ (f x0 x1 x2 x3)) : Keeps s₀ (forOp op f s) := by
  unfold forOp
  repeat' with_reducible first | assumption | apply forEach_keeps | apply hf | intro _

theorem syncWork_keeps {s₀ s : State} (h₀ : Keeps s₀ s) : Keeps s₀ (syncWork s) := by
  unfold syncWork
  repeat' with_reducible first
    | assumption | apply completions_keeps | apply writesApply_keeps | apply forOp_keeps | apply execSyncSet_keeps
    | apply times_keeps | apply ran_keeps | apply execSyncIncrementApply_keeps | intro _

theorem roundWork_keeps {s₀ s : State} (h₀ : Keeps s₀ s) : Keeps s₀ (roundWork s) := by
  unfold roundWork
  repeat' with_reducible first
    | assumption | apply forEach_keeps | apply execWaitQuerySatisfied_keeps | apply forOp_keeps | apply execExchangeRound_keeps
    | apply execBoundaryRound_keeps | apply execBoundaryRoundDone_keeps | apply execFreexBatch_keeps | apply execBarrier_keeps
    | apply execBoundaryRoundTimeout_keeps | intro _

theorem forQueues_keeps {s₀ s : State} (h₀ : Keeps s₀ s) (f : Owner → BitVec 3 → State → Out) (hf : ∀ (x0 : Owner) (x1 : BitVec 3)
    (x2 : State), Keeps s₀ x2 → Done s₀ (f x0 x1 x2)) : Keeps s₀ (forQueues f s) := by
  unfold forQueues
  repeat' with_reducible first | assumption | apply forEach_keeps | apply hf | intro _

theorem headWork_keeps {s₀ s : State} (h₀ : Keeps s₀ s) : Keeps s₀ (headWork s) := by
  unfold headWork
  repeat' with_reducible first
    | assumption | apply forOp_keeps | apply execNop_keeps | apply forQueues_keeps | apply execCommandDispatch_keeps
    | apply execCommandWaitSatisfied_keeps | apply execHeaderCheck_keeps | intro _

theorem endWork_keeps {s₀ s : State} (h₀ : Keeps s₀ s) : Keeps s₀ (endWork s) := by
  unfold endWork
  repeat' with_reducible first
    | assumption | apply times_keeps | apply ran_keeps | apply execEndReportReceive_keeps | apply execQuillExceptionReport_keeps
    | apply forOp_keeps | apply execRelease_keeps | apply execStop_keeps | apply execPlantArm_keeps | apply execPlantBind_keeps
    | apply forEach_keeps | apply execLaunchFaultDrained_keeps | intro _

theorem launchWork_keeps {s₀ s : State} (h₀ : Keeps s₀ s) : Keeps s₀ (launchWork s) := by
  unfold launchWork
  repeat' with_reducible first
    | assumption | apply forEach_keeps | apply execAgreedCountMissed_keeps | apply execLaunchTick_keeps | intro _

theorem schedWork_keeps {s₀ s : State} (h₀ : Keeps s₀ s) : Keeps s₀ (schedWork s) := by
  unfold schedWork
  repeat' with_reducible first
    | assumption | apply completions_keeps | apply launchWork_keeps | apply endWork_keeps | apply headWork_keeps
    | apply roundWork_keeps | apply syncWork_keeps | apply enableWaiting_keeps

theorem inkWork_keeps {s₀ s : State} (h₀ : Keeps s₀ s) : Keeps s₀ (inkWork s) := by
  unfold inkWork
  repeat' with_reducible first
    | assumption | apply times_keeps | apply pageFetch_keeps | apply tagGrant_keeps | apply inkMetered_keeps | apply swapEnd_keeps
    | apply keeps_foldl | intro _ | split

theorem inputWork_keeps {s₀ s : State} (h₀ : Keeps s₀ s) : Keeps s₀ (inputWork s) := by
  unfold inputWork
  repeat' with_reducible first
    | assumption | apply times_keeps | apply ran_keeps | apply execXtRelease_keeps | apply execSwapBufferDeliver_keeps
    | apply execFlitRelease_keeps | apply forEach_keeps | apply execPartitionStop_keeps | apply execWaitReplyRelease_keeps
    | apply execClampReply_keeps | intro _ | split

theorem keeps_foldl_mem {α : Type} {s₀ s : State} (h : Keeps s₀ s) (f : State → α → State) (l : List α)
    (hf : ∀ a ∈ l, ∀ s, Keeps s₀ s → Keeps s₀ (f s a)) : Keeps s₀ (l.foldl f s) := by
  induction l generalizing s with
  | nil => exact h
  | cons a l ih => exact ih (hf a List.mem_cons_self s h) fun b hb => hf b (List.mem_cons_of_mem a hb)
theorem insRows_keeps (s₀ : State) (q : Byte) : ∀ f ∈ insRows, ∀ t, Keeps s₀ t → Done s₀ (f q t) := by
  simp only [insRows, List.cons_append, List.nil_append, List.forall_mem_cons]
  exact ⟨fun t h => execAlu_keeps h q, fun t h => execAlui_keeps h q, fun t h => execCmp_keeps h q,
    fun t h => execPred_keeps h q, fun t h => execAddrAset_keeps h q, fun t h => execAddrAhi_keeps h q,
    fun t h => execAddrAadd_keeps h q, fun t h => execAddrAget_keeps h q, fun t h => execCtrlNop_keeps h q,
    fun t h => execCtrlBr_keeps h q, fun t h => execCtrlBrr_keeps h q, fun t h => execCtrlEnd_keeps h q,
    fun t h => execCtrlLcrd_keeps h q, fun t h => execCtrlSrrd_keeps h q, fun t h => execLoop_keeps h q,
    fun t h => execLd_keeps h q, fun t h => execSt_keeps h q, fun t h => execTrace_keeps h q,
    fun t h => execBrk_keeps h q, fun t h => execStrokeInit_keeps h q, fun t h => execStrokePload_keeps h q,
    fun t h => execStrokeDense_keeps h q, fun t h => execStrokeSparse_keeps h q, fun t h => execStrokeFactor_keeps h q,
    fun t h => execMmaPass_keeps h q, fun t h => execMmaClr_keeps h q, fun t h => execMmaStore_keeps h q,
    fun t h => execAcceptHb_keeps h q, fun t h => execAcceptMh_keeps h q, fun t h => execAcceptCat_keeps h q,
    fun t h => execAcceptMask_keeps h q, fun t h => execVar_keeps h q, fun t h => execBetaAdv_keeps h q,
    fun t h => execBetaSet_keeps h q, fun t h => execBetaLda_keeps h q, fun t h => execBetaLdc_keeps h q,
    fun t h => execBetaLds_keeps h q, fun t h => execBetaSweep_keeps h q, fun t h => execXsend_keeps h q,
    fun t h => execXrecv_keeps h q, fun t h => execPost_keeps h q, fun t h => execClamp_keeps h q,
    fun t h => execWait_keeps h q, fun t h => execSignal_keeps h q, fun t h => execPghint_keeps h q,
    fun t h => execPcRangeFallThrough_keeps h q, nofun⟩
theorem issueOne_keeps {s₀ s : State} (h₀ : Keeps s₀ s) (q : Byte) : Keeps s₀ (issueOne q s) :=
  keeps_foldl_mem h₀ _ _ fun f hf _ h => ran_keeps h _ (insRows_keeps s₀ q f hf)

theorem overflowToo_keeps {s₀ s : State} (h₀ : Keeps s₀ s) (q : Byte) : Keeps s₀ (overflowToo q s) := by
  unfold overflowToo
  repeat' with_reducible first | assumption | apply issueOne_keeps | apply State_modLq_keeps | dsimp only | split

theorem sendWork_keeps {s₀ s : State} (h₀ : Keeps s₀ s) : Keeps s₀ (sendWork s) := by
  unfold sendWork
  repeat' with_reducible first
    | assumption | apply times_keeps | apply ran_keeps | apply execSignalSend_keeps | apply forEach_keeps
    | apply execEndReportSend_keeps | apply keeps_foldl | intro _ | split

theorem swapWork_keeps {s₀ s : State} (h₀ : Keeps s₀ s) : Keeps s₀ (swapWork s) := by
  unfold swapWork
  repeat' with_reducible first | assumption | apply quillSwap_keeps | apply keeps_foldl | intro _ | split

theorem quillWork_keeps {s₀ s : State} (h₀ : Keeps s₀ s) : Keeps s₀ (quillWork s) := by
  unfold quillWork
  repeat' with_reducible first
    | assumption | apply inputWork_keeps | apply overflowToo_keeps | apply issueOne_keeps | apply swapWork_keeps
    | apply sendWork_keeps | apply keeps_foldl | intro _

theorem linkWork_keeps {s₀ s : State} (h₀ : Keeps s₀ s) : Keeps s₀ (linkWork s) := by
  unfold linkWork
  repeat' with_reducible first
    | assumption | apply ran_keeps | apply execTickReplyMissing_keeps | apply tickReqNow_keeps | apply forEach_keeps
    | apply done_done | apply times_keeps | apply execPacketRelease_keeps | apply execNakRepeat_keeps
    | apply execReplayTimeout_keeps | apply linkSend_keeps | apply execRemoteRequestTimeout_keeps | apply keeps_foldl | intro _
    | split

theorem lsWork_keeps {s₀ s : State} (h₀ : Keeps s₀ s) : Keeps s₀ (lsWork s) := by
  unfold lsWork
  repeat' with_reducible first | assumption | apply lsTimeout_keeps | apply lsEpochStep_keeps | apply lsRelease_keeps

theorem placeAll_keeps {s₀ y1 : State} (h₀ : Keeps s₀ y1) (y0 : Nat) : Keeps s₀ (placeAll y0 y1) := by
  induction y0 generalizing y1 with
  | zero => exact h₀
  | succ n ih =>
    unfold placeAll
    repeat' with_reducible first | assumption | apply ih | apply placeItem_keeps | simp only [keeps_mk] | split

theorem storesSettle_keeps {s₀ s : State} (h₀ : Keeps s₀ s) : Keeps s₀ (storesSettle s) := by
  unfold storesSettle
  repeat' with_reducible first | assumption | simp only [keeps_mk]

theorem endOfTick_keeps {s₀ s : State} (h₀ : Keeps s₀ s) : Keeps s₀ (endOfTick s) := by
  unfold endOfTick
  repeat' with_reducible first
    | assumption | apply watchSettle_keeps | apply watchFires_keeps | apply ran_keeps | apply execTraceDrain_keeps
    | apply ownSettle_keeps | apply storesSettle_keeps | apply placeAll_keeps | apply fabRun_keeps | simp only [keeps_mk]

theorem drainWork_keeps {s₀ s : State} (h₀ : Keeps s₀ s) : Keeps s₀ (drainWork s) := by
  unfold drainWork
  repeat' with_reducible first | assumption | apply ran_keeps | apply execDomainDrained_keeps | apply keeps_foldl | intro _

theorem tickWork_keeps {s₀ s : State} (h₀ : Keeps s₀ s) : Keeps s₀ (tickWork s) := by
  unfold tickWork
  repeat' with_reducible first
    | assumption | apply ran_keeps | apply execServiceWindowEnd_keeps | apply execServiceWindowBegin_keeps | apply plantWork_keeps
    | apply releaseDue_keeps | apply schedWork_keeps | apply lsRelease_keeps | apply inkWork_keeps | apply quillWork_keeps
    | apply linkWork_keeps | apply lsWork_keeps | apply patrolTick_keeps | apply forEach_keeps
    | apply execBackgroundStarvation_keeps | apply drainWork_keeps | apply endOfTick_keeps | intro _

theorem nextTick_keeps {s₀ s : State} (h₀ : Keeps s₀ s) : Keeps s₀ (nextTick s) := by
  unfold nextTick
  repeat' with_reducible first
    | assumption | apply writesApply_keeps | apply klTick_keeps | apply plantTick_keeps | simp only [keeps_mk]

theorem execTick_keeps {s₀ s : State} (h₀ : Keeps s₀ s) : Done s₀ (execTick s) := by
  unfold execTick
  repeat' with_reducible first | assumption | apply done_done | apply nextTick_keeps | apply tickWork_keeps | split

-- The whole machine
/-- Every command completes, and what it leaves keeps the queue and the two canonical forms. -/
theorem exec_done (c : Instr) (s : State) : Done s (exec c s) :=
  have hs := Keeps.refl s
  match c with
  | .tick => execTick_keeps hs
  | .pairReadLo ag a => execPairReadLo_keeps hs ag a
  | .pairReadHi ag a => execPairReadHi_keeps hs ag a
  | .pairWriteLo ag a v => execPairWriteLo_keeps hs ag a v
  | .pairWriteHi ag a v => execPairWriteHi_keeps hs ag a v
  | .errlogCodeRead ag a => execErrlogCodeRead_keeps hs ag a
  | .rcRegisterRead ag a => execRcRegisterRead_keeps hs ag a
  | .registerWrite ag a v => execRegisterWrite_keeps hs ag a v
  | .crossingArrive j => execCrossingArrive_keeps hs j
  | .crossingRelease j => execCrossingRelease_keeps hs j
  | .sendLatchPlace j => execSendLatchPlace_keeps hs j
  | .flitInject j => execFlitInject_keeps hs j
  | .flitRelease => execFlitRelease_keeps hs
  | .swapBufferDeliver j => execSwapBufferDeliver_keeps hs j
  | .serviceWindowBegin => execServiceWindowBegin_keeps hs
  | .serviceWindowEnd => execServiceWindowEnd_keeps hs
  | .launchTick o pid => execLaunchTick_keeps hs o pid
  | .agreedCountMissed o pid => execAgreedCountMissed_keeps hs o pid
  | .tickLoad => execTickLoad_keeps hs
  | .syncEn v => execSyncEn_keeps hs v
  | .lsEnable v => execLsEnable_keeps hs v
  | .lsEpochEnd => execLsEpochEnd_keeps hs
  | .lsRecordReceive r => execLsRecordReceive_keeps hs r
  | .lsPartnerTimeout => execLsPartnerTimeout_keeps hs
  | .lsHoldRelease => execLsHoldRelease_keeps hs
  | .storeWindowRead ag a len => execStoreWindowRead_keeps hs ag a len
  | .storeWindowWrite ag a mask d => execStoreWindowWrite_keeps hs ag a mask d
  | .nnCalibrationStart q => execNnCalibrationStart_keeps hs q
  | .nnCalibrationEnd q trims met accepts => execNnCalibrationEnd_keeps hs q trims met accepts
  | .alu q => execAlu_keeps hs q
  | .alui q => execAlui_keeps hs q
  | .cmp q => execCmp_keeps hs q
  | .pred q => execPred_keeps hs q
  | .addrAset q => execAddrAset_keeps hs q
  | .addrAhi q => execAddrAhi_keeps hs q
  | .addrAadd q => execAddrAadd_keeps hs q
  | .addrAget q => execAddrAget_keeps hs q
  | .ctrlNop q => execCtrlNop_keeps hs q
  | .ctrlBr q => execCtrlBr_keeps hs q
  | .ctrlBrr q => execCtrlBrr_keeps hs q
  | .ctrlEnd q => execCtrlEnd_keeps hs q
  | .ctrlLcrd q => execCtrlLcrd_keeps hs q
  | .ctrlSrrd q => execCtrlSrrd_keeps hs q
  | .loop q => execLoop_keeps hs q
  | .pcRangeFallThrough q => execPcRangeFallThrough_keeps hs q
  | .ld q => execLd_keeps hs q
  | .st q => execSt_keeps hs q
  | .strokeInit q => execStrokeInit_keeps hs q
  | .strokePload q => execStrokePload_keeps hs q
  | .strokeDense q => execStrokeDense_keeps hs q
  | .strokeSparse q => execStrokeSparse_keeps hs q
  | .strokeFactor q => execStrokeFactor_keeps hs q
  | .mmaPass q => execMmaPass_keeps hs q
  | .mmaClr q => execMmaClr_keeps hs q
  | .mmaStore q => execMmaStore_keeps hs q
  | .acceptHb q => execAcceptHb_keeps hs q
  | .acceptMh q => execAcceptMh_keeps hs q
  | .acceptCat q => execAcceptCat_keeps hs q
  | .acceptMask q => execAcceptMask_keeps hs q
  | .var q => execVar_keeps hs q
  | .betaAdv q => execBetaAdv_keeps hs q
  | .betaSet q => execBetaSet_keeps hs q
  | .betaLda q => execBetaLda_keeps hs q
  | .betaLdc q => execBetaLdc_keeps hs q
  | .betaLds q => execBetaLds_keeps hs q
  | .betaSweep q => execBetaSweep_keeps hs q
  | .xsend q => execXsend_keeps hs q
  | .xrecv q => execXrecv_keeps hs q
  | .post q => execPost_keeps hs q
  | .clamp q => execClamp_keeps hs q
  | .clampSample => execClampSample_keeps hs
  | .clampReply q => execClampReply_keeps hs q
  | .wait q => execWait_keeps hs q
  | .waitQuerySatisfied j => execWaitQuerySatisfied_keeps hs j
  | .waitReplyRelease q => execWaitReplyRelease_keeps hs q
  | .signal q => execSignal_keeps hs q
  | .signalSend q => execSignalSend_keeps hs q
  | .syncIncrementApply => execSyncIncrementApply_keeps hs
  | .pghint q => execPghint_keeps hs q
  | .trace q => execTrace_keeps hs q
  | .brk q => execBrk_keeps hs q
  | .endReportSend q => execEndReportSend_keeps hs q
  | .endReportReceive => execEndReportReceive_keeps hs
  | .quillExceptionReport => execQuillExceptionReport_keeps hs
  | .partitionStop q => execPartitionStop_keeps hs q
  | .launchFaultDrained o pid => execLaunchFaultDrained_keeps hs o pid
  | .quillSwap q => execQuillSwap_keeps hs q
  | .swapComplete q => execSwapComplete_keeps hs q
  | .quillMove q q' => execQuillMove_keeps hs q q'
  | .pageFetch k => execPageFetch_keeps hs k
  | .pageWalkDone j => execPageWalkDone_keeps hs j
  | .pageResident j h => execPageResident_keeps hs j h
  | .ctxEnableSet o => execCtxEnableSet_keeps hs o
  | .ctxEnableClear o => execCtxEnableClear_keeps hs o
  | .contextDrainDone o => execContextDrainDone_keeps hs o
  | .doorbell o k v => execDoorbell_keeps hs o k v
  | .qEnable o k v => execQEnable_keeps hs o k v
  | .ringSlotFetch o k h => execRingSlotFetch_keeps hs o k h
  | .qStoppedClear o k => execQStoppedClear_keeps hs o k
  | .headerCheck o k => execHeaderCheck_keeps hs o k
  | .commandWaitSatisfied o k => execCommandWaitSatisfied_keeps hs o k
  | .commandDispatch o k => execCommandDispatch_keeps hs o k
  | .commandCompletion o k n => execCommandCompletion_keeps hs o k n
  | .nop o k n => execNop_keeps hs o k n
  | .syncSet o k n => execSyncSet_keeps hs o k n
  | .launch o k n h => execLaunch_keeps hs o k n h
  | .launchPlace o pid h => execLaunchPlace_keeps hs o pid h
  | .exchange o k n h => execExchange_keeps hs o k n h
  | .exchangeRound o k n h => execExchangeRound_keeps hs o k n h
  | .stop o k n => execStop_keeps hs o k n
  | .release o k n => execRelease_keeps hs o k n
  | .copy o k n h => execCopy_keeps hs o k n h
  | .pageInval o k n => execPageInval_keeps hs o k n
  | .sort o k n h => execSort_keeps hs o k n h
  | .allReduce o k n h peers => execAllReduce_keeps hs o k n h peers
  | .allGather o k n h peers => execAllGather_keeps hs o k n h peers
  | .broadcast o k n h peers => execBroadcast_keeps hs o k n h peers
  | .boundaryExchange o k n h => execBoundaryExchange_keeps hs o k n h
  | .barrier o k n => execBarrier_keeps hs o k n
  | .sampleSort o k n h peers => execSampleSort_keeps hs o k n h peers
  | .collCtlReceive g src fields => execCollCtlReceive_keeps hs g src fields
  | .collGrpValid g v => execCollGrpValid_keeps hs g v
  | .plantBind o k n => execPlantBind_keeps hs o k n
  | .plantArm o k n => execPlantArm_keeps hs o k n
  | .syncAlloc ag o => execSyncAlloc_keeps hs ag o
  | .syncFree o n => execSyncFree_keeps hs o n
  | .syncCountWrite o n thresh v => execSyncCountWrite_keeps hs o n thresh v
  | .syncAdd o n v => execSyncAdd_keeps hs o n v
  | .inkEnable v => execInkEnable_keeps hs v
  | .bar4Access off wr len d => execBar4Access_keeps hs off wr len d
  | .inkwellTagGrant k => execInkwellTagGrant_keeps hs k
  | .hcEnable o v => execHcEnable_keeps hs o v
  | .hcInitDone o => execHcInitDone_keeps hs o
  | .pageOwnerWrite g v => execPageOwnerWrite_keeps hs g v
  | .hbmRefresh stk => execHbmRefresh_keeps hs stk
  | .patrolRead stk => execPatrolRead_keeps hs stk
  | .rawBit r b => execRawBit_keeps hs r b
  | .blockOffered => execBlockOffered_keeps hs
  | .sourceRestartDone r => execSourceRestartDone_keeps hs r
  | .startupTestDone r => execStartupTestDone_keeps hs r
  | .fatalStartupTimeout => execFatalStartupTimeout_keeps hs
  | .clearFatal => execClearFatal_keeps hs
  | .instantiate j => execInstantiate_keeps hs j
  | .reseed j => execReseed_keeps hs j
  | .autoReseed j => execAutoReseed_keeps hs j
  | .drbgOperationDone j => execDrbgOperationDone_keeps hs j
  | .swPortGenerate host => execSwPortGenerate_keeps hs host
  | .swSepiaData ag => execSwSepiaData_keeps hs ag
  | .swHostData ag => execSwHostData_keeps hs ag
  | .cipherMaskRefresh => execCipherMaskRefresh_keeps hs
  | .klEnable v => execKlEnable_keeps hs v
  | .linkTrained l ok chip link dim dir => execLinkTrained_keeps hs l ok chip link dim dir
  | .frameOpportunity l => execFrameOpportunity_keeps hs l
  | .dataFrame l f => execDataFrame_keeps hs l f
  | .linkFrame l f => execLinkFrame_keeps hs l f
  | .badFrame l why => execBadFrame_keeps hs l why
  | .nakRepeat l => execNakRepeat_keeps hs l
  | .replayTimeout l => execReplayTimeout_keeps hs l
  | .packetRelease l b => execPacketRelease_keeps hs l b
  | .remoteRequest => execRemoteRequest_keeps hs
  | .remoteResponse => execRemoteResponse_keeps hs
  | .remoteRequestTimeout tag => execRemoteRequestTimeout_keeps hs tag
  | .tickReqSend phase => execTickReqSend_keeps hs phase
  | .tickReqReceive l f t2 t3 => execTickReqReceive_keeps hs l f t2 t3
  | .tickReply f t4 => execTickReply_keeps hs f t4
  | .tickReplyMissing => execTickReplyMissing_keeps hs
  | .acquire => execAcquire_keeps hs
  | .syncOutPulse => execSyncOutPulse_keeps hs
  | .syncInEdge t => execSyncInEdge_keeps hs t
  | .boundaryRound o k n => execBoundaryRound_keeps hs o k n
  | .boundaryRoundDone o k n => execBoundaryRoundDone_keeps hs o k n
  | .freexBatch o k n => execFreexBatch_keeps hs o k n
  | .boundaryRoundTimeout o k n => execBoundaryRoundTimeout_keeps hs o k n
  | .coreInstruction c => execCoreInstruction_keeps hs c
  | .busGrant => execBusGrant_keeps hs
  | .busrd => execBusrd_keeps hs
  | .busrdx => execBusrdx_keeps hs
  | .busupgr => execBusupgr_keeps hs
  | .evc => execEvc_keeps hs
  | .wb => execWb_keeps hs
  | .nrd => execNrd_keeps hs
  | .nwr => execNwr_keeps hs
  | .namo => execNamo_keeps hs
  | .uncachedAccess c => execUncachedAccess_keeps hs c
  | .reservationDeferExpiry c => execReservationDeferExpiry_keeps hs c
  | .irqSourceActive src => execIrqSourceActive_keeps hs src
  | .externalInterruptEntry c => execExternalInterruptEntry_keeps hs c
  | .mtimecmpMatch c => execMtimecmpMatch_keeps hs c
  | .sepClaim ag c => execSepClaim_keeps hs ag c
  | .sepComplete c v => execSepComplete_keeps hs c v
  | .snoopTimeout c => execSnoopTimeout_keeps hs c
  | .sepDomrst => execSepDomrst_keeps hs
  | .sepDomrstDone => execSepDomrstDone_keeps hs
  | .sepRun v => execSepRun_keeps hs v
  | .bflProgram => execBflProgram_keeps hs
  | .bflErase => execBflErase_keeps hs
  | .flashOperationDone f => execFlashOperationDone_keeps hs f
  | .velReleaseSet => execVelReleaseSet_keeps hs
  | .velReleaseClear => execVelReleaseClear_keeps hs
  | .releaseStage => execReleaseStage_keeps hs
  | .velDly p tap => execVelDly_keeps hs p tap
  | .tapStep p => execTapStep_keeps hs p
  | .uflFabricRead wa => execUflFabricRead_keeps hs wa
  | .uflProgram fab wa => execUflProgram_keeps hs fab wa
  | .uflErase fab wa => execUflErase_keeps hs fab wa
  | .velUflData ag => execVelUflData_keeps hs ag
  | .serialPortEn n v => execSerialPortEn_keeps hs n v
  | .txdata n v => execTxdata_keeps hs n v
  | .rxdata ag n => execRxdata_keeps hs ag n
  | .serialRxWord n v => execSerialRxWord_keeps hs n v
  | .velProbeEn n v => execVelProbeEn_keeps hs n v
  | .slaveWindowAccess ag a wr v => execSlaveWindowAccess_keeps hs ag a wr v
  | .slvAck rdata err => execSlvAck_keeps hs rdata err
  | .slvAckTimeout => execSlvAckTimeout_keeps hs
  | .mstReq op a d => execMstReq_keeps hs op a d
  | .mstAck => execMstAck_keeps hs
  | .bramCollision r words => execBramCollision_keeps hs r words
  | .bootLoad stream => execBootLoad_keeps hs stream
  | .loadDone => execLoadDone_keeps hs
  | .cfgClkGapTimeout => execCfgClkGapTimeout_keeps hs
  | .velCfgLoad stream => execVelCfgLoad_keeps hs stream
  | .velCfgData v => execVelCfgData_keeps hs v
  | .velRbFrame f => execVelRbFrame_keeps hs f
  | .irpBegin fab w => execIrpBegin_keeps hs fab w
  | .irpFrame fab w d crc => execIrpFrame_keeps hs fab w d crc
  | .irpEnd fab w => execIrpEnd_keeps hs fab w
  | .irpRead fab w => execIrpRead_keeps hs fab w
  | .irpAbort fab w => execIrpAbort_keeps hs fab w
  | .velLockSet v => execVelLockSet_keeps hs v
  | .velLockClr v => execVelLockClr_keeps hs v
  | .cflProgram => execCflProgram_keeps hs
  | .cflErase => execCflErase_keeps hs
  | .primaryGoldenWrite v => execPrimaryGoldenWrite_keeps hs v
  | .scrubPass => execScrubPass_keeps hs
  | .scrubFault vote rom => execScrubFault_keeps hs vote rom
  | .postRelease => execPostRelease_keeps hs
  | .disarmAll => execDisarmAll_keeps hs
  | .evidenceWrite m v => execEvidenceWrite_keeps hs m v
  | .plantEvWrData v => execPlantEvWrData_keeps hs v
  | .tripAssert => execTripAssert_keeps hs
  | .tripSeen => execTripSeen_keeps hs
  | .tripDeassert => execTripDeassert_keeps hs
  | .tripClr => execTripClr_keeps hs
  | .wakePulse => execWakePulse_keeps hs
  | .wake arg => execWake_keeps hs arg
  | .sleep => execSleep_keeps hs
  | .sessionTimeout => execSessionTimeout_keeps hs
  | .wireFrameError => execWireFrameError_keeps hs
  | .idcode coll => execIdcode_keeps hs coll
  | .rdreg a coll => execRdreg_keeps hs a coll
  | .wrreg a v coll => execWrreg_keeps hs a v coll
  | .rdmem a coll => execRdmem_keeps hs a coll
  | .wrmem a v coll => execWrmem_keeps hs a v coll
  | .halt m coll => execHalt_keeps hs m coll
  | .resume m coll => execResume_keeps hs m coll
  | .step c coll => execStep_keeps hs c coll
  | .vtrd coll => execVtrd_keeps hs coll
  | .vtwr v coll => execVtwr_keeps hs v coll
  | .wireAccessTimeout => execWireAccessTimeout_keeps hs
  | .dbgXtFire ag m => execDbgXtFire_keeps hs ag m
  | .dbgXtResume ag m => execDbgXtResume_keeps hs ag m
  | .xtRelease => execXtRelease_keeps hs
  | .dbgCoreHalt c => execDbgCoreHalt_keeps hs c
  | .dbgCoreResume c => execDbgCoreResume_keeps hs c
  | .dbgCoreStep c => execDbgCoreStep_keeps hs c
  | .dbgCoreData ag c wr v => execDbgCoreData_keeps hs ag c wr v
  | .dbgQwTgt v => execDbgQwTgt_keeps hs v
  | .traceDrain => execTraceDrain_keeps hs
  | .patchUnitWrite n v => execPatchUnitWrite_keeps hs n v
  | .patchRamWrite n k v => execPatchRamWrite_keeps hs n k v
  | .dbgVtTx ag wr v => execDbgVtTx_keeps hs ag wr v
  | .dbgVtRx ag wr v => execDbgVtRx_keeps hs ag wr v
  | .domainGateRequest d => execDomainGateRequest_keeps hs d
  | .domainRunRequest d => execDomainRunRequest_keeps hs d
  | .domainDrained d => execDomainDrained_keeps hs d
  | .domainWakeDone d => execDomainWakeDone_keeps hs d
  | .plantOnlyRequest => execPlantOnlyRequest_keeps hs
  | .keepaliveRequest => execKeepaliveRequest_keeps hs
  | .wakeEvent e wall => execWakeEvent_keeps hs e wall
  | .powerOnReset => execPowerOnReset_keeps hs
  | .externalReset => execExternalReset_keeps hs
  | .externalResetRelease => execExternalResetRelease_keeps hs
  | .longHold => execLongHold_keeps hs
  | .hostReset hot => execHostReset_keeps hs hot
  | .warm => execWarm_keeps hs
  | .velFabric => execVelFabric_keeps hs
  | .releasePoint => execReleasePoint_keeps hs
  | .supplyFault doms => execSupplyFault_keeps hs doms
  | .surrEnableSet => execSurrEnableSet_keeps hs
  | .surrEnableClear => execSurrEnableClear_keeps hs
  | .apply => execApply_keeps hs
  | .glbOwnWrite v => execGlbOwnWrite_keeps hs v
  | .telemetrySample power temps => execTelemetrySample_keeps hs power temps
  | .backgroundStarvation q => execBackgroundStarvation_keeps hs q
  | .hostSwint m => execHostSwint_keeps hs m
  | .hostIrqStatusClear m => execHostIrqStatusClear_keeps hs m
  | .msixCauseActive v => execMsixCauseActive_keeps hs v
  | .msixUnmask v => execMsixUnmask_keeps hs v
  | .outboundReadTimeout o k => execOutboundReadTimeout_keeps hs o k
  | .barAccessError bar off wr => execBarAccessError_keeps hs bar off wr
  | .vccioFault b => execVccioFault_keeps hs b
  | .vccioRestored b => execVccioRestored_keeps hs b
  | .hbmTrainingDone => execHbmTrainingDone_keeps hs
  | .laneLockLost l => execLaneLockLost_keeps hs l
  | .xtal32Start => execXtal32Start_keeps hs
  | .uncachedAccessResponse c => execUncachedAccessResponse_keeps hs c
  | .cfgClkRisingEdge din => execCfgClkRisingEdge_keeps hs din
  | .serialTxWord n acked => execSerialTxWord_keeps hs n acked
  | .pcieLinkUp gen5 width => execPcieLinkUp_keeps hs gen5 width
  | .pcieD3hot v => execPcieD3hot_keeps hs v
  | .restingLevelChange level => execRestingLevelChange_keeps hs level

theorem exec_keeps {c : Instr} {s t : State} (h : exec c s = .next t) : Keeps s t := by
  obtain ⟨u, hu, hk⟩ := exec_done c s
  rw [hu] at h
  cases h
  exact hk

/-- Settles O56: both sides take the front of the queue apart in the same way. -/
theorem stepRunsFront : Obligations.StepRunsFront := by
  unfold Obligations.StepRunsFront
  intro s
  refine ⟨fun c cs h => ?_, fun h => ?_, fun h hf => ?_⟩
  · simp only [step, h]
  · simp only [step, h]
  · simp only [step, h, fabEvent, hf, Bool.false_eq_true, if_false]

/-- Settles O57: the meaning of each command completes. -/
theorem noCommandStops : Obligations.NoCommandStops := fun c s =>
  have ⟨t, ht, _⟩ := exec_done c s
  ⟨t, ht⟩

/-- Settles O58: the meaning of each command keeps the queue. -/
theorem queueUntouched : Obligations.QueueUntouched := fun _ _ _ h => (exec_keeps h).queue

/-- Settles O59: a step is a command, which keeps both canonical forms, or what the fabric does on an empty queue. -/
theorem invariantKept : Obligations.InvariantKept := by
  unfold Obligations.InvariantKept
  intro s t hs h
  obtain ⟨hfront, hempty, -⟩ := stepRunsFront s
  cases hq : s.pending with
  | nil =>
    rw [hempty hq] at h
    cases h
    exact (fabEvent_keeps (Keeps.refl s)).inv hs
  | cons c cs =>
    rw [hfront c cs hq] at h
    exact (exec_keeps h).inv hs

/-- Settles O60: each field is read off the state after reset; an unlisted entry of a map is the default. -/
theorem resetState : Obligations.ResetState := by
  unfold Obligations.ResetState
  refine ⟨⟨rfl, rfl⟩, rfl, rfl, rfl, fun _ => rfl, fun _ _ => rfl, fun _ => rfl, rfl, rfl, rfl, rfl, rfl, rfl, rfl, rfl, rfl, fun _ => rfl⟩

end Sys2Proof.Machine
end

section
/-!
O55. What a write of HBM may overtake is remembered byte by byte in `lineBy`. The statement asks that no byte's entry, as it reads,
is above the writer's; it does not ask that the map is canonical. In a map whose keys do not rise an entry can stand behind an
entry of the default value, where no read finds it, until the write of a first line drops the default entry: the entry then shows
and stops the write of the next line.
-/
namespace Sys2Proof.Machine

/-- Owner 1 has a key and granule 0; behind the default entry of byte 200, `lineBy` hides the entry 5 of byte 64. -/
def hiddenEntry : State :=
  { State.reset with
    ink := { State.reset.ink with pageOwner := [(0, 1)], lineBy := [(200, 0), (64, 5)] }
    sched := { State.reset.sched with own := [(1, { State.reset.ownAt 1 with key := some 1 })] } }

/-- The hidden entry does not read. -/
theorem hiddenEntry_lineBy (b : Nat) : kget 0 hiddenEntry.ink.lineBy b = 0 := by
  simp only [hiddenEntry, kget]
  split
  · rfl
  · split
    · rfl
    · rw [if_neg (by omega), if_neg (by omega)]

/-- Owner 1 may write the bytes of granule 0. -/
theorem hiddenEntry_gate {b : Nat} (hb : b < 0x200000) : hbmGate 1 b hiddenEntry = none := by
  have hg : granuleOf b = 0 := Nat.div_eq_of_lt hb
  have htop : ¬ hbmTop ≤ b := by simp only [hbmTop]; omega
  have hown : hiddenEntry.granuleOwner 0 = 1 := rfl
  have hkey : (hiddenEntry.ownAt 1).key = some 1 := rfl
  simp [hbmGate, hg, htop, hown, hkey]

/-- The byte of the second line keeps its old value. -/
theorem hiddenEntry_readBack :
    (hbmRead 1 0 63 2 (hbmWrite 0 1 0 63 [1, 1] hiddenEntry).2).1.toOption = some [1, 0] := by
  decide

/-- Refutes O55: a map `lineBy` out of order hides an entry for byte 64 which the write of byte 63 uncovers, so the bytes 1, 1
written over the two lines read back as 1, 0. -/
theorem not_hbmReadsBackWrites : ¬ Obligations.HbmReadsBackWrites := by
  unfold Obligations.HbmReadsBackWrites
  rintro ⟨hwrite, -⟩
  obtain ⟨t, u, hw, hr, -⟩ := hwrite hiddenEntry 0 1 0 0 63 [1, 1] rfl rfl (by simp)
    (fun b _ hb => hiddenEntry_gate (by simp at hb; omega))
    (fun b => by rw [hiddenEntry_lineBy]; omega) (fun e he => absurd he (by simp [hiddenEntry, State.reset]))
  have hback := hiddenEntry_readBack
  rw [hw, show (2 : Nat) = [(1 : Byte), 1].length from rfl, hr] at hback
  simp [Except.toOption] at hback

end Sys2Proof.Machine
end

section
/-!
The instructions of a Quill (O1 to O7, O49): what a step of a row does, from the effect of the row alone.
-/
namespace Sys2Proof.Machine

-- A row's step from its effect
section
variable {row : Ins → Bool} {q : Byte} {w : W64} {c : QCtx} {s t : State} {eff : QCtx → State → QRes} {ctl : Ctl}

/-- R148: an effect that completes leaves what it computed, and the sequencer goes on. -/
theorem quillStep_ok (h : Issues row q w c s) (hc : Clear c s) (he : eff c (touchPages c s) = .ok t ctl) :
    quillStep q.toNat row eff s = issued c ctl t := by
  rw [quillStep_runs h hc, he]

/-- An instruction without an operand in memory touches no page. -/
theorem quillStep_ok_noPages (h : Issues row q w c s) (hc : Clear c s) (hm : memOps c.i c.lq = []) (he : eff c s = .ok t ctl) :
    quillStep q.toNat row eff s = issued c ctl t :=
  quillStep_ok h hc (by rw [touchPages_nil hm, he])

/-- The word of an issuing instruction is of the row. -/
theorem Issues.row_ins (h : Issues row q w c s) : row c.i = true := by
  rw [h.ins]
  exact h.row

end

-- The rows
theorem isAddr_iff {f : Nat} {i : Ins} : isAddr f i = true ↔ i.op = 0x08 ∧ i.fn = f := by simp [isAddr]
theorem isCtrl_iff {f : Nat} {i : Ins} : isCtrl f i = true ↔ i.op = 0x0C ∧ i.fn = f := by simp [isCtrl]
theorem isStroke_iff {f : Nat} {i : Ins} : isStroke f i = true ↔ i.op = 0x18 ∧ i.form = f := by simp [isStroke]
theorem isMma_iff {f : Nat} {i : Ins} : isMma f i = true ↔ i.op = 0x19 ∧ i.form = f := by simp [isMma]
theorem isBeta_iff {f : Nat} {i : Ins} : isBeta f i = true ↔ i.op = 0x1E ∧ i.form = f := by simp [isBeta]

/-- The OPs whose instructions have no operand in memory. -/
theorem memOps_of_op {i : Ins} (l : Lq) (h : i.op ∈ [0x01, 0x02, 0x03, 0x04, 0x08, 0x0C, 0x0D, 0x1D, 0x28, 0x29, 0x30, 0x3F]) :
    memOps i l = [] := by
  simp only [List.mem_cons, List.not_mem_nil, or_false] at h
  rcases h with h | h | h | h | h | h | h | h | h | h | h | h <;> simp only [memOps, h]

/-- PGHINT reads nothing: its page is not touched. -/
theorem touchPages_pghint {c : QCtx} (s : State) (h : c.i.op = 0x2C) : touchPages c s = s := by
  simp [touchPages, pagesOf, h]

/-- An operand that reads clean. -/
theorem withRead_of_reads {q off n : Nat} {bs : List Byte} {s : State} (h : Reads q off n bs s) (f : List Byte → State → QRes) :
    withRead q off n s f = f bs s := by
  rw [withRead, h]

/-- Table entries of good parity. -/
theorem withTab_of_good {c : QCtx} {k : Nat} {ns : List Nat} (s : State) (h : tabBad c.pq k ns = none) (f : State → QRes) :
    withTab c k ns s f = f s := by
  rw [withTab, h]

/-- Settles O1: each row is an effect on the logical Quill alone, without an operand in memory. -/
theorem quillScalarResult : Obligations.QuillScalarResult := by
  unfold Obligations.QuillScalarResult
  intro q w c s hc
  refine ⟨fun h => ?_, fun h => ?_, fun h => ?_, fun h => ?_, fun h => ?_, fun h => ?_, fun h => ?_, fun h => ?_⟩
  · exact congrArg _ (quillStep_ok_noPages h hc (memOps_of_op _ (by simp [h.op_eq])) rfl)
  · exact congrArg _ (quillStep_ok_noPages h hc (memOps_of_op _ (by simp [h.op_eq])) rfl)
  · exact congrArg _ (quillStep_ok_noPages h hc (memOps_of_op _ (by simp [h.op_eq])) rfl)
  · exact congrArg _ (quillStep_ok_noPages h hc (memOps_of_op _ (by simp [h.op_eq])) rfl)
  · exact congrArg _ (quillStep_ok_noPages h hc (memOps_of_op _ (by simp [(isAddr_iff.mp h.row_ins).1])) rfl)
  · exact congrArg _ (quillStep_ok_noPages h hc (memOps_of_op _ (by simp [(isAddr_iff.mp h.row_ins).1])) rfl)
  · exact congrArg _ (quillStep_ok_noPages h hc (memOps_of_op _ (by simp [(isAddr_iff.mp h.row_ins).1])) rfl)
  · exact congrArg _ (quillStep_ok_noPages h hc (memOps_of_op _ (by simp [(isAddr_iff.mp h.row_ins).1])) rfl)

/-- R90: the parity that SRRD checks. -/
theorem tabBad_srrd {c : QCtx} (h : c.i.rb = 4 → kget false c.pq.parB c.lq.ptr.toNat = false) :
    tabBad c.pq 2 (if c.i.rb = 4 then [c.lq.ptr.toNat] else []) = none := by
  split
  · next hb => simp [tabBad, h hb]
  · rfl

/-- Settles O2: a control row names the next index, and a PC past the image meets the check of PC_RANGE_FALL_THROUGH. -/
theorem quillControl : Obligations.QuillControl := by
  unfold Obligations.QuillControl
  intro q w c s
  refine ⟨fun hc => ⟨fun h => ?_, fun h => ?_, fun h => ?_, fun h => ?_, fun h => ?_, fun h hpar => ?_, fun h => ?_⟩,
    fun hq hlen hnext => ?_⟩
  · exact congrArg _ (quillStep_ok_noPages h hc (memOps_of_op _ (by simp [(isCtrl_iff.mp h.row_ins).1])) rfl)
  · exact congrArg _ (quillStep_ok_noPages h hc (memOps_of_op _ (by simp [(isCtrl_iff.mp h.row_ins).1])) rfl)
  · exact congrArg _ (quillStep_ok_noPages h hc (memOps_of_op _ (by simp [(isCtrl_iff.mp h.row_ins).1])) rfl)
  · exact congrArg _ (quillStep_ok_noPages h hc (memOps_of_op _ (by simp [(isCtrl_iff.mp h.row_ins).1])) rfl)
  · exact congrArg _ (quillStep_ok_noPages h hc (memOps_of_op _ (by simp [(isCtrl_iff.mp h.row_ins).1])) rfl)
  · exact congrArg _ (quillStep_ok_noPages h hc (memOps_of_op _ (by simp [(isCtrl_iff.mp h.row_ins).1]))
      (withTab_of_good _ (tabBad_srrd hpar) _))
  · exact congrArg _ (quillStep_ok_noPages h hc (memOps_of_op _ (by simp [h.op_eq])) rfl)
  · simp only [exec, execPcRangeFallThrough, hq, hlen, hnext, and_self, if_true, done]

/-- Settles O3: each row's effect, with the page of a load or store touched. -/
theorem quillAccess : Obligations.QuillAccess := by
  unfold Obligations.QuillAccess
  intro q w c s hc
  refine ⟨fun m bs h hm hr => ?_, fun m h hm => ?_, fun h => ?_, fun h hx => ?_, fun p h hx hp hf => ?_, fun h hb => ?_,
    fun h hb => ?_⟩
  · refine congrArg _ (quillStep_ok h hc ?_)
    simp only [hm, withRead_of_reads hr]
  · refine congrArg _ (quillStep_ok h hc ?_)
    simp only [hm]
  · exact congrArg _ (quillStep_ok_noPages h hc (memOps_of_op _ (by simp [h.op_eq])) rfl)
  · refine congrArg _ (quillStep_ok h hc ?_)
    simp only [touchPages_pghint s h.op_eq, pghintEff, hx, if_true]
  · subst hp
    refine congrArg _ (quillStep_ok h hc ?_)
    simp only [touchPages_pghint s h.op_eq, pghintEff, hx, hf, Bool.false_eq_true, if_false, Option.isSome_none]
  · refine congrArg _ (quillStep_ok_noPages h hc (memOps_of_op _ (by simp [h.op_eq])) ?_)
    simp only [hb, if_true]
  · change Host.Outcome.next (quillStep q.toNat (isOp 0x3F) _ s) = _
    rw [quillStep_runs h hc, touchPages_nil (memOps_of_op _ (by simp [h.op_eq]))]
    simp only [hb, Bool.false_eq_true, if_false]

/-- Settles O4: each form's effect, once its operands have been read. -/
theorem quillStrokes : Obligations.QuillStrokes := by
  unfold Obligations.QuillStrokes
  refine ⟨fun q w c s bs hc => ⟨fun h hz => ?_, fun h hz hcat hr => ?_, fun h hr => ?_, fun h hcat hr => ?_, fun h hcat hr => ?_⟩,
    fun q w c s bs ts hc => ⟨fun h hcat hr hs => ?_, fun h hcat hr hs => ?_, fun h hcat hn => ?_, fun h hcat hn => ?_⟩⟩
  · refine congrArg _ (quillStep_ok h hc ?_)
    simp only [initEff, hz, if_true]
    cases hcat : c.i.cat <;> simp
  · refine congrArg _ (quillStep_ok h hc ?_)
    simp only [initEff, hz, hcat, if_false, Bool.false_eq_true, withOperand, withRead_of_reads hr]
  · exact congrArg _ (quillStep_ok h hc (hr _))
  · refine congrArg _ (quillStep_ok h hc ?_)
    simp only [denseEff, hcat, Bool.false_eq_true, if_false, withOperand, withRead_of_reads hr]
  · refine congrArg _ (quillStep_ok h hc ?_)
    simp only [denseEff, hcat, if_true, withOperand, withRead_of_reads hr]
  · refine congrArg _ (quillStep_ok h hc ((hr _).trans ((hs _).trans ?_)))
    simp only [hcat, Bool.false_eq_true, if_false, sparseRows, sparseVal, sparseVar, sparseByte]
  · refine congrArg _ (quillStep_ok h hc ((hr _).trans ((hs _).trans ?_)))
    simp only [hcat, if_true, sparseRows, sparseVal, sparseVar, sparseByte]
  · refine congrArg _ (quillStep_ok h hc ((hn _).trans ?_))
    simp only [hcat, Bool.false_eq_true, if_false]
  · refine congrArg _ (quillStep_ok h hc ((hn _).trans ?_))
    simp only [hcat, if_true]

/-- Settles O5: each form's effect, once its operand has been read. -/
theorem quillMatrixAndBeta : Obligations.QuillMatrixAndBeta := by
  unfold Obligations.QuillMatrixAndBeta
  refine ⟨fun q w c s bs hc => ⟨fun h hf hr => ?_, fun h hf hr => ?_, fun h => ?_, fun h => ?_⟩,
    fun q w c s bs hc => ⟨fun h => ?_, fun h => ?_, fun h hr => ?_, fun h hr => ?_, fun h hr => ?_, fun h => ?_⟩⟩
  · refine congrArg _ (quillStep_ok h hc ?_)
    simp only [passEff, withOperand, withRead_of_reads hr, hf, if_false]
  · refine congrArg _ (quillStep_ok h hc ?_)
    have hr : Reads c.q (storeOff (aSpace (c.lq.aReg c.i.ra)) (aOff (c.lq.aReg c.i.ra))) (mmaBytes c.i.sub) bs (touchPages c s) := by
      rw [hf]; exact hr
    simp only [passEff, withOperand, withRead_of_reads hr]
    simp only [hf, if_true]
  · exact congrArg _ (quillStep_ok h hc rfl)
  · exact congrArg _ (quillStep_ok h hc rfl)
  · exact congrArg _ (quillStep_ok h hc rfl)
  · exact congrArg _ (quillStep_ok h hc rfl)
  · exact congrArg _ (quillStep_ok h hc (withRead_of_reads hr _))
  · exact congrArg _ (quillStep_ok h hc (withRead_of_reads hr _))
  · exact congrArg _ (quillStep_ok h hc (withRead_of_reads hr _))
  · exact congrArg _ (quillStep_ok h hc rfl)

/-- R108, R121: what an ACCEPT of binary variables does once its operand and its tables have been read. -/
theorem acceptBin_ok {mh : Bool} {c : QCtx} {s s1 s2 : State} {bs : List Byte} {nn : Bool} {xs : List Nat}
    (hr : Reads c.q (storeOff (aSpace (c.lq.aReg c.i.ra)) (aOff (c.lq.aReg c.i.ra))) 32 bs s)
    (hb : tabBad c.pq 2 [c.lq.ptr.toNat] = none)
    (hk : tabBad c.pq 0 (((List.range 256).filter (kget true c.lq.mask)).map (fun n =>
      (((binVars bs).zipIdx).map (fun e => tabIndex (deltaE mh (e.1 == 1) (kget 0 c.lq.acc e.2)) (kget 0 c.lq.tabB c.lq.ptr.toNat)
        c.lq.tshA.toNat)).getD n 0)) = none)
    (hn : nnFall c s = (nn, s1)) (hd : (if nn then drawN 256 s1 else ([], s1)) = (xs, s2)) :
    acceptBin mh c s = .ok (quillWrite c (storeOff 0 (aOff (c.lq.aReg c.i.ra))) (packBits (((binVars bs).zipIdx).map (fun e =>
      if kget true c.lq.mask e.2 then
        newBin mh (e.1 == 1) (decideBin (if nn then some (xs.getD e.2 0 % 2 == 1) else none)
          (kget 0 c.lq.tabA ((((binVars bs).zipIdx).map (fun e => tabIndex (deltaE mh (e.1 == 1) (kget 0 c.lq.acc e.2))
            (kget 0 c.lq.tabB c.lq.ptr.toNat) c.lq.tshA.toNat)).getD e.2 0)) (kget 0 c.lq.vr e.2))
      else e.1 == 1))) 6 s2) .seq := by
  simp only [acceptBin, withOperand, withRead_of_reads hr, withTab_of_good _ hb, withTab_of_good _ hk, hn, hd]

/-- Settles O6: each form's effect, once its operand and its tables have been read. -/
theorem quillAccept : Obligations.QuillAccept := by
  unfold Obligations.QuillAccept
  refine ⟨fun q w c s s1 s2 bs nn xs b mh ks hc h hr hb hbeta hks hk hn hd => ?_,
    fun q w c s bs b hc => ⟨fun h hr hb hbeta hk => ?_, fun h hr => ?_, fun h => ?_⟩⟩
  · subst hbeta hks
    have he := acceptBin_ok hr hb hk hn hd
    cases mh
    · exact congrArg _ (quillStep_ok h hc he)
    · exact congrArg _ (quillStep_ok h hc he)
  · subst hbeta
    refine congrArg _ (quillStep_ok h hc ?_)
    simp only [acceptCat, withOperand, withRead_of_reads hr, withTab_of_good _ hb, withTab_of_good _ hk]
  · exact congrArg _ (quillStep_ok h hc (withRead_of_reads hr _))
  · exact congrArg _ (quillStep_ok h hc rfl)

/-- Settles O7: each row's effect; POST by whether it sends a register or a field. -/
theorem quillExchange : Obligations.QuillExchange := by
  unfold Obligations.QuillExchange
  rintro q w c s t bs hc rfl
  refine ⟨fun k h hk hr => ?_, fun d ds h hd => ?_, fun h hf => ?_, fun o os h hf hm hr => ?_, fun h => ?_, fun n h hn => ?_,
    fun n h hn => ?_⟩
  · refine congrArg _ (quillStep_ok h hc ?_)
    simp only [xsendEff, withOperand, withRead_of_reads hr, hk, QCtx.mod, State.modLq_now]
  · refine congrArg _ (quillStep_ok h hc ?_)
    simp only [xrecvEff, hd]
  · refine congrArg _ (quillStep_ok h hc ?_)
    simp only [postEff, hf, if_true]
  · refine congrArg _ (quillStep_ok h hc ?_)
    simp only [postEff, hf, if_false, hm, withRead_of_reads hr]
  · refine congrArg _ (quillStep_ok h hc ?_)
    cases hm : memOps c.i c.lq <;> simp only [clampEff, hm, QCtx.mod, State.modLq_now, List.head?_nil, List.head?_cons, Option.map_none,
      Option.map_some]
  · refine congrArg _ (quillStep_ok h hc ?_)
    simp only [waitEff, hn, QCtx.mod, State.modLq_now]
  · refine congrArg _ (quillStep_ok h hc ?_)
    simp only [signalEff, hn]

/-- R144, R148: at its issue tick a defined word is left to its own row, and there its guard decides. -/
theorem quillStep_defined {q : Byte} {w : W64} {c : QCtx} {s : State} (h : AtIssue q w c s)
    (he : encOk (insOf w) c.lq.pc = true) (row : Ins → Bool) (eff : QCtx → State → QRes) :
    quillStep q.toNat row eff s =
      if row (insOf w) then (if c.lq.guard (insOf w) then runIns c eff s else issued c .seq s) else s := by
  obtain ⟨hr, hi, hin, hf, hn, hd⟩ := h
  have hc : ({ c with i := insOf w } : QCtx) = c := by rw [← hi]
  simp only [quillStep, hr, hf, leWord_wordBytes8, hc]
  rw [if_neg (by omega), if_neg (by omega)]
  simp only [he]
  cases row (insOf w) <;> cases c.lq.guard (insOf w) <;> rfl

/-- Every row of Table 05.1 is a step of the sequencer. -/
theorem exec_quillTable {q : Byte} {e : Instr × (Ins → Bool)} (he : e ∈ quillTable q) :
    ∃ eff, ∀ s, exec e.1 s = .next (quillStep q.toNat e.2 eff s) := by
  simp only [quillTable, List.mem_cons, List.not_mem_nil, or_false] at he
  rcases he with rfl | rfl | rfl | rfl | rfl | rfl | rfl | rfl | rfl | rfl | rfl | rfl | rfl | rfl | rfl | rfl | rfl | rfl | rfl |
    rfl | rfl | rfl | rfl | rfl | rfl | rfl | rfl | rfl | rfl | rfl | rfl | rfl | rfl | rfl | rfl | rfl | rfl | rfl | rfl | rfl |
    rfl | rfl | rfl | rfl | rfl <;> exact ⟨_, fun _ => rfl⟩

/-- Settles O49: every row is a step of the sequencer, which checks the word, the row and the guard before the effect. -/
theorem undefinedAndGuardedOff : Obligations.UndefinedAndGuardedOff := by
  unfold Obligations.UndefinedAndGuardedOff
  intro q w c s h e he
  obtain ⟨eff, hexec⟩ := exec_quillTable he
  refine ⟨fun henc => ?_, fun henc hrow hg => ?_, fun henc hrow => ?_⟩
  · rw [hexec, quillStep_undefined h henc]
    rfl
  · rw [hexec, quillStep_defined h henc, if_pos hrow, hg]
    rfl
  · rw [hexec, quillStep_defined h henc, hrow]
    rfl

end Sys2Proof.Machine
end

section
/-!
The frame of the instructions that write only registers, tables and accumulators (O50): their effects and the sequencer's own
change are changes of one logical Quill, and such changes compose.
-/
namespace Sys2Proof.Machine

/-- `t` is `s` but for the logical Quill of `c`: one entry of the partition map, and in it one logical Quill. -/
structure LqFrame (c : QCtx) (s t : State) : Prop where
  rest  : t = { s with part := t.part }
  parts : ∀ k, k ≠ c.part.id.key → kfind t.part k = kfind s.part k
  lqs   : ∃ p, t.partAt c.id.part = some p ∧ p = { c.part with lqs := p.lqs } ∧
    (kwf {} c.part.lqs = true → kwf {} p.lqs = true ∧ ∀ l, l ≠ c.id.l.toNat → p.lqAt l = c.part.lqAt l)

/-- The partition of an issuing instruction is the one that stands in the state. -/
theorem quillAt_partAt {q : Nat} {s : State} {c : QCtx} (h : quillAt q s = some c) : s.partAt c.id.part = some c.part := by
  simp only [quillAt] at h
  split at h
  · cases h
  · split at h
    · cases h
    · next p hp =>
      obtain ⟨-, h⟩ := Option.ite_none_right_eq_some.mp h
      cases h
      exact hp

theorem LqFrame.refl {c : QCtx} {s : State} (h : s.partAt c.id.part = some c.part) : LqFrame c s s where
  rest := rfl
  parts _ _ := rfl
  lqs := ⟨c.part, h, rfl, fun hw => ⟨hw, fun _ _ => rfl⟩⟩

theorem Part.lqAt_setLq_ne {p : Part} (hw : kwf {} p.lqs = true) {l m : Nat} (x : Lq) (h : m ≠ l) :
    (p.setLq l x).lqAt m = p.lqAt m := kget_kset_ne _ hw _ h

/-- A change of that logical Quill keeps the frame. -/
theorem LqFrame.modLq {c : QCtx} {s t : State} (h : LqFrame c s t) (f : Lq → Lq) : LqFrame c s (t.modLq c.id f) := by
  obtain ⟨hrest, hparts, p, hp, hpc, hlqs⟩ := h
  have hid : p.id = c.part.id := by rw [hpc]
  have hm : t.modLq c.id f =
      { t with part := kput t.part c.part.id.key (p.setLq c.id.l.toNat (f (p.lqAt c.id.l.toNat))) } := by
    simp only [State.modLq, State.modPart, hp, State.setPart, Part.setLq, hid]
  rw [hm]
  refine ⟨?_, fun k hk => ?_, ?_⟩
  · rw [hrest]
  · rw [kfind_kput_ne _ _ hk, hparts k hk]
  · by_cases hk : c.id.part.key = c.part.id.key
    · refine ⟨p.setLq c.id.l.toNat (f (p.lqAt c.id.l.toNat)), ?_, ?_, fun hw => ⟨kwf_kset _ _ _ _ (hlqs hw).1, fun l hl => ?_⟩⟩
      · simp only [State.partAt, hk, kfind_kput_self]
      · conv_lhs => rw [hpc]
        rfl
      · rw [Part.lqAt_setLq_ne (hlqs hw).1 _ hl, (hlqs hw).2 l hl]
    · exact ⟨p, by simpa only [State.partAt, kfind_kput_ne _ _ hk] using hp, hpc, hlqs⟩

/-- So does the sequencer's own change. -/
theorem LqFrame.issued {c : QCtx} {s t : State} (h : LqFrame c s t) (ctl : Ctl) : LqFrame c s (issued c ctl t) := by
  simp only [Machine.issued, QCtx.mod]
  exact h.modLq _

/-- The effect changes the logical Quill alone. -/
def LocalEff (eff : QCtx → State → QRes) : Prop :=
  ∀ c s, ∃ t ctl, eff c s = .ok t ctl ∧ (t = s ∨ ∃ f, t = c.mod f s)

theorem localEff_ctl (ctl : QCtx → Ctl) : LocalEff (fun c s => .ok s (ctl c)) := fun _ s => ⟨s, _, rfl, .inl rfl⟩
theorem localEff_lq (f : QCtx → Lq → Lq) : LocalEff (lqEff f) := fun c _ => ⟨_, _, rfl, .inr ⟨f c, rfl⟩⟩

/-- The rows of the frame: each changes its logical Quill alone and has no operand in memory. -/
theorem exec_registerRows {q : Byte} {e : Instr × (Ins → Bool)} (he : e ∈ registerRows q) :
    ∃ eff, (∀ s, exec e.1 s = .next (quillStep q.toNat e.2 eff s)) ∧ LocalEff eff ∧
      ∀ i l, e.2 i = true → memOps i l = [] := by
  have hop : ∀ op, op ∈ [0x01, 0x02, 0x03, 0x04, 0x08, 0x0C, 0x0D, 0x1D, 0x28, 0x29, 0x30, 0x3F] →
      ∀ i l, isOp op i = true → memOps i l = [] := fun op hop i l hi =>
    memOps_of_op l (by simp only [isOp, beq_iff_eq] at hi; rw [hi]; exact hop)
  have haddr : ∀ f i l, isAddr f i = true → memOps i l = [] := fun f i l hi =>
    memOps_of_op l (by simp [(isAddr_iff.mp hi).1])
  have hctrl : ∀ f i l, isCtrl f i = true → memOps i l = [] := fun f i l hi =>
    memOps_of_op l (by simp [(isCtrl_iff.mp hi).1])
  have hbeta : ∀ f, f ∈ [0, 1, 5] → ∀ i l, isBeta f i = true → memOps i l = [] := by
    intro f hf i l hi
    obtain ⟨ho, hfm⟩ := isBeta_iff.mp hi
    simp only [List.mem_cons, List.not_mem_nil, or_false] at hf
    rcases hf with rfl | rfl | rfl <;> simp only [memOps, ho, hfm]
  have hmma : ∀ i l, isMma 1 i = true → memOps i l = [] := fun i l hi => by
    obtain ⟨ho, hfm⟩ := isMma_iff.mp hi
    simp only [memOps, ho, hfm]
  simp only [registerRows, quillTable, List.take_succ_cons, List.take_zero, List.mem_append, List.mem_cons, List.not_mem_nil,
    or_false] at he
  rcases he with (rfl | rfl | rfl | rfl | rfl | rfl | rfl | rfl | rfl | rfl | rfl | rfl | rfl) | rfl | rfl | rfl | rfl | rfl | rfl
  · exact ⟨_, fun _ => rfl, localEff_lq _, hop _ (by decide)⟩
  · exact ⟨_, fun _ => rfl, localEff_lq _, hop _ (by decide)⟩
  · exact ⟨_, fun _ => rfl, localEff_lq _, hop _ (by decide)⟩
  · exact ⟨_, fun _ => rfl, localEff_lq _, hop _ (by decide)⟩
  · exact ⟨_, fun _ => rfl, localEff_lq _, haddr _⟩
  · exact ⟨_, fun _ => rfl, localEff_lq _, haddr _⟩
  · exact ⟨_, fun _ => rfl, localEff_lq _, haddr _⟩
  · exact ⟨_, fun _ => rfl, localEff_lq _, haddr _⟩
  · exact ⟨_, fun _ => rfl, localEff_ctl _, hctrl _⟩
  · exact ⟨_, fun _ => rfl, localEff_ctl _, hctrl _⟩
  · exact ⟨_, fun _ => rfl, localEff_ctl _, hctrl _⟩
  · exact ⟨_, fun _ => rfl, localEff_lq fun _ l => { l with ended := true }, hctrl _⟩
  · exact ⟨_, fun _ => rfl, localEff_lq _, hctrl _⟩
  · exact ⟨_, fun _ => rfl, localEff_ctl _, hop _ (by decide)⟩
  · exact ⟨_, fun _ => rfl, localEff_lq _, hmma⟩
  · exact ⟨_, fun _ => rfl, localEff_lq _, hop _ (by decide)⟩
  · exact ⟨_, fun _ => rfl, localEff_lq _, hbeta _ (by decide)⟩
  · exact ⟨_, fun _ => rfl, localEff_lq _, hbeta _ (by decide)⟩
  · exact ⟨_, fun _ => rfl, localEff_lq _, hbeta _ (by decide)⟩

/-- Settles O50: the effect and the sequencer's own change are changes of the issuing logical Quill. -/
theorem quillRegisterFrame : Obligations.QuillRegisterFrame := by
  unfold Obligations.QuillRegisterFrame
  intro q w c s t hc e he h ht
  obtain ⟨eff, hexec, hlocal, hmem⟩ := exec_registerRows he
  obtain ⟨u, ctl, heff, hu⟩ := hlocal c s
  rw [hexec, quillStep_ok_noPages h hc (hmem _ _ h.row_ins) heff] at ht
  cases ht
  have hs : LqFrame c s s := .refl (by simpa using quillAt_partAt h.runs)
  have hframe : LqFrame c s (issued c ctl u) := by
    rcases hu with rfl | ⟨f, rfl⟩
    · exact hs.issued ctl
    · exact (hs.modLq f).issued ctl
  obtain ⟨hrest, hparts, p, hp, hpc, hlqs⟩ := hframe
  exact ⟨hrest, hparts, fun _ hw => ⟨p, hp, hpc, (hlqs hw).2⟩⟩

end Sys2Proof.Machine
end

section
/-!
What a Quill sends and receives (O8 to O10): flits, CLAMPs, queries and increments, and the crossings that carry them.
-/
namespace Sys2Proof.Machine

-- Flits
/-- R154: a flit is discarded after the END. -/
theorem flitTake_ended {s : State} {id : LqId} {p : Part} {ch : Nat} {d : BitVec 256} (hp : s.partAt id.part = some p)
    (he : (p.lqAt id.l.toNat).ended = true) : flitTake id ch d s = s := by
  simp only [flitTake, hp, he, if_true]

/-- R153: a flit enters the buffer of its channel while that holds fewer than four. -/
theorem flitTake_room {s : State} {id : LqId} {p : Part} {ch : Nat} {d : BitVec 256} (hp : s.partAt id.part = some p)
    (he : (p.lqAt id.l.toNat).ended = false) (hroom : (kget [] (p.lqAt id.l.toNat).chIn ch).length < 4) :
    flitTake id ch d s = s.modLq id (fun l => { l with chIn := kset [] l.chIn ch (kget [] (p.lqAt id.l.toNat).chIn ch ++ [d]) }) := by
  simp only [flitTake, hp, he, hroom, Bool.false_eq_true, if_false, if_true]

/-- R153: a flit that finds its buffer full raises 0x0E8A. -/
theorem flitTake_full {s : State} {id : LqId} {p : Part} {ch : Nat} {d : BitVec 256} (hp : s.partAt id.part = some p)
    (he : (p.lqAt id.l.toNat).ended = false) (hs : (p.lqAt id.l.toNat).stopped = false)
    (hfull : 4 ≤ (kget [] (p.lqAt id.l.toNat).chIn ch).length) :
    flitTake id ch d s = quillRaise (p.lqAt id.l.toNat).at_ id p.metered 0x0E8A (0xFE#8 ++ BitVec.ofNat 40 ch)
      (p.lqAt id.l.toNat).pc (s.modLq id (fun l => { l with ovfAt := some s.now })) := by
  simp only [flitTake, hp, he, hs, Nat.not_lt.mpr hfull, Bool.false_eq_true, if_false]

/-- Settles O8: a released flit goes to the swap buffer or to its logical Quill, and there to its buffer by R153 and R154. -/
theorem flitDelivery : Obligations.FlitDelivery := by
  unfold Obligations.FlitDelivery
  intro s p id src oc ch sl d n x hx
  refine ⟨fun s' u hin hu => ?_, fun j hj hres hfirst => ?_⟩
  · have hexec : exec .flitRelease s =
        .next (if swappedOut id u then { u with swapBuf := u.swapBuf ++ [x] } else flitTake id ch.toNat d u) := by
      subst hu
      simp only [exec, execFlitRelease, hin, hx, done]
    refine ⟨fun hout => ?_, fun hout hp => ⟨fun he => ?_, fun he hroom => ?_, fun he hs hfull => ?_⟩⟩
    · rw [hexec, if_pos hout]
    · rw [hexec, if_neg (by simp [hout]), flitTake_ended (ch := ch.toNat) (d := d) hp he]
    · rw [hexec, if_neg (by simp [hout]), flitTake_room hp he hroom]
    · rw [hexec, if_neg (by simp [hout]), flitTake_full (d := d) hp he hs hfull]
  · simp only [exec, execSwapBufferDeliver, hj, hx, hres, Bool.false_eq_true, false_or, done]
    rw [if_neg]
    intro hany
    obtain ⟨y, hy, hsame⟩ := List.any_eq_true.mp hany
    split at hsame
    · next id' src' oc' ch' sl' d' n' hpay =>
      simp only [Bool.and_eq_true, beq_iff_eq] at hsame
      obtain ⟨rfl, rfl⟩ := hsame
      exact hfirst y hy id' ch' sl' d' n' hpay
    · cases hsame

-- The order of a crossing
/-- What the items of crossing `k` carry, in their order. -/
def paysOf (k : Nat) (xs : List XItem) : List Payload := xs.filterMap (fun x => if x.cross = k then some x.pay else none)

@[simp] theorem paysOf_nil (k : Nat) : paysOf k [] = [] := rfl
theorem paysOf_append (k : Nat) (xs ys : List XItem) : paysOf k (xs ++ ys) = paysOf k xs ++ paysOf k ys := List.filterMap_append
theorem paysOf_cons (k : Nat) (x : XItem) (xs : List XItem) :
    paysOf k (x :: xs) = (if x.cross = k then [x.pay] else []) ++ paysOf k xs := by
  by_cases h : x.cross = k <;> simp [paysOf, h]

/-- R38: a crossing that an item holds releases nothing, and every other one releases its items in their order. -/
theorem paysOf_releaseSplit (now : W64) (ok : XItem → Bool) (held : List Nat) (xs : List XItem) (k : Nat) :
    (k ∈ held → paysOf k (releaseSplit now ok held xs).1 = []) ∧
    paysOf k (releaseSplit now ok held xs).1 ++ paysOf k (releaseSplit now ok held xs).2 = paysOf k xs := by
  induction xs generalizing held with
  | nil => exact ⟨fun _ => rfl, rfl⟩
  | cons x xs ih =>
    simp only [releaseSplit]
    split
    · next hok =>
      obtain ⟨hheld, hall⟩ := ih held
      have hcross : ({ x with rel := now } : XItem).cross = x.cross := rfl
      simp only [paysOf_cons, hcross, List.append_assoc, hall]
      refine ⟨fun hk => ?_, trivial⟩
      have hne : x.cross ≠ k := by
        rintro rfl
        simp [hk] at hok
      simp [hne, hheld hk]
    · obtain ⟨hheld, hall⟩ := ih (x.cross :: held)
      refine ⟨fun hk => hheld (List.mem_cons_of_mem _ hk), ?_⟩
      simp only [paysOf_cons]
      by_cases hk : x.cross = k
      · rw [hheld (by simp [hk]), List.nil_append] at hall ⊢
        rw [hall]
      · simpa [hk] using hall

/-- Changing item `i` is setting it. -/
theorem modAt_eq_set {α : Type} (f : α → α) {i : Nat} {l : List α} {x : α} (h : l[i]? = some x) : modAt f i l = l.set i (f x) := by
  induction l generalizing i with
  | nil => simp at h
  | cons y l ih =>
    cases i with
    | zero =>
      simp only [List.getElem?_cons_zero, Option.some.injEq] at h
      simp [modAt, h]
    | succ i =>
      simp only [List.getElem?_cons_succ] at h
      simp only [modAt, List.set_cons_succ, ih h]

@[simp] theorem meterLate_now (x : XItem) (s : State) : (meterLate x s).now = s.now := by simp [meterLate, logErrC]

/-- Settles O9: each command by the test of its table row, and the order of a crossing by R38. -/
theorem clampAndCrossings : Obligations.ClampAndCrossings := by
  unfold Obligations.ClampAndCrossings
  refine ⟨fun s s' x id t => ⟨fun m hin hpay => ?_, fun q p v k c hres hp hin hpay hnow hk hc => ?_⟩,
    fun s j x => ⟨fun hx ha => ?_, fun hx hr => ?_, fun hx hm => ?_, fun hx => ?_⟩, fun now xs ok k => ?_⟩
  · simp only [exec, execClampSample, hin, hpay, done]
  · subst hc
    refine ⟨fun hf => ?_, fun off pos wd hf => ?_⟩ <;>
      simp only [exec, execClampReply, hres, hp, hin, hpay, hnow, hk, hf, Bool.false_eq_true, if_false, done]
  · refine ⟨fun hd => ?_, fun hd => ?_⟩
    · simp only [exec, execCrossingArrive, arrive, hx, ha, hd, Bool.not_true, Bool.false_eq_true, if_false, done]
    · simp only [exec, execCrossingArrive, arrive, hx, ha, hd, Bool.not_true, Bool.false_eq_true, if_false, if_true, done,
        meterLate_now]
  · simp only [exec, execCrossingRelease, hx, hr, if_true, done]
  · simp only [exec, execSendLatchPlace, latchPlace, hx, hm, if_true, done]
  · simp only [exec, execFlitInject, modAt_eq_set _ hx, done]
  · exact (paysOf_append k _ _).trans (paysOf_releaseSplit now ok [] xs k).2

/-- Settles O10: each command's guards hold by hypothesis. -/
theorem waitAndSignalTraffic : Obligations.WaitAndSignalTraffic := by
  unfold Obligations.WaitAndSignalTraffic
  intro s s' x id p w n v q
  refine ⟨fun j hj hpay hp hw hset hreach hs' => ?_, fun hres hp hw hheld hin => ?_, fun g gs hres hp hsig hdue => ?_,
    fun o ag src hin hpay hset => ⟨fun ho hfree => ?_, fun ho => ?_⟩⟩
  · subst hs'
    refine ⟨fun hh => ?_, fun hh => ?_⟩ <;>
      simp only [exec, execWaitQuerySatisfied, hj, queryOf, hpay, hp, hw, Option.isNone_some, hset, hreach, hh, Bool.not_true,
        Bool.or_self, Bool.false_eq_true, if_false, if_true, done]
  · simp only [exec, execWaitReplyRelease, hres, State.lqOf, hp, Option.map_some, hheld, Bool.false_eq_true, false_and, if_false,
      hin, done]
  · cases hm : p.metered <;> simp only [hm, Bool.false_eq_true, if_false, if_true] at hdue <;>
      simp only [exec, execSignalSend, hres, hp, hsig, hm, hdue, Bool.false_eq_true, if_false, if_true, Bool.not_false,
        Bool.and_self, done]
  · simp only [exec, execSyncIncrementApply, hin, hpay, hset, if_true, applyIncr, done]
    rw [if_pos ⟨ho, hfree⟩]
  · simp only [exec, execSyncIncrementApply, hin, hpay, hset, if_true, applyIncr, done]
    rw [if_neg fun h => ho h.1]

end Sys2Proof.Machine
end

section
/-!
Time and lock-step (O11, O12).
-/
namespace Sys2Proof.Machine

-- The end of a tick
/-- A late write of a sync object leaves the counter, the pending load and HBM. -/
theorem syncApply_time (w : SyncWr) (s : State) :
    (syncApply w s).now = s.now ∧ (syncApply w s).tk = s.tk ∧ (syncApply w s).hbm = s.hbm := by
  simp only [syncApply]
  split
  · exact ⟨rfl, rfl, rfl⟩
  · split <;> exact ⟨rfl, rfl, rfl⟩

theorem foldl_syncApply_time (ws : List SyncWr) (s : State) :
    (ws.foldl (fun s w => syncApply w s) s).now = s.now ∧ (ws.foldl (fun s w => syncApply w s) s).tk = s.tk ∧
      (ws.foldl (fun s w => syncApply w s) s).hbm = s.hbm := by
  induction ws generalizing s with
  | nil => exact ⟨rfl, rfl, rfl⟩
  | cons w ws ih =>
    obtain ⟨hn, ht, hh⟩ := ih (syncApply w s)
    obtain ⟨hn', ht', hh'⟩ := syncApply_time w s
    exact ⟨hn.trans hn', ht.trans ht', hh.trans hh'⟩

theorem writesApply_time (s : State) :
    (writesApply s).now = s.now ∧ (writesApply s).tk = s.tk ∧ (writesApply s).hbm = s.hbm := by
  simp only [writesApply]
  split
  · exact foldl_syncApply_time _ _
  · exact ⟨rfl, rfl, rfl⟩

theorem klTick_time (s : State) : (klTick s).now = s.now ∧ (klTick s).tk = s.tk ∧ (klTick s).hbm = s.hbm := by
  simp only [klTick, syncOutRise]
  split <;> split <;> exact ⟨rfl, rfl, rfl⟩

/-- R32, R83: the counter goes on by one, or to the loaded value, which is consumed. -/
theorem nextTick_time (s : State) :
    (nextTick s).now = nextCount s ∧ (nextTick s).tk.pend = none ∧ (nextTick s).hbm = s.hbm := by
  have h := fun u : State => And.intro (writesApply_time (klTick u)) (klTick_time u)
  simp only [nextTick, h, plantTick, nextCount, and_self]

theorem exec_tick (s : State) : exec .tick s = .next (if tickRuns s then nextTick (tickWork s) else s) := rfl

/-- Settles O11: the end of a tick by what each of its parts leaves; the other commands by their guards. -/
theorem tickCounter : Obligations.TickCounter := by
  unfold Obligations.TickCounter
  refine ⟨fun s t ht => ⟨fun hr => ?_, fun hr => ?_⟩,
    fun s => ⟨fun hw hs => ?_, fun hw hs => ?_, fun hc hs => ?_, fun hc => ?_, fun hs hok => ?_, fun r hs hr => ?_, fun hs => ?_⟩⟩
  · obtain ⟨hnow, hpend, hhbm⟩ := nextTick_time t
    refine ⟨?_, hpend, hhbm, fun hp => ?_, fun v hv => ?_⟩
    · rw [exec_tick, if_pos hr, ← ht]
    · rw [hnow, nextCount, hp, Option.getD_none]
    · rw [hnow, nextCount, hv, Option.getD_some]
  · rw [exec_tick, hr, if_neg Bool.false_ne_true]
  · simp only [exec, execServiceWindowBegin, hw, hs, Bool.not_false, Bool.and_self, if_true, done]
  · simp only [exec, execServiceWindowEnd, hw, hs, Bool.not_false, Bool.and_self, if_true, done]
  · simp only [exec, execTickLoad, tickLoad, done, hc, hs, Bool.or_self, checked, firstReason, Bool.false_eq_true, if_false]
  · simp only [exec, execTickLoad, tickLoad, done, checked, firstReason, Bool.or_eq_true, hc, if_true, setReason]
  · simp only [exec, execSyncEn, syncEn, hs, Bool.not_false, Bool.and_self, if_true, checked_passes hok, done]
  · simp only [exec, execSyncEn, syncEn, hs, Bool.not_false, Bool.and_self, if_true, checked_fails hr, done, setReason]
  · simp only [exec, execSyncEn, syncEn, hs, Bool.not_false, Bool.not_true, Bool.and_self, Bool.false_eq_true,
      if_false, if_true, done]

/-- Only the fabric's error log notes a configuration error. -/
theorem noteCfg_of_ne {b : Blk} (h : b ≠ .vel) (code : W16) (s : State) : noteCfg b code s = s := by simp [noteCfg, h]

-- The comparison of two records
/-- R74: two lists that agree. -/
theorem firstDiff_none {f g : Nat → W64} (h : ∀ j, f j = g j) (n : Nat) : firstDiff f g n = none := by
  simp [firstDiff, h]

/-- R74: the lowest place in which two lists differ. -/
theorem firstDiff_some {f g : Nat → W64} {n q : Nat} (hq : q < n) (hlow : ∀ j < q, f j = g j) (hdiff : f q ≠ g q) :
    firstDiff f g n = some q := by
  rw [firstDiff, List.find?_range_eq_some]
  exact ⟨by simpa using hdiff, List.mem_range.mpr hq, fun j hj => by simp [hlow j hj]⟩

/-- Settles O12: each command's guards hold by hypothesis; the records are compared by their lowest difference. -/
theorem lockStep : Obligations.LockStep := by
  unfold Obligations.LockStep
  refine ⟨fun s => ⟨fun hoff hok => ?_, fun r hoff hr => ?_, ?_, fun p t hp hon hend ht hgot => ?_, fun e es he hdue => ?_,
    fun t ht hdue => ?_⟩, fun s u r e hon => ⟨fun hw => ?_, fun hw hu => ?_⟩, fun s code epoch lq addr cmd hist hcode => ?_⟩
  · simp only [exec, execLsEnable, lsEnable, hoff, Bool.not_false, Bool.and_self, if_true, checked_passes hok, done]
  · simp only [exec, execLsEnable, lsEnable, hoff, Bool.not_false, Bool.and_self, if_true, checked_fails hr, setReason, done]
  · simp only [exec, execLsEnable, lsEnable, Bool.false_and, Bool.false_eq_true, if_false, done]
  · subst ht
    have hepoch : (lsOwn p s).epoch = s.ls.epoch := rfl
    simp only [exec, execLsEpochEnd, lsEpochStep, hp, hon, hend, and_self, if_true, lsEpochEnd, hepoch, hgot, done]
  · simp only [exec, execLsPartnerTimeout, lsTimeout, he, hdue, if_true, done]
  · simp only [exec, execLsHoldRelease, lsRelease, ht, hdue, if_true, done]
  · simp only [exec, execLsRecordReceive, hon, if_true, lsReceive, hw, done]
  · have hexec : exec (.lsRecordReceive r) s = .next (lsCompare e.1 r u) := by
      subst hu
      simp only [exec, execLsRecordReceive, hon, if_true, lsReceive, hw, done]
    have hnow : u.now = s.now := by rw [hu]
    refine ⟨fun hq hc => ?_, fun hq hc => ?_, fun q a hn hlow hdiff ha => ?_⟩
    · rw [hexec]
      simp only [lsCompare, firstDiff_none hq, hc, bne_self_eq_false, Bool.false_eq_true, if_false, hnow]
    · rw [hexec]
      simp only [lsCompare, firstDiff_none hq, bne_iff_ne, hc, ne_eq, not_false_eq_true, if_true]
    · subst ha
      rw [hexec]
      simp only [lsCompare, firstDiff_some hn hlow hdiff]
  · simp only [lsDiverge, logErr, noteCfg_of_ne (b := .tk) (by decide), getErr, recordErr, hcode, if_true, setErr]
    rfl

end Sys2Proof.Machine
end

section
/-!
The host interface (O47).
-/
namespace Sys2Proof.Machine

/-- Table 17.12: the vector of cause `k`. -/
theorem causeVector {v : Byte} (h : 65 ≤ v.toNat) : BitVec.ofNat 8 (65 + (v.toNat - 65)) = v := by
  rw [Nat.add_sub_cancel' h, BitVec.ofNat_toNat, BitVec.setWidth_eq]

/-- R595: a cause that becomes active sets its bit, and sends its message when it is enabled. -/
theorem exec_msixCauseActive {v : Byte} {s : State} (hlo : 65 ≤ v.toNat) (hhi : v.toNat ≤ 79)
    (ha : causeActive s (v.toNat - 65) = true) (hb : bit s.host.irqStat (v.toNat - 65) = false) :
    exec (.msixCauseActive v) s = .next (causeSet (v.toNat - 65) s) := by
  simp only [exec, execMsixCauseActive, hlo, hhi, ha, hb, Bool.not_false, and_self, if_true, done]

/-- R597: a clear with no written cause active sets no bit again. -/
theorem irqStatusClear_inactive {m : BitVec 15} {s : State}
    (h : ∀ k < 15, bit m k = true → causeActive { s with host := { s.host with irqStat := s.host.irqStat &&& ~~~m } } k = false) :
    irqStatusClear m s = { s with host := { s.host with irqStat := s.host.irqStat &&& ~~~m } } := by
  simp only [irqStatusClear]
  generalize { s with host := { s.host with irqStat := s.host.irqStat &&& ~~~m } } = u at h ⊢
  have hfold : ∀ ks : List Nat, (∀ k ∈ ks, k < 15) →
      ks.foldl (fun t k => if bit m k && bit s.host.irqStat k && causeActive t k then causeSet k t else t) u = u := by
    intro ks
    induction ks with
    | nil => exact fun _ => rfl
    | cons k ks ih =>
      intro hks
      have hk : (bit m k && bit s.host.irqStat k && causeActive u k) = false := by
        cases hb : bit m k with
        | false => rfl
        | true => rw [h k (hks k List.mem_cons_self) hb, Bool.and_false]
      rw [List.foldl_cons, hk]
      exact ih fun j hj => hks j (List.mem_cons_of_mem _ hj)
  exact hfold _ fun k hk => List.mem_range.mp hk

/-- Settles O47: a message is sent or waits by its vector's mask; the other clauses are the guards of their commands. -/
theorem hostInterface : Obligations.HostInterface := by
  unfold Obligations.HostInterface
  intro s t
  refine ⟨fun v k hlo hhi hk ha hb ht => ?_, fun m h => ?_, fun m => rfl, fun v ht => ⟨fun hp => ?_, fun hp hm => ?_⟩,
    fun off wr hd => ⟨?_, ?_⟩, fun off wr hd => ?_, fun g w hw hdom hp => ?_, fun v => rfl⟩
  · subst hk ht
    rw [exec_msixCauseActive hlo hhi ha hb]
    refine ⟨fun he => ?_, fun he hm => ?_, fun he hm => ?_⟩
    · simp only [causeSet, he, Bool.false_eq_true, if_false]
    · simp only [causeSet, he, if_true, causeVector hlo]
      exact congrArg _ (sendMsi_unmasked hm)
    · simp only [causeSet, he, if_true, causeVector hlo]
      exact congrArg _ (sendMsi_masked hm)
  · exact congrArg _ (irqStatusClear_inactive h)
  · rw [exec_msixUnmask]
    subst ht
    have hp' : kget false (s.unmask v).host.pba v.toNat = false := hp
    simp only [pbaSend, hp', Bool.false_and, Bool.false_eq_true, if_false]
    rfl
  · subst ht
    rw [exec_msixUnmask]
    exact congrArg _ (pbaSend_unmasked (s := s.unmask v) hp hm)
  · simp only [exec, execBarAccessError, hd, Bool.false_eq_true, if_false, if_true, done]
  · simp only [exec, execBarAccessError, hd, Bool.false_eq_true, if_false, if_true, done]
    rfl
  · simp only [exec, execBarAccessError, hd, if_true, true_or, ans, done]
  · simp only [exec, execPcieLinkUp, hw, hdom, hp, Bool.not_false, and_self, if_true, done]

end Sys2Proof.Machine
end

section
/-!
The surroundings table, telemetry and supplies (O46).
-/
namespace Sys2Proof.Machine

/-- R573: the checks of APPLY are those of the table, then those against the active one. -/
theorem firstReason_append (cs ds : List (Bool × W16)) :
    firstReason (cs ++ ds) = (firstReason cs).or (firstReason ds) := by
  induction cs with
  | nil => rfl
  | cons c cs ih =>
    obtain ⟨_ | _, r⟩ := c <;> simp [firstReason, ih]

-- Telemetry: the power block and its error log alone change
@[simp] theorem logErr_pwr_glb (c : W16) (ag : Agent) (a : BitVec 48) (s : State) : (logErr .pwr c ag a s).glb = s.glb := rfl

theorem powerSample_glb (p : W16) (s : State) : (powerSample p s).glb = s.glb := by
  simp only [powerSample]
  split
  · exact logErr_pwr_glb ..
  · split
    · split <;> rfl
    · rfl

theorem tempSample_glb (ts : List Byte) (s : State) : (tempSample ts s).glb = s.glb := by
  simp only [tempSample]
  split
  · exact logErr_pwr_glb ..
  · split <;> rfl

/-- R579, R580: the sample of an active table, before R581. -/
theorem tjShut_sample (p : W16) (ts : List Byte) (s : State) : tjShut (tempSample ts (powerSample p s)) = tjShut s := by
  simp only [tjShut, State.surrByte, tempSample_glb, powerSample_glb]

/-- R581: thermal shutdown ends in KEEPALIVE with empty crossings. -/
theorem thermalShutdown_ends (s : State) :
    (thermalShutdown s).pwr.state = 2 ∧ (thermalShutdown s).pwr.therm = true ∧ (thermalShutdown s).xing = [] ∧
      (thermalShutdown s).inbox = [] := by
  simp only [thermalShutdown, logErr_xing, logErr_inbox, and_true]
  exact ⟨rfl, rfl⟩

/-- Settles O46: each command by its checks. -/
theorem surroundingsAndTelemetry : Obligations.SurroundingsAndTelemetry := by
  unfold Obligations.SurroundingsAndTelemetry
  intro s
  refine ⟨fun he hok => ?_, fun r he hr => ?_, fun he hc hi hk hs hv ha => ?_, fun he h => ?_, fun he hok hi hk => ?_,
    fun r he hr => ?_, fun v n hn => ⟨fun hb => ?_, fun hb => ?_⟩,
    fun p ts hst hlen => ⟨fun he => ?_, fun he hcool => ?_, fun he hhot => ?_⟩, fun q p hp hb hw => ?_, rfl, fun b => rfl,
    fun b => rfl, fun hi hd => ?_⟩
  · simp only [exec, execSurrEnableSet, surrSet, he, Bool.false_eq_true, if_false, checked_passes hok, surrTake, done]
  · simp only [exec, execSurrEnableSet, surrSet, he, Bool.false_eq_true, if_false, checked_fails hr, setReason, done]
  · simp only [exec, execSurrEnableClear, surrClear, he, if_true, hc, hi, hk, hs, hv, ha, checked_one, done]
    rfl
  · have hbad : (anyCtx s || s.ink.enable || decide (s.kl.enable ≠ 0) || s.tk.syncEn || s.vel.release || decide (s.plant.armed ≠ 0)) = true := by
      simpa [or_assoc] using h
    simp only [exec, execSurrEnableClear, surrClear, he, if_true, checked_one, hbad, setReason, done]
  · have h1 : (s.ink.enable && surrDiffers s.glb.shadow s.glb.active 0x10 0x40) = false := by
      cases hb : s.ink.enable <;> simp [hi, hb]
    have h2 : ((decide (s.kl.enable ≠ 0) || s.tk.syncEn) && surrDiffers s.glb.shadow s.glb.active 0x40 0x60) = false := by
      cases hb : decide (s.kl.enable ≠ 0) || s.tk.syncEn with
      | false => rfl
      | true => rw [hk (by simpa using hb), Bool.and_false]
    simp only [exec, execApply, surrApply, he, Bool.not_true, Bool.false_eq_true, if_false, firstReason_append, hok, h1, h2,
      firstReason, Option.or_none, surrTake, done]
  · simp only [exec, execApply, surrApply, he, Bool.not_true, Bool.false_eq_true, if_false, firstReason_append, hr,
      Option.some_or, setReason, done]
  · subst hn
    simp only [exec, execGlbOwnWrite, glbOwnWrite, checked_one, decide_eq_true_eq, hb, ne_eq, not_true_eq_false, if_false, done]
  · subst hn
    simp only [exec, execGlbOwnWrite, glbOwnWrite, checked_one, decide_eq_true_eq, hb, ne_eq, not_false_eq_true, if_true,
      setReason, done]
  · simp only [exec, execTelemetrySample, hst, hlen, ne_eq, not_true_eq_false, or_self, if_false, he, Bool.not_false, if_true,
      done]
  · have hno : ts.any (fun t => decide (tjShut s ≤ t.toInt)) = false := by simpa using hcool
    simp only [exec, execTelemetrySample, hst, hlen, ne_eq, not_true_eq_false, or_self, if_false, he, Bool.not_true,
      Bool.false_eq_true, tjShut_sample, hno, done]
  · have hany : ts.any (fun t => decide (tjShut s ≤ t.toInt)) = true := by simpa using hhot
    refine ⟨thermalShutdown (tempSample ts (powerSample p s)), ?_, thermalShutdown_ends _⟩
    simp only [exec, execTelemetrySample, hst, hlen, ne_eq, not_true_eq_false, or_self, if_false, he, Bool.not_true,
      Bool.false_eq_true, tjShut_sample, hany, if_true, done]
  · subst hp
    simp only [exec, execBackgroundStarvation, hb, hw, and_self, if_true, done]
  · simp only [exec, execHbmTrainingDone, hi, hd, and_self, if_true, done]

end Sys2Proof.Machine
end

section
/-!
Power domains and chip states (O44).
-/
namespace Sys2Proof.Machine

/-- Waking the next kind changes the power block alone. -/
theorem wakeNext_state (s : State) : ∃ p, wakeNext s = { s with pwr := { s.pwr with dom := p } } := by
  have hfold : ∀ (ds : List Nat) (t : State), ∃ p, ds.foldl (fun s d =>
      let x := s.domAt d
      if x.byState && x.st == .gated then s.setDom d { x with st := .waking } else s) t = { t with pwr := { t.pwr with dom := p } } := by
    intro ds
    induction ds with
    | nil => exact fun t => ⟨t.pwr.dom, rfl⟩
    | cons d ds ih =>
      intro t
      rw [List.foldl_cons]
      dsimp only
      split
      · obtain ⟨p, h⟩ := ih (t.setDom d { t.domAt d with st := .waking })
        exact ⟨p, h⟩
      · exact ih t
  simp only [wakeNext]
  split
  · exact ⟨s.pwr.dom, rfl⟩
  · exact hfold _ s

/-- R555: a domain that software gated wakes by itself. -/
theorem exec_domainWakeDone {d : BitVec 6} {s : State} (hw : (s.domAt d.toNat).st = .waking) (hb : (s.domAt d.toNat).byState = false)
    (hd : d.toNat ≠ 40) : exec (.domainWakeDone d) s =
      .next (domReaches d.toNat (s.setDom d.toNat { s.domAt d.toNat with st := .run, byState := false })) := by
  simp only [exec, execDomainWakeDone, hw, hb, if_true, hd, if_false, Bool.false_eq_true, false_and, done]

@[simp] theorem capture_pwr (ps : List Nat) (s : State) : (capture ps s).pwr = s.pwr := by
  obtain ⟨f, g, h⟩ := capture_state ps s
  rw [h]

/-- R554, R559: a domain drained outside a change of the chip state. -/
theorem exec_domainDrained {d : BitVec 6} {s u : State} (hdr : (s.domAt d.toNat).st = .drain)
    (hin : (s.domAt d.toNat).inflight = 0) (hgo : s.pwr.going = 0)
    (hu : u = (if 19 ≤ d.toNat ∧ d.toNat ≤ 22 then capture (bankPins (d.toNat - 19)) s else s).setDom d.toNat
      { s.domAt d.toNat with st := if (s.domAt d.toNat).byState || (s.domAt d.toNat).req then .gated else .waking }) :
    exec (.domainDrained d) s =
      .next (if d.toNat = 40 then { u with host := { u.host with speed := 0, width := 0 } } else u) := by
  have hgoing : u.pwr.going = 0 := by
    rw [hu, State.setDom_pwr_going]
    split <;> simp [hgo]
  have hexec : exec (.domainDrained d) s =
      .next (let v := if d.toNat = 40 then { u with host := { u.host with speed := 0, width := 0 } } else u
        if v.pwr.going ≠ 0 then gateNext v else v) := by
    rw [hu]
    change done (if _ then _ else _) = _
    rw [if_pos ⟨hdr, hin⟩]
    rfl
  rw [hexec]
  by_cases h40 : d.toNat = 40
  · simp only [if_pos h40, hgoing, ne_eq, not_true_eq_false, if_false]
  · simp only [if_neg h40, hgoing, ne_eq, not_true_eq_false, if_false]

/-- R555: the host domain's wake. -/
theorem exec_domainWakeDone_host {d : BitVec 6} {s u : State} (hw : (s.domAt d.toNat).st = .waking)
    (hb : (s.domAt d.toNat).byState = false) (hd : d.toNat = 40)
    (hu : u = hostWakes (s.setDom d.toNat { s.domAt d.toNat with st := .run, byState := false })) :
    exec (.domainWakeDone d) s = .next { u with tk := { u.tk with resumed := true } } := by
  have hreach : ∀ v, domReaches d.toNat v = hostWakes v := fun v => by
    rw [domReaches, if_neg (by omega), if_neg (by omega), if_neg (by omega), if_neg (by omega), if_neg (by omega), if_pos hd]
  simp only [exec, execDomainWakeDone, hw, hb, if_true, hreach, ← hu, if_pos hd, Bool.false_eq_true, false_and, if_false, done]

/-- R557, R82: the chip's return to FULL changes the power block and the counter. -/
theorem wakeChip_state (ev : BitVec 5) (wall : W64) (s : State) :
    ∃ p, wakeChip ev wall s = { s with
      now := s.pwr.savedTick + BitVec.ofNat 64 ((wall - s.pwr.savedWall).toNat * 390625 / 16), pwr := p } ∧
      p.state = 0 ∧ p.cause = ev := by
  simp only [wakeChip]
  generalize hu : ({ s with now := _, pwr := _ } : State) = u
  obtain ⟨p, h⟩ := wakeNext_state u
  rw [h, ← hu]
  exact ⟨_, rfl, rfl, rfl⟩

/-- Table 16.4: what the host domain loses at its wake. -/
theorem hostWakes_ends (s : State) :
    (hostWakes s).part = [] ∧ (hostWakes s).pq = [] ∧ (hostWakes s).sync = [] ∧ (hostWakes s).now = s.now ∧
      (hostWakes s).hbm = s.hbm ∧ (hostWakes s).vel = s.vel ∧ (hostWakes s).sep = s.sep := by
  simp only [hostWakes]
  obtain ⟨sh, h⟩ := present_state (List.range 64) (madStart { serviceReset true s with
    host := { out := (serviceReset true s).host.out, bar4Log := (serviceReset true s).host.bar4Log },
    glb := { (serviceReset true s).glb with reason := 0, errlog := {}, shadow := [] } })
  rw [h]
  exact ⟨rfl, rfl, rfl, rfl, rfl, rfl, rfl⟩

/-- Settles O44: each command by its checks; a wake of the chip changes the power block and the counter. -/
theorem powerDomains : Obligations.PowerDomains := by
  unfold Obligations.PowerDomains
  intro s
  refine ⟨fun d x hd hx hst hgo => ⟨fun hok hrun => ?_, fun r hr => ?_, fun hg hb => ?_, fun hg => ?_⟩,
    fun d x hx hdr hin hgo => ⟨fun hd h40 => ?_, fun h40 u hu => ?_, fun hlo hhi => ?_, fun hd hh v hv => ?_⟩,
    fun d x hx hw hb => ⟨fun u hu => ⟨fun hlo hhi => ?_, fun hd => ?_, fun hlo hhi => ?_, fun hd => ?_, fun hd => ?_, fun hd => ?_⟩,
      fun hd => ?_⟩,
    fun hst hgo => ⟨fun hc hi hk hs hp hr => ⟨?_, ?_⟩, fun hc => ⟨?_, ?_⟩⟩,
    fun e wall hth => ⟨fun hgo => ?_, fun hgo hst he => ?_, fun hgo hst => ?_⟩⟩
  · subst hx
    simp only [exec, execDomainGateRequest, hd, hst, hgo, and_self, if_true, gateRequest, hok, hrun, done]
  · subst hx
    simp only [exec, execDomainGateRequest, hd, hst, hgo, and_self, if_true, gateRequest, hr, setReason, done]
  · subst hx
    simp only [exec, execDomainRunRequest, hd, hst, hgo, and_self, if_true, runRequest, hg, hb, Bool.not_false, done]
  · subst hx
    simp only [exec, execDomainRunRequest, hd, hst, hgo, and_self, if_true, runRequest, hg, false_and, if_false, done]
  · subst hx
    rw [exec_domainDrained hdr hin hgo rfl, if_neg (show ¬(19 ≤ d.toNat ∧ d.toNat ≤ 22) by omega), if_neg h40]
  · subst hx hu
    rw [exec_domainDrained hdr hin hgo rfl, if_neg (show ¬(19 ≤ d.toNat ∧ d.toNat ≤ 22) by omega), if_pos h40, h40]
  · subst hx
    rw [exec_domainDrained hdr hin hgo rfl, if_pos (show 19 ≤ d.toNat ∧ d.toNat ≤ 22 from ⟨hlo, hhi⟩), if_neg (by omega)]
  · simp only [captureOne, hh, Bool.false_eq_true, if_false, hv]
  · subst hx hu
    rw [exec_domainWakeDone hw hb (by omega), domReaches, if_pos ⟨hlo, hhi⟩]
    rfl
  · subst hx hu
    rw [exec_domainWakeDone hw hb (by omega), domReaches, if_neg (by omega), if_neg (by omega), if_neg (by omega), if_pos hd]
  · subst hx hu
    rw [exec_domainWakeDone hw hb (by omega), domReaches, if_neg (by omega), if_neg (by omega), if_neg (by omega), if_neg (by omega),
      if_pos ⟨hlo, hhi⟩]
  · subst hx hu
    rw [exec_domainWakeDone hw hb (by omega), domReaches, if_neg (by omega), if_pos hd]
  · subst hx hu
    rw [exec_domainWakeDone hw hb (by omega), domReaches, if_neg (by omega), if_neg (by omega), if_pos hd]
  · subst hx hu
    rw [exec_domainWakeDone hw hb (by omega), domReaches, if_neg (by omega), if_neg (by omega), if_neg (by omega), if_neg (by omega),
      if_neg (by omega), if_neg (by omega)]
  · subst hx
    obtain ⟨u, hu⟩ : ∃ u, u = hostWakes (s.setDom d.toNat { s.domAt d.toNat with st := .run, byState := false }) := ⟨_, rfl⟩
    have hends := hostWakes_ends (s.setDom d.toNat { s.domAt d.toNat with st := .run, byState := false })
    rw [← hu, State.setDom_now, State.setDom_hbm, State.setDom_vel, State.setDom_sep] at hends
    exact ⟨_, exec_domainWakeDone_host hw hb hd hu, rfl, hends⟩
  · simp only [exec, execPlantOnlyRequest, hst, hgo, and_self, if_true, stateRequest, checked, firstReason, hc, hi, hk, hs, hp, hr,
      done]
    rfl
  · simp only [exec, execKeepaliveRequest, hst, hgo, and_self, if_true, stateRequest, checked, firstReason, hc, hi, hk, hs, hp, hr,
      done]
    rfl
  · change done (if _ then _ else _) = _
    rw [if_pos ⟨hst, hgo⟩, stateRequest, checked_fails (r := 0x0C08) (by simp [firstReason, hc])]
    rfl
  · change done (if _ then _ else _) = _
    rw [if_pos ⟨hst, hgo⟩, stateRequest, checked_fails (r := 0x0C08) (by simp [firstReason, hc])]
    rfl
  · simp only [exec, execWakeEvent, hth, hgo, Bool.false_eq_true, if_false, ne_eq, not_false_eq_true, if_true, done]
  · obtain ⟨p, hwake, hstate, hcause⟩ := wakeChip_state (e &&& s.pwr.wakeEn) wall s
    refine ⟨wakeChip (e &&& s.pwr.wakeEn) wall s, ?_, ?_⟩
    · simp only [exec, execWakeEvent, hth, hgo, hst, he, Bool.false_eq_true, if_false, ne_eq, not_true_eq_false, if_true, done]
      rfl
    · rw [hwake]
      exact ⟨hstate, hcause, rfl, rfl, rfl, rfl⟩
  · simp only [exec, execWakeEvent, hth, hgo, hst, Bool.false_eq_true, if_false, ne_eq, not_true_eq_false, if_true, done]

end Sys2Proof.Machine
end

section
/-!
The resets (O45): what their parts leave, then each reset.
-/
namespace Sys2Proof.Machine

-- A flash part at a reset or a power loss uses free values and changes nothing else of the state
theorem drawN_fresh (k : Nat) (s : State) : ∃ n, (drawN k s).2 = { s with fresh := n } := ⟨_, drawN_state k s⟩

theorem flashReset_state (f : Flash) (s : State) : ∃ n, (flashReset f s).2 = { s with fresh := n } := by
  have h := drawN_fresh 4096 s
  unfold flashReset
  revert h
  induction drawN 4096 s using Prod.rec with
  | mk xs t =>
    intro h
    split
    · exact h
    · exact ⟨s.fresh, rfl⟩

theorem flashPower_state (f : Flash) (s : State) : ∃ n, (flashPower f s).2 = { s with fresh := n } := by
  have h := drawN_fresh 4096 s
  unfold flashPower
  revert h
  induction drawN 4096 s using Prod.rec with
  | mk xs t =>
    intro h
    split
    · exact ⟨s.fresh, rfl⟩
    · exact ⟨_, drawN_state 8 (draw s).2⟩
    · exact h

/-- The state after a part's reset, named by the pair that it is read from. -/
theorem flashReset_snd {f c : Flash} {s t : State} (h : flashReset f s = (c, t)) : ∃ n, t = { s with fresh := n } := by
  obtain ⟨n, hn⟩ := flashReset_state f s
  exact ⟨n, by rw [← hn, h]⟩

theorem flashPower_snd {f c : Flash} {s t : State} (h : flashPower f s = (c, t)) : ∃ n, t = { s with fresh := n } := by
  obtain ⟨n, hn⟩ := flashPower_state f s
  exact ⟨n, by rw [← hn, h]⟩

/-- Table 16.6: the Vellum core keeps its flashes, the information sector and the supplies of its banks. -/
theorem velCoreReset_state (s : State) : ∃ n c u, velCoreReset s = { s with
    fresh := n
    vel := { cfl := c, ufl := u, prim := s.vel.prim, golden := s.vel.golden, lock := s.vel.lock, infoGen := s.vel.infoGen,
             bankBad := s.vel.bankBad, recovery := s.vel.recovery, bootsrc := s.vel.bootsrc, bootDue := true } } := by
  unfold velCoreReset
  split
  next c t hc =>
    obtain ⟨n, rfl⟩ := flashReset_snd hc
    split
    next u t hu =>
      obtain ⟨m, rfl⟩ := flashReset_snd hu
      exact ⟨m, c, u, rfl⟩

/-- Table 16.6: the Sepia domain keeps its boot flash. -/
theorem sepReset_state (s : State) : ∃ n b, sepReset s = { s with fresh := n, sep := { bfl := b, run := 1 } } := by
  unfold sepReset
  split
  next b t hb =>
    obtain ⟨n, rfl⟩ := flashReset_snd hb
    exact ⟨n, b, rfl⟩

/-- What a chip reset of kind `kind` leaves (Table 16.6). -/
structure ChipReset (kind : BitVec 3) (s t : State) : Prop where
  part  : t.part = []
  pq    : t.pq = []
  sync  : t.sync = []
  ls    : t.ls = {}
  ink   : t.ink = {}
  coll  : t.coll = {}
  kl    : t.kl = {}
  surr  : t.glb.surrEn = false
  table : t.glb.active = []
  atRst : t.glb.atReset = true
  cores : t.sep.core = []
  run   : t.sep.run = 1
  frames : t.vel.frames = []
  lock  : t.vel.lock = s.vel.lock
  force : t.plant.force = s.plant.force
  trip  : t.plant.tripLatched = s.plant.tripLatched
  wire  : t.dbg.session = s.dbg.session
  wall  : t.pwr.wall = s.pwr.wall
  now   : t.now = if kind = 1 then 0 else s.now
  last  : t.glb.lastReset = kind
  patch : t.dbg.patch = if kind = 1 then [] else s.dbg.patch
  msix  : t.host.msix = if kind = 4 then s.host.msix else []

theorem chipReset_chipReset (kind : BitVec 3) (s : State) : ChipReset kind s (chipReset kind s) := by
  obtain ⟨f, g, hc⟩ := capture_state (List.range 192) s
  obtain ⟨n, c, u, hv⟩ := velCoreReset_state (serviceReset (kind ≠ 1) (capture (List.range 192) s))
  obtain ⟨m, b, hs⟩ := sepReset_state (velCoreReset (serviceReset (kind ≠ 1) (capture (List.range 192) s)))
  simp only [chipReset, hs]
  simp only [hv]
  have hk1 : (dbgReset (capture (List.range 192) s).dbg (decide (kind ≠ 1))).patch = if kind = 1 then [] else s.dbg.patch := by
    rw [hc]
    by_cases h : kind = 1 <;> simp [dbgReset, h]
  have hk4 : (if kind = 4 then { s.host with bar4Base := 0, irqEn := 0, irqStat := 0, errcnt := 0 }
      else { out := s.host.out, bar4Log := s.host.bar4Log } : HostBlk).msix = if kind = 4 then s.host.msix else [] := by
    split <;> rfl
  rw [hc] at hk1 ⊢
  exact { part := rfl, pq := rfl, sync := rfl, ls := rfl, ink := rfl, coll := rfl, kl := rfl, surr := rfl, table := rfl,
          atRst := rfl, cores := rfl, run := rfl, frames := rfl, lock := rfl, force := rfl, trip := rfl, wire := rfl, wall := rfl,
          now := rfl, last := rfl, patch := hk1, msix := hk4 }

/-- R560: what a power-on reset leaves. -/
theorem powerOnReset_leaves (s : State) :
    ∃ n b c u, powerOnReset s = { State.reset with
      pending := s.pending, fresh := n, rsp := s.rsp
      glb := { fusedOff := s.glb.fusedOff, strapCfg := s.glb.strapCfg, strapSrc := s.glb.strapSrc, rstcfg := s.glb.strapCfg, xtal := s.glb.xtal
               resetHeld := !s.dbg.lineHigh && !s.glb.strapCfg }
      sep := { run := 1, bfl := b }
      vel := { cfl := c, ufl := u, prim := s.vel.prim, golden := s.vel.golden, lock := s.vel.lock,
               infoGen := s.vel.infoGen, bankBad := s.vel.bankBad }
      plant := { tripPin := s.plant.tripPin, tripLatched := s.plant.tripPin, tripUnseen := s.plant.tripPin }
      dbg := { lineHigh := s.dbg.lineHigh }
      host := { out := s.host.out, bar4Log := s.host.bar4Log } } := by
  unfold powerOnReset
  split
  next c t hc =>
    obtain ⟨k, rfl⟩ := flashPower_snd hc
    split
    next u t hu =>
      obtain ⟨m, rfl⟩ := flashPower_snd hu
      split
      next b t hb =>
        obtain ⟨n, rfl⟩ := flashPower_snd hb
        exact ⟨n, _, _, _, rfl⟩

/-- R568: the release point, once nothing holds the reset. -/
theorem exec_releasePoint {s t : State} {rec_ : Bool} (ha : s.glb.atReset = true)
    (hh : s.glb.resetHeld = true → 1 < s.glb.lastReset.toNat) (hrec : rec_ = (s.glb.recovery || (s.glb.rstcfg && s.glb.longHold)))
    (ht : t = { s with
      glb := { s.glb with atReset := false, perst := false, resetHeld := false, bootsrc := s.glb.strapSrc, recovery := rec_ }
      vel := { s.vel with bootDue := true, bootsrc := s.glb.strapSrc, recovery := rec_ } }) :
    exec .releasePoint s =
      .next (coreLeavesReset 0 (if s.glb.lastReset = 0 || !s.mad.started then madStart t else t)) := by
  have hgo : (s.glb.atReset && !(s.glb.resetHeld && decide (s.glb.lastReset.toNat ≤ 1))) = true := by
    cases hr : s.glb.resetHeld with
    | false => simp [ha]
    | true => simpa [ha] using hh hr
  subst ht hrec
  simp only [exec, execReleasePoint, releasePoint, hgo, if_true, done]

/-- Settles O45: what the chip resets leave is one lemma; the others are read off. -/
theorem resets : Obligations.Resets := by
  unfold Obligations.Resets
  intro s
  refine ⟨?_, fun c t hc ht => ?_, fun hr => ?_, fun hr => ?_, fun hot => ?_, fun hd => ?_, fun hr => ?_, fun hr => ?_,
    fun hh hl => ?_, fun hx hh hr hl => ?_, fun t rec_ ha hh hrec ht => ⟨fun hm => ?_, fun hl hm => ?_⟩, fun h => ?_, fun ds h => ?_,
    ?_, fun d hlo hhi => ?_⟩
  · obtain ⟨n, b, c, u, h⟩ := powerOnReset_leaves s
    refine ⟨powerOnReset s, rfl, ?_⟩
    rw [h]
    exact ⟨rfl, rfl, rfl, rfl, rfl, rfl, rfl, rfl, rfl, rfl, rfl, rfl, rfl, rfl, rfl, rfl, rfl⟩
  · obtain ⟨kind, hexec⟩ : ∃ kind, exec c s = .next (chipReset kind s) := by
      rcases hc with ⟨rfl, hr⟩ | rfl | rfl | ⟨rfl, hd⟩
      · exact ⟨1, by simp only [exec, execExternalReset, hr, Bool.false_eq_true, if_false, done]⟩
      · exact ⟨2, rfl⟩
      · exact ⟨3, rfl⟩
      · exact ⟨4, by simp only [exec, execWarm, hd, if_true, done]⟩
    have h := chipReset_chipReset kind s
    rw [Host.Outcome.next.inj (hexec.symm.trans ht)] at h
    exact ⟨h.part, h.pq, h.sync, h.ls, h.ink, h.coll, h.kl, h.surr, h.table, h.atRst, h.cores, h.run, h.frames, h.lock, h.force,
      h.trip, h.wire, h.wall⟩
  · refine ⟨chipReset 1 s, ?_, ?_⟩
    · simp only [exec, execExternalReset, hr, Bool.false_eq_true, if_false, done]
    · have h := chipReset_chipReset 1 s
      exact ⟨h.now, h.last, h.patch⟩
  · simp only [exec, execExternalReset, hr, if_true, done]
  · have h := chipReset_chipReset (if hot then 3 else 2) s
    refine ⟨_, rfl, ?_⟩
    cases hot
    · exact ⟨h.now, h.last, h.patch, h.msix⟩
    · exact ⟨h.now, h.last, h.patch, h.msix⟩
  · have h := chipReset_chipReset 4 s
    refine ⟨chipReset 4 s, ?_, h.now, h.last, h.patch, h.msix⟩
    simp only [exec, execWarm, hd, if_true, done]
  · obtain ⟨n, c, u, h⟩ := velCoreReset_state s
    refine ⟨velCoreReset s, ?_, ?_⟩
    · simp only [exec, execVelFabric, velFabric, checked_one, hr, Bool.false_eq_true, if_false, done]
    · rw [h]
      exact ⟨rfl, rfl, rfl, rfl, rfl, rfl, rfl, rfl⟩
  · simp only [exec, execVelFabric, velFabric, checked_one, hr, if_true, setReason, done]
  · simp only [exec, execExternalResetRelease, hh, hl, and_self, if_true, done]
  · change done (if _ then _ else _) = _
    rw [if_pos ⟨hx, hh, by simp [hr, hl]⟩]
    rfl
  · rw [exec_releasePoint ha hh hrec ht, if_pos (by simpa using hm)]
  · rw [exec_releasePoint ha hh hrec ht, if_neg (by rw [hm]; simpa using hl)]
  · change done (if _ then _ else _) = _
    rw [if_neg (by rcases h with h | ⟨hh, hl⟩ <;> simp [*])]
    rfl
  · simp only [exec, execSupplyFault, List.contains_iff_mem, h, if_true, execPowerOnReset]
  · exact ⟨_, rfl, rfl⟩
  · refine ⟨domReaches d.toNat { s with kl := { s.kl with enable := setBit s.kl.enable (d.toNat - 24) false } }, ?_, ?_⟩
    · have h0 : [d].contains (0 : BitVec 6) = false := by
        by_contra hd
        simp only [Bool.not_eq_false, List.contains_iff_mem, List.mem_singleton] at hd
        simp [← hd] at hlo
      have h17 : d.toNat ≠ 17 := by omega
      have h18 : d.toNat ≠ 18 := by omega
      simp only [exec, execSupplyFault, h0, if_false, List.foldl_cons, List.foldl_nil, supplyOne, h17, h18, hlo, hhi, and_self,
        if_true, Bool.false_eq_true, done]
    · rw [domReaches, if_neg (by omega), if_neg (by omega), if_neg (by omega), if_neg (by omega), if_pos ⟨hlo, hhi⟩]
      exact ⟨bit_setBit_false _ _, rfl, rfl⟩

end Sys2Proof.Machine
end

section
/-!
The plant port (O41): posts, DISARM_ALL, evidence and the trip.
-/
namespace Sys2Proof.Machine

/-- R497: disarming every mailbox. -/
theorem disarmMask_all (s : State) : disarmMask (BitVec.allOnes 64) s =
    present (List.range 64) { s with plant := { s.plant with armed := 0, disarmed := BitVec.allOnes 64 } } := by
  have ha : s.plant.armed &&& ~~~BitVec.allOnes 64 = 0 := by simp
  have hd : s.plant.disarmed ||| BitVec.allOnes 64 = BitVec.allOnes 64 := BitVec.or_allOnes
  have hm : mboxes (BitVec.allOnes 64) = List.range 64 := by decide
  rw [disarmMask, ha, hd, hm]

/-- R498: a value that the limits let pass is presented. -/
theorem decTake_passes {m : Nat} {v : W32} {s : State} {r : W32 × Bool}
    (hr : r = limitCheck (s.mbSigned m) (s.mbAction m) (s.mbLo m) (s.mbHi m) v (kget 0 s.plant.dec m)) (hin : r.2 = false) :
    decTake m v s = presentOne { s with plant := { s.plant with dec := kset 0 s.plant.dec m r.1 } } m := by
  simp only [decTake, ← hr, hin, Bool.false_eq_true, if_false]

/-- R498: a value outside the limits is logged with its mailbox. -/
theorem decTake_hits {m : Nat} {v : W32} {s u : State} {r : W32 × Bool}
    (hr : r = limitCheck (s.mbSigned m) (s.mbAction m) (s.mbLo m) (s.mbHi m) v (kget 0 s.plant.dec m)) (hout : r.2 = true)
    (hu : u = { s with plant := { s.plant with dec := kset 0 s.plant.dec m r.1 } }) :
    decTake m v s = presentOne (logErr .plant 0x0A80 agPlant (BitVec.ofNat 48 m)
      { u with plant := { u.plant with limitHit := setBit u.plant.limitHit m true } }) m := by
  subst hu
  simp only [decTake, ← hr, hout, if_true]

/-- R501, R502: a register write is taken; the second one of a tick is logged. -/
theorem exec_evidenceWrite {s u : State} {m : BitVec 6} {v : W32} (hs : bit s.plant.evSrc m.toNat = false)
    (hu : u = { s with plant := { s.plant with
      evid := kset 0 s.plant.evid m.toNat v, evTaken := setBit s.plant.evTaken m.toNat true } }) :
    exec (.evidenceWrite m v) s =
      .next (if s.plant.evTaken ≠ 0 then logErr .plant 0x0A81 agPlant (BitVec.ofNat 48 m.toNat) u else u) := by
  subst hu
  simp only [exec, execEvidenceWrite, hs, Bool.false_eq_true, if_false, evTake, done]

/-- R508: the trip that the synchroniser passes. -/
theorem exec_tripSeen {s u : State} (hun : s.plant.tripUnseen = true) (hage : 2 ≤ s.plant.tripAge.toNat) (hd : s.domRun 40 = true)
    (hu : u = { s with plant := { s.plant with tripUnseen := false, tripCount := satInc s.plant.tripCount, tripTick := s.now } }) :
    exec .tripSeen s = .next (logErr .plant 0x0A82 agPlant 0
      (if s.plant.disarm then disarmMask (BitVec.allOnes 64) u else u)) := by
  subst hu
  simp only [exec, execTripSeen, hun, hage, hd, decide_true, Bool.and_self, if_true, done]

/-- Settles O41: a post by its binding and the limit check; the other commands by their guards. -/
theorem plantPort : Obligations.PlantPort := by
  unfold Obligations.PlantPort
  intro s t u
  refine ⟨fun x src m v r hin hpay => ⟨fun hb hr hu => ⟨fun h => ?_, fun h => ?_⟩, fun hb => ?_⟩, ?_,
    fun m v hs hu => ⟨fun he => ?_, fun he => ?_⟩, fun m v hs => ?_, fun v hs => ?_, fun v hs => ?_, fun hp => ?_, fun hp => ?_,
    fun hun hage => ?_, fun hun hage hd hu => ⟨fun hdis => ?_, fun hdis => ?_⟩, rfl, fun hp => ?_, fun hp => ?_⟩
  · rw [exec_postRelease_bound hin hpay hb, decTake_passes hr h, hu]
  · rw [exec_postRelease_bound hin hpay hb, decTake_hits hr h hu]
  · simp only [exec, execPostRelease, hin, hpay, hb, if_false, done]
  · change done (disarmMask _ s) = _
    rw [disarmMask_all, done]
  · rw [exec_evidenceWrite hs hu, if_neg (not_not_intro he)]
  · rw [exec_evidenceWrite hs hu, if_pos he]
  · simp only [exec, execEvidenceWrite, hs, if_true, done]
  · simp only [exec, execPlantEvWrData, plantEvWr, hs, if_true, done]
  · simp only [exec, execPlantEvWrData, plantEvWr, hs, Bool.false_eq_true, if_false, setReason, done]
  · change done (if _ then _ else _) = _
    rw [if_neg (by simp [hp])]
    rfl
  · simp only [exec, execTripAssert, hp, if_true, done]
  · change done (if _ then _ else _) = _
    rw [if_neg (by simp [hage])]
    rfl
  · rw [exec_tripSeen hun hage hd hu, hdis, if_neg Bool.false_ne_true]
  · rw [exec_tripSeen hun hage hd hu, hdis, if_pos rfl, disarmMask_all]
  · simp only [exec, execTripClr, tripClr, hp, Bool.false_eq_true, if_false, done]
  · simp only [exec, execTripClr, tripClr, hp, if_true, setReason, done]

end Sys2Proof.Machine
end

section
/-!
The debug wire (O42).
-/
namespace Sys2Proof.Machine

theorem wireOk_open {s : State} (hs : s.dbg.session = true) (hl : s.dbg.lineHigh = true) : wireOk s = true := by
  rw [wireOk, hs, hl]
  rfl

theorem wireOk_shut {s : State} (h : s.dbg.session = false ∨ s.dbg.lineHigh = false) : wireOk s = false := by
  rcases h with h | h <;> simp [wireOk, h]

-- Accesses to registers by the wire
/-- R520: RDREG and WRREG reach the words of the register space. -/
theorem wireReg_inside {a : Dpa} {s t : State} {r : State → AccR × State} (hw : a.toNat % 4 = 0) (hlo : 0x030000000000 ≤ a.toNat)
    (hhi : a.toNat < 0x030004000000) :
    (∀ d, r s = (.ok d, t) → wireReg a r s = (.ok (d.setWidth 64), t)) ∧ (r s = (.err, t) → wireReg a r s = (.err, t)) := by
  have hin : ¬(a.toNat % 4 ≠ 0 ∨ a.toNat < 0x030000000000 ∨ 0x030004000000 ≤ a.toNat) := by omega
  refine ⟨fun d h => ?_, fun h => ?_⟩ <;> simp only [wireReg, if_neg hin, h]

theorem wireReg_outside {a : Dpa} {s : State} {r : State → AccR × State}
    (h : a.toNat % 4 ≠ 0 ∨ a.toNat < 0x030000000000 ∨ 0x030004000000 ≤ a.toNat) :
    wireReg a r s = (.err, logErr .glb 0x0184 agDbg a s) := if_pos h

/-- A word answers in the low 32 bits. -/
theorem setWidth_word (d : W32) : (d.setWidth 64).setWidth 512 = d.setWidth 512 := by
  apply BitVec.eq_of_toNat_eq
  simp only [BitVec.toNat_setWidth]
  omega

theorem setWidth_no_data : (0 : W64).setWidth 512 = 0 := by simp

-- Accesses to HBM by the wire
/-- R268: a read of HBM without an uncorrectable word. -/
theorem dbgHbmRead_clean {a : Dpa} {s : State} (h : ∀ e ∈ hbmChecks a.toNat 8 s.hbm, e.2 ≠ .bad) :
    dbgHbmRead a s = (some (hbmBytes (s.keyOf (s.granuleOwner (granuleOf a.toNat))) a.toNat 8 s.hbm),
      eccCount (hbmChecks a.toNat 8 s.hbm) s) := by
  have hnone : (hbmChecks a.toNat 8 s.hbm).find? (fun e => e.2 == .bad) = none := by
    simpa [List.find?_eq_none] using h
  simp only [dbgHbmRead, hnone]
  obtain ⟨c, u, he⟩ := eccCount_state (hbmChecks a.toNat 8 s.hbm) s
  rw [he]
  rfl

/-- R273: what an access to HBM needs. -/
theorem hbmReach_open {ag : Agent} {a : Dpa} {s : State} (hen : s.ink.enable = true) (hd : s.domRun 23 = true)
    (ht : s.hbm.trained = true) (htag : (s.wellAt (inkAt a.toNat)).tagsUsed.toNat < 4096) : hbmReach ag a s = none := by
  have hfree : tagsFree (inkAt a.toNat) s ≠ 0 := by
    rw [tagsFree]
    omega
  simp only [hbmReach, hen, hd, ht, hfree, Bool.not_true, Bool.false_eq_true, or_self, if_false]

/-- R520: RDMEM and WRMEM below the top of HBM. -/
theorem wireMem_hbm {a : Dpa} {s : State} (htop : a.toNat < hbmTop) (h : hbmReach agDbg a s = none) :
    wireMemRead a s = wireBytes (dbgHbmRead a s) ∧
    ∀ v, wireMemWrite a v s = match hbmWrite (inkAt a.toNat) s.dbg.accOwner agDbg a.toNat (wordBytes 8 v) s with
      | (none, s) => (.ok 0, s)
      | (some _, s) => (.err, s) := by
  refine ⟨?_, fun v => ?_⟩
  · simp only [wireMemRead, htop, if_true, h]
  · simp only [wireMemWrite, htop, if_true, h]
    rfl

/-- R588: RDMEM and WRMEM above the memories are two accesses to registers. -/
theorem wireMem_regs {a : Dpa} {s : State} (htop : hbmTop ≤ a.toNat) (hwin : isWindow a = false) (hsep : isSepiaMem a = false) :
    wireMemRead a s = regPairRead a s ∧ ∀ v, wireMemWrite a v s = regPairWrite a v s := by
  have hno : ¬ a.toNat < hbmTop := by omega
  refine ⟨?_, fun v => ?_⟩
  · simp only [wireMemRead, hno, hwin, hsep, if_false, Bool.false_eq_true]
  · simp only [wireMemWrite, hno, hwin, hsep, if_false, Bool.false_eq_true]

-- The requests of an open session
section
variable {s : State} (hw : wireOk s = true)
include hw

theorem exec_rdreg (a : Dpa) (coll : Bool) :
    exec (.rdreg a coll) s = .next (wireEnd coll s (wireReg a (regRead agDbg a) s)) := by
  simp only [exec, execRdreg, hw, if_true, done]

theorem exec_wrreg (a : Dpa) (v : W32) (coll : Bool) :
    exec (.wrreg a v coll) s = .next (wireEnd coll s (wireReg a (regWrite agDbg a v) s)) := by
  simp only [exec, execWrreg, hw, if_true, done]

theorem exec_rdmem (a : Dpa) (coll : Bool) : exec (.rdmem a coll) s =
    .next (wireEnd coll s (if a.toNat % 8 = 0 then wireMemRead a s else (.err, logErr .glb 0x0184 agDbg a s))) := by
  simp only [exec, execRdmem, hw, if_true, done, unassigned]

theorem exec_wrmem (a : Dpa) (v : W64) (coll : Bool) : exec (.wrmem a v coll) s =
    .next (wireEnd coll s (if a.toNat % 8 = 0 then wireMemWrite a v s else (.err, logErr .glb 0x0184 agDbg a s))) := by
  simp only [exec, execWrmem, hw, if_true, done, unassigned]

end

/-- Settles O42: outside a session nothing answers; in one each access ends in its response. -/
theorem debugWire : Obligations.DebugWire := by
  unfold Obligations.DebugWire
  intro s t u
  refine ⟨fun st d => rfl, fun st d => rfl, rfl, fun arg ho => ?_, fun arg ho => ?_, fun hs => ?_, rfl, fun hs => ?_, fun l => rfl,
    fun h coll a v w m c => ?_, fun hs hl => ?_⟩
  · simp only [exec, execWake, ho, if_true, done]
  · simp only [exec, execWake, ho, Bool.false_eq_true, if_false, done]
  · simp only [exec, execSleep, hs, if_true, sessionEnd, done]
  · change done (if _ then _ else _) = _
    rw [if_pos hs]
    rfl
  · have hw := wireOk_shut h
    refine ⟨?_, ?_, ?_, ?_, ?_, ?_, ?_, ?_, ?_, ?_, ?_⟩ <;>
      simp only [exec, execIdcode, execRdreg, execWrreg, execRdmem, execWrmem, execHalt, execResume, execStep, execVtrd, execVtwr,
        execWireAccessTimeout, hw, Bool.not_false, Bool.false_eq_true, if_false, if_true, done]
  · have hw := wireOk_open hs hl
    refine ⟨fun coll => ?_, fun a coll ha hlo hhi => ⟨fun d h => ?_, fun h => ?_, fun v d h => ?_, fun v h => ?_⟩,
      fun a coll h => ⟨?_, fun v => ?_⟩, fun a coll h => ⟨?_, fun v => ?_⟩,
      fun a coll ha htop hen hd ht htag => ⟨fun hok => ?_, fun v h => ?_, fun v e h => ?_⟩,
      fun a coll ha htop hwin hsep => ⟨fun lo hi h1 h2 => ?_, fun v d e h1 h2 => ?_⟩,
      fun m coll => ⟨?_, ?_⟩, fun c coll hc hh ht => ?_, fun c coll hc hh => ?_, fun c coll hc => ?_,
      fun hown => ⟨fun w coll hv => ?_, fun coll hv => ?_, fun v coll hv => ?_, fun v w coll hv => ?_⟩,
      fun hown v coll => ⟨?_, ?_⟩, ?_⟩
    · simp only [exec, execIdcode, hw, if_true, done]
    · rw [exec_rdreg hw, (wireReg_inside ha hlo hhi).1 d h, wireEnd, setWidth_word]
    · rw [exec_rdreg hw, (wireReg_inside ha hlo hhi).2 h, wireEnd]
    · rw [exec_wrreg hw, (wireReg_inside ha hlo hhi).1 d h, wireEnd, setWidth_word]
    · rw [exec_wrreg hw, (wireReg_inside ha hlo hhi).2 h, wireEnd]
    · rw [exec_rdreg hw, wireReg_outside h, wireEnd]
    · rw [exec_wrreg hw, wireReg_outside h, wireEnd]
    · rw [exec_rdmem hw, if_neg h, wireEnd]
    · rw [exec_wrmem hw, if_neg h, wireEnd]
    · rw [exec_rdmem hw, if_pos ha, (wireMem_hbm htop (hbmReach_open hen hd ht htag)).1, dbgHbmRead_clean hok, wireBytes, wireEnd]
    · rw [exec_wrmem hw, if_pos ha, (wireMem_hbm htop (hbmReach_open hen hd ht htag)).2 v, h]
      simp only [wireEnd, setWidth_no_data]
    · rw [exec_wrmem hw, if_pos ha, (wireMem_hbm htop (hbmReach_open hen hd ht htag)).2 v, h, wireEnd]
    · rw [exec_rdmem hw, if_pos ha, (wireMem_regs htop hwin hsep).1, regPairRead, h1]
      simp only [h2, wireEnd]
    · rw [exec_wrmem hw, if_pos ha, (wireMem_regs htop hwin hsep).2 v, regPairWrite, h1]
      simp only [h2, wireEnd, setWidth_no_data]
    · simp only [exec, execHalt, hw, if_true, done]
    · simp only [exec, execResume, hw, if_true, done]
    · subst ht
      simp only [exec, execStep, hw, Bool.not_true, Bool.false_eq_true, if_false, Nat.not_le.mpr hc, hh, if_true, resumeCore, done]
    · simp only [exec, execStep, hw, Bool.not_true, Bool.false_eq_true, if_false, Nat.not_le.mpr hc, hh, wireRefuse, setReason, done]
    · simp only [exec, execStep, hw, Bool.not_true, Bool.false_eq_true, if_false, hc, if_true, wireRefuse, setReason, done]
    · simp only [exec, execVtrd, hw, vtBar, hown, Bool.not_true, Bool.false_eq_true, if_false, hv, done]
    · simp only [exec, execVtrd, hw, vtBar, hown, Bool.not_true, Bool.false_eq_true, if_false, hv, wireRefuse, setReason, done]
    · simp only [exec, execVtwr, hw, vtBar, hown, Bool.not_true, Bool.false_eq_true, if_false, hv, done]
    · simp only [exec, execVtwr, hw, vtBar, hown, Bool.not_true, Bool.false_eq_true, if_false, hv, wireRefuse, setReason, done]
    · simp only [exec, execVtrd, hw, vtBar, hown, Bool.not_true, Bool.false_eq_true, if_false, if_true, wireRefuse, setReason, done]
    · simp only [exec, execVtwr, hw, vtBar, hown, Bool.not_true, Bool.false_eq_true, if_false, if_true, wireRefuse, setReason, done]
    · simp only [exec, execWireAccessTimeout, hw, if_true, ans, done]

end Sys2Proof.Machine
end

section
/-!
The debug units (O43).
-/
namespace Sys2Proof.Machine

-- Cross-triggers (R528, R530)
/-- An item of the tick waits in the send latch: fires and resumes combine with it. -/
theorem sendXt_combines {f r f' r' : Byte} {ag ag' : Agent} {s : State} {x : XItem} (hne : f ||| r ≠ 0) (hl : s.latch = [x])
    (hc : x.cls = .xtr) (hs : x.stamp = s.now) (hp : x.pay = .xt f' r' ag') :
    sendXt f r ag s = { s with latch := [{ x with pay := .xt (f' ||| f) (r' ||| r) ag' }] } := by
  simp only [sendXt, hne, if_false, hl, List.any_cons, hc, hs, beq_self_eq_true, Bool.and_self, Bool.true_or, if_true, List.map_cons,
    List.map_nil, hp]

/-- None waits: an item of its own. -/
theorem sendXt_first {f r : Byte} {ag : Agent} {s : State} (hne : f ||| r ≠ 0) (h : ∀ x ∈ s.latch, x.cls = .xtr → x.stamp ≠ s.now) :
    sendXt f r ag s = { s with latch := s.latch ++
      [{ cls := .xtr, src := 0, dst := 0, stamp := s.now, metered := true, pay := .xt f r ag }] } := by
  have hno : s.latch.any (fun x => x.cls == .xtr && x.stamp == s.now) = false := by
    simpa [List.any_eq_false] using h
  simp only [sendXt, hne, if_false, hno, Bool.false_eq_true, sendX_state]

theorem sendXt_nothing (ag : Agent) (s : State) : sendXt 0 0 ag s = s := rfl

/-- R528: a fire of some channel. -/
theorem xtFire_some {m : Byte} (hm : m ≠ 0) (ag : Agent) (s : State) : xtFire m ag s =
    { sendXt m 0 ag s with dbg := { (sendXt m 0 ag s).dbg with lastCh := m, lastAg := ag, xtTick := (sendXt m 0 ag s).now } } := by
  simp only [xtFire, hm, if_false]

/-- R529: a partition that BRK has bound to a channel halts at its fire. -/
theorem fireRelease_mem {m : Byte} {s : State} {p : Nat × Part} (hp : p ∈ s.part)
    (hc : ∀ c < 8, (fld (s.dcoreAt c).ctl 8 8 : Byte) &&& m = 0) (hslot : s.dbg.slot = []) (hm : p.2.haltOn &&& m ≠ 0) :
    (p.1, haltPart p.2.haltOn p.2) ∈ (fireRelease m s).part := by
  have hcores : ∀ cs : List Nat, (∀ c ∈ cs, c < 8) → cs.foldl (fun s c =>
      if (fld (s.dcoreAt c).ctl 8 8 &&& m) ≠ 0 ∧ coreRuns s c then debugEvent c 1 0 s else s) s = s := by
    intro cs
    induction cs with
    | nil => exact fun _ => rfl
    | cons c cs ih =>
      intro hcs
      rw [List.foldl_cons, if_neg fun h => h.1 (hc c (hcs c List.mem_cons_self))]
      exact ih fun d hd => hcs d (List.mem_cons_of_mem _ hd)
  have hslots : slotsOf m s = [] := by
    simp [slotsOf, hslot, bit]
  simp only [fireRelease, hcores _ fun c h => List.mem_range.mp h, hslots, List.foldl_nil]
  exact List.mem_map.mpr ⟨p, hp, by rw [if_pos hm]⟩

-- The trace drain (R541)
/-- The next physical Quill has a record. -/
theorem exec_traceDrain {q : Byte} {r : TraceRec} {rs : List TraceRec} {s t : State} (hd : s.dbg.trDone = false)
    (hq : q = s.dbg.trRr + 1) (hf : (s.pqAt q.toNat).fifo = r :: rs) (ht : t = s.modPq q.toNat (fun p => { p with fifo := rs })) :
    exec .traceDrain s = .next { t with dbg := { traceStore r t.dbg with trRr := q, trDone := true } } := by
  have hnext : (s.dbg.trRr.toNat + 1 + 0) % 256 = q.toNat := by
    rw [hq, BitVec.toNat_add]
    rfl
  have hfind : ((List.range 256).map (fun i => (s.dbg.trRr.toNat + 1 + i) % 256)).find? (fun q => !(s.pqAt q).fifo.isEmpty) =
      some q.toNat := by
    rw [show (List.range 256) = 0 :: (List.range 255).map Nat.succ from List.range_succ_eq_map, List.map_cons, hnext,
      List.find?_cons_of_pos]
    rw [hf]
    rfl
  subst ht
  simp only [exec, execTraceDrain, hd, Bool.false_eq_true, if_false, hfind, hf, BitVec.ofNat_toNat, BitVec.setWidth_eq, done]

-- The selected register (R525)
theorem sel_reg (n : BitVec 5) : (n.setWidth 13).toNat = n.toNat := by
  simp only [BitVec.toNat_setWidth]
  omega

theorem selRead_reg {c : Nat} {s : State} {n : BitVec 5} (hh : (s.dcoreAt c).halted = true) (hd : s.sep.down = false)
    (hn : (s.dcoreAt c).sel = n.setWidth 13) : selRead c s = some ((s.coreAt c).reg n.toNat) := by
  simp only [selRead, hh, hd, hn, sel_reg, n.isLt, Bool.not_true, Bool.or_self, Bool.false_eq_true, if_false, if_true]

theorem selRead_pc {c : Nat} {s : State} (hh : (s.dcoreAt c).halted = true) (hd : s.sep.down = false)
    (hn : (s.dcoreAt c).sel = 0x20) : selRead c s = some (s.coreAt c).pc := by
  simp only [selRead, hh, hd, hn, Bool.not_true, Bool.or_self, Bool.false_eq_true, if_false]
  rfl

theorem selRead_running {c : Nat} {s : State} (hh : (s.dcoreAt c).halted = false) : selRead c s = none := by
  simp only [selRead, hh, Bool.not_false, Bool.true_or, if_true]

-- The virtual terminal (R545)
theorem setWidth_no_word : (0 : W32).setWidth 512 = 0 := by simp

theorem vtSide_iff {ag : Agent} {s : State} : vtSide ag s = true ↔ ag = if bit s.glb.own 10 then agHost else agDbg := by
  cases hb : bit s.glb.own 10 <;> simp [vtSide, vtBar, hb]

/-- Settles O43: each command by its checks; a fire or a resume by what waits in the send latch. -/
theorem debugUnits : Obligations.DebugUnits := by
  unfold Obligations.DebugUnits
  intro s t
  refine ⟨fun ag m hm h => ⟨?_, ?_⟩, fun ag ag' m f r x hm hl hc hs hp => ⟨?_, ?_⟩, fun ag => ⟨rfl, rfl⟩,
    fun x f r ag hin hp => ?_, fun m k p hp hc hs hm hk => ?_,
    fun c => ⟨fun hr => ?_, fun hr => ?_, fun hh => ⟨?_, ?_⟩, fun hh => ⟨?_, ?_⟩,
      fun ag v hh hd => ⟨fun n hn => ⟨?_, ?_⟩, fun hn => ⟨?_, ?_⟩⟩, fun ag v hh => ⟨?_, ?_⟩⟩,
    fun v h => ?_, fun v h => ?_,
    fun q r rs hd hq hf ht => ⟨fun hfil how => ?_, fun hfil hst hfull => ?_, fun hfil hroom => ?_⟩, fun hd => ?_,
    fun n v w ln hln hw => ⟨fun hb => ?_, fun hb he => ?_, fun hb he => ?_⟩, fun n k v => ⟨fun hb => ?_, fun hb => ?_⟩,
    fun ag v hc => ⟨fun ht => ?_, fun w ht => ?_, ?_, ?_, ?_⟩, fun ag v hc hs => ⟨fun hr => ?_, fun w hr => ?_, ?_⟩,
    fun ag v hc hs => ⟨?_, ?_, ?_⟩⟩
  · change done (xtFire m ag s) = _
    rw [xtFire_some hm, sendXt_first (by simpa using hm) h]
    rfl
  · change done (sendXt 0 m ag s) = _
    rw [sendXt_first (by simpa using hm) h]
    rfl
  · change done (xtFire m ag s) = _
    rw [xtFire_some hm, sendXt_combines (by simpa using hm) hl hc hs hp]
    simp [done]
  · change done (sendXt 0 m ag s) = _
    rw [sendXt_combines (by simpa using hm) hl hc hs hp]
    simp [done]
  · simp only [exec, execXtRelease, hin, hp, done]
  · subst hk
    exact fireRelease_mem hp hc hs hm
  · simp only [exec, execDbgCoreHalt, coreHaltCmd, hr, if_true, done]
  · simp only [exec, execDbgCoreHalt, coreHaltCmd, hr, Bool.false_eq_true, if_false, done]
  · simp only [exec, execDbgCoreResume, coreResumeCmd, checked_one, hh, Bool.not_true, Bool.false_eq_true, if_false, resumeCore, done]
    rfl
  · simp only [exec, execDbgCoreStep, coreResumeCmd, checked_one, hh, Bool.not_true, Bool.false_eq_true, if_false, resumeCore, done]
    rfl
  · simp only [exec, execDbgCoreResume, coreResumeCmd, checked_one, hh, Bool.not_false, if_true, setReason, done]
  · simp only [exec, execDbgCoreStep, coreResumeCmd, checked_one, hh, Bool.not_false, if_true, setReason, done]
  · simp only [exec, execDbgCoreData, Bool.false_eq_true, if_false, selRead_reg hh hd hn, ans, done]
  · simp only [exec, execDbgCoreData, if_true, selWrite, checked_one, selRead_reg hh hd hn, Option.isNone_some, Bool.false_eq_true,
      if_false, hn, sel_reg, n.isLt, done]
  · simp only [exec, execDbgCoreData, Bool.false_eq_true, if_false, selRead_pc hh hd hn, ans, done]
  · simp only [exec, execDbgCoreData, if_true, selWrite, checked_one, selRead_pc hh hd hn, Option.isNone_some, Bool.false_eq_true,
      if_false, hn, done]
    rfl
  · simp only [exec, execDbgCoreData, Bool.false_eq_true, if_false, selRead_running hh, setReason, done]
  · simp only [exec, execDbgCoreData, if_true, selWrite, checked_one, selRead_running hh, Option.isNone_none, setReason, done]
  · have hno : s.dbg.watch.any (fun e => bit e.2.ctl 0) = false := by simpa [List.any_eq_false] using h
    simp only [exec, execDbgQwTgt, qwTgt, checked_one, hno, Bool.false_eq_true, if_false, done]
  · have hany : s.dbg.watch.any (fun e => bit e.2.ctl 0) = true := by simpa using h
    simp only [exec, execDbgQwTgt, qwTgt, checked_one, hany, if_true, setReason, done]
  · have hdbg : t.dbg = s.dbg := by rw [ht]; rfl
    rw [exec_traceDrain hd hq hf ht, traceStore, hdbg, if_pos ⟨hfil, how⟩]
  · have hdbg : t.dbg = s.dbg := by rw [ht]; rfl
    rw [exec_traceDrain hd hq hf ht, traceStore, hdbg, if_neg (by rcases hfil with h | h <;> simp [h]), if_pos ⟨hst, hfull⟩]
  · have hdbg : t.dbg = s.dbg := by rw [ht]; rfl
    rw [exec_traceDrain hd hq hf ht, traceStore, hdbg, if_neg (by rcases hfil with h | h <;> simp [h]),
      if_neg (by rcases hroom with h | h <;> simp [h])]
  · simp only [exec, execTraceDrain, hd, if_true, done]
  · simp only [exec, execPatchUnitWrite, patchWrite, checked_one, decide_eq_true_eq, ne_eq, hb, not_false_eq_true, if_true, setReason, done]
  · simp only [exec, execPatchUnitWrite, patchWrite, checked_one, decide_eq_true_eq, ne_eq, hb, not_true_eq_false, if_false, ← hw, he, if_true, done]
  · simp only [exec, execPatchUnitWrite, patchWrite, checked_one, decide_eq_true_eq, ne_eq, hb, not_true_eq_false, if_false, ← hw, he, hln, done]
  · simp only [exec, execPatchRamWrite, patchRamWr, checked_one, hb, Bool.false_eq_true, if_false, done]
  · simp only [exec, execPatchRamWrite, patchRamWr, checked_one, hb, if_true, setReason, done]
  · simp only [exec, execDbgVtTx, if_true, vtTxWrite, hc, ht, and_self, done]
  · simp only [exec, execDbgVtTx, if_true, vtTxWrite, hc, ht, reduceCtorEq, and_false, if_false, done]
  · simp only [exec, execDbgVtTx, Bool.false_eq_true, if_false, vtTxRead, hc, if_true, done]
  · simp only [exec, execDbgVtRx, if_true, vtRxWrite, hc, done]
  · simp only [exec, execDbgVtRx, Bool.false_eq_true, if_false, vtRxRead, hc, if_true, done]
  · simp only [exec, execDbgVtRx, if_true, vtRxWrite, hc, Bool.false_eq_true, if_false, vtSide_iff.mpr hs, hr, done]
  · simp only [exec, execDbgVtRx, if_true, vtRxWrite, hc, Bool.false_eq_true, if_false, vtSide_iff.mpr hs, hr, reduceCtorEq, done]
  · simp only [exec, execDbgVtTx, Bool.false_eq_true, if_false, vtTxRead, hc, vtSide_iff.mpr hs, if_true, done]
  · have hs : ¬vtSide ag s = true := fun h => hs (vtSide_iff.mp h)
    simp only [exec, execDbgVtRx, if_true, vtRxWrite, hc, Bool.false_eq_true, if_false, hs, setReason, done]
  · simp only [exec, execDbgVtTx, if_true, vtTxWrite, hc, Bool.false_eq_true, false_and, if_false, done]
  · have hs : ¬vtSide ag s = true := fun h => hs (vtSide_iff.mp h)
    simp only [exec, execDbgVtTx, Bool.false_eq_true, if_false, vtTxRead, hc, hs, setReason, setWidth_no_word, done]

end Sys2Proof.Machine
end

section
/-!
The protection of the configuration (O40): locks, the configuration flash and the scrubber.
-/
namespace Sys2Proof.Machine

/-- R487: an operation of the configuration flash that passes its checks starts. -/
theorem cflStart_passes {cs : List (Bool × W16)} {op : FlashOp} {s : State} (h : ∀ c ∈ cs, c.1 = false) :
    cflStart cs op s = slotTouched (cflSlot s) { s with vel := { s.vel with cfl := { s.vel.cfl with op := some op } } } := by
  simp only [cflStart, (firstReason_none cs).mpr h]

/-- R487: the first check that fails sets the error bit and latches its reason. -/
theorem cflStart_fails {cs : List (Bool × W16)} {op : FlashOp} {s : State} {r : W16} (h : firstReason cs = some r) :
    cflStart cs op s = { s with vel := { s.vel with reason := r, cfl := { s.vel.cfl with err := true } } } := by
  simp only [cflStart, h, setReason]

/-- R480: over frames without an error the scrubber only moves on. -/
theorem foldl_scrubFrame_clean {s : State} {fs : List Nat}
    (h : ∀ f ∈ fs, (kget {} s.vel.frames f).crc = frameCrcW f (kget {} s.vel.frames f).data) (l : BitVec 12) :
    ∃ m, fs.foldl scrubFrame { s with vel := { s.vel with lastFrame := l } } = { s with vel := { s.vel with lastFrame := m } } := by
  induction fs generalizing l with
  | nil => exact ⟨l, rfl⟩
  | cons f fs ih =>
    obtain ⟨m, hm⟩ := ih (fun g hg => h g (List.mem_cons_of_mem _ hg)) (BitVec.ofNat 12 f)
    refine ⟨m, ?_⟩
    rw [List.foldl_cons, ← hm, scrubFrame, if_pos (h f List.mem_cons_self).symm]

/-- Settles O40: each command by its first check that fails; a pass over clean frames by induction on the frames. -/
theorem configurationProtection : Obligations.ConfigurationProtection := by
  unfold Obligations.ConfigurationProtection
  intro s
  refine ⟨fun v hv => ⟨?_, fun hr => ?_, fun hr => ?_⟩, ⟨?_, ?_⟩, fun v hv => ⟨fun hl => ?_, fun hl => ?_⟩,
    fun hop => ⟨fun hl hf => ?_, fun hl => ?_, fun hl hf => ?_, fun hl => ⟨?_, ?_⟩⟩, fun o hop => ⟨?_, ?_⟩,
    fun he hf hl hd hok => ?_, fun vote rom h => ?_⟩
  · rw [exec_velLockSet, lockSet_stores hv]
    rfl
  · rw [exec_velLockClr, lockClr_stores hv hr]
    rfl
  · rw [exec_velLockClr, lockClr_refused hv hr]
    rfl
  · rw [exec_velLockSet, lockSet_zero]
  · rw [exec_velLockClr, lockClr_zero]
  · change done (primaryGolden v s) = _
    rw [primaryGolden, if_neg (not_and_or.mpr hv), checked_one, hl]
    rfl
  · change done (primaryGolden v s) = _
    rw [primaryGolden, if_neg (not_and_or.mpr hv), checked_one, hl]
    rfl
  · change done (cflProgram s) = _
    rw [cflProgram, cflStart_passes (by simp [Flash.busy, hop, hl, hf])]
    rfl
  · change done (cflErase s) = _
    rw [cflErase, cflStart_passes (by simp [Flash.busy, hop, hl])]
    rfl
  · change done (cflProgram s) = _
    rw [cflProgram, cflStart_fails (r := 0x090B) (by simp [firstReason, Flash.busy, hop, hl, hf])]
    rfl
  · change done (cflProgram s) = _
    rw [cflProgram, cflStart_fails (r := 0x0908) (by simp [firstReason, Flash.busy, hop, hl])]
    rfl
  · change done (cflErase s) = _
    rw [cflErase, cflStart_fails (r := 0x0908) (by simp [firstReason, Flash.busy, hop, hl])]
    rfl
  · change done (cflProgram s) = _
    rw [cflProgram, cflStart_fails (r := 0x090B) (by simp [firstReason, Flash.busy, hop])]
    rfl
  · change done (cflErase s) = _
    rw [cflErase, cflStart_fails (r := 0x090B) (by simp [firstReason, Flash.busy, hop])]
    rfl
  · have hclean : ∀ f ∈ (List.range nFrames).filter (scrubChecks s),
        (kget {} s.vel.frames f).crc = frameCrcW f (kget {} s.vel.frames f).data := by
      intro f hm
      obtain ⟨hlt, hc⟩ := List.mem_filter.mp hm
      exact (hok f (List.mem_range.mp hlt)).resolve_left (by simp [hc])
    obtain ⟨m, hm⟩ := foldl_scrubFrame_clean hclean s.vel.lastFrame
    have hm : ((List.range nFrames).filter (scrubChecks s)).foldl scrubFrame s = { s with vel := { s.vel with lastFrame := m } } := hm
    refine ⟨{ s with vel := { s.vel with lastFrame := m, passes := s.vel.passes + 1 } }, ?_, rfl, rfl, rfl, rfl, rfl⟩
    change done (scrubPass s) = _
    rw [scrubPass, if_pos (by simp [he, hf, hl, hd]), hm]
    rfl
  · change done (if _ then _ else _) = _
    rw [if_pos (by simpa using h)]
    rfl

end Sys2Proof.Machine
end

section
/-!
Loading a configuration (O38).
-/
namespace Sys2Proof.Machine

/-- R487: the scan of the flashes keeps the fields that choose the boot load. -/
theorem flashScan_boot (s : State) : (flashScan s).vel.recovery = s.vel.recovery ∧ (flashScan s).vel.bootsrc = s.vel.bootsrc ∧
    (flashScan s).vel.prim = s.vel.prim ∧ (flashScan s).vel.golden = s.vel.golden := by
  simp only [flashScan]
  split
  · simp only [logErr, setErr, noteCfg]
    split <;> exact ⟨rfl, rfl, rfl, rfl⟩
  · exact ⟨rfl, rfl, rfl, rfl⟩

/-- R475: no word waits for the port. -/
theorem irpDrain_empty (n : Nat) {s : State} (h : s.vel.irpWords = []) : irpDrain n s = s := by
  cases n with
  | zero => rfl
  | succ n => simp only [irpDrain, h]

/-- R461: what a load that passed leaves at its end. -/
theorem loadDone_passed {s : State} (h : s.vel.passed = true) :
    (loadDone s).vel.irpWords = s.vel.irpWords ∧ (loadDone s).vel.loaded = true ∧ (loadDone s).vel.busy = false ∧
      (loadDone s).vel.cfgDone = true ∧ (loadDone s).vel.bram = bramInit s.vel.frames ∧ (loadDone s).vel.frames = s.vel.frames ∧
      (loadDone s).vel.gcfg = some (Config.decodeGlobal (cfgFrames s.vel.frames)) ∧ loadDone s = { s with vel := (loadDone s).vel } := by
  simp only [loadDone, h, if_true, and_self]

theorem exec_bootLoad {st : List Byte} {s : State} (hb : s.vel.bootDue = true) (hd : s.domRun 18 = true) :
    exec (.bootLoad st) s = .next (bootLoad st s) := by
  change done (if _ then _ else _) = _
  rw [if_pos (by simp [hb, hd]), done]

theorem exec_velCfgLoad {st : List Byte} {s : State} (hq : s.vel.qspiDue = false) :
    exec (.velCfgLoad st) s = .next (cfgLoad st s) := by
  change done (if _ then _ else _) = _
  rw [if_neg (by simp [hq]), done]

/-- R465: a rising edge of CFG_CLK takes its bit and drives CFG_DOUT. -/
theorem exec_cfgClkRisingEdge {d o : Bool} {s : State} (ho : o = if s.vel.chain && s.vel.forward then d else true) :
    exec (.cfgClkRisingEdge d) s = .next { dinBit d s with vel := { (dinBit d s).vel with cfgDout := o } } := by
  have hout : (!(s.vel.chain && s.vel.forward) || d) = o := by
    rw [ho]
    cases s.vel.chain && s.vel.forward <;> rfl
  subst hout
  rfl

/-- Settles O38: each load by its source and its first check that fails; a bit by where it falls in the image. -/
theorem configurationLoad : Obligations.ConfigurationLoad := by
  unfold Obligations.ConfigurationLoad
  intro s
  refine ⟨fun st hb hd hr hsrc => ?_, fun st hb hd hr => ?_, fun hp => ?_, fun hp => ?_, fun k f hb hd hf => ?_, fun h => ?_,
    fun d o ho => ⟨fun ht => ?_, fun sh ht hd hsh hne => ?_, fun ht hd hl => ?_, fun t ht hd hl hT => ?_⟩, fun st hq => ?_,
    fun st hq hr hs hb => ?_,
    fun st hq hr hs hb => ⟨fun hsrc => ?_, fun hsrc ha => ?_, fun hsrc ha => ?_, fun hsrc ho => ?_, fun hsrc => ?_⟩,
    fun st hq h => ?_, fun v hs hl => ?_, fun v hs hl => ?_, fun v ws hs => ?_, fun f hf => ?_⟩
  · obtain ⟨hrec, hboot, hprim, -⟩ := flashScan_boot { s with vel := { s.vel with bootDue := false } }
    rw [exec_bootLoad hb hd, bootLoad, hrec, hboot, hprim, if_neg (by simp [hr]), if_pos hsrc]
  · obtain ⟨hrec, -, -, hgold⟩ := flashScan_boot { s with vel := { s.vel with bootDue := false } }
    rw [exec_bootLoad hb hd, bootLoad, hrec, hgold, if_pos hr]
  · obtain ⟨hwords, hends⟩ := loadDone_passed hp
    refine ⟨loadDone s, ?_, fun hw => irpDrain_empty 66 (hwords.trans hw), hends⟩
    change done (if _ then _ else _) = _
    rw [if_pos hp, done]
  · change done (if _ then _ else _) = _
    rw [if_neg (by simp [hp]), done]
  · change done (dinGap s) = _
    rw [dinGap, if_pos (by simp [hb, hd]), hf, done]
    rfl
  · change done (dinGap s) = _
    rw [dinGap, if_neg (by rcases h with h | h <;> simp [h]), done]
  · rw [exec_cfgClkRisingEdge ho, dinBit, if_neg (by simp [ht])]
  · rw [exec_cfgClkRisingEdge ho, dinBit, if_pos ht, if_pos (by simp [hd])]
    subst hsh
    simp only [if_neg hne]
  · rw [exec_cfgClkRisingEdge ho, dinBit, if_pos ht, if_neg (by simp [hd])]
    simp only [List.length_cons, if_neg (show ¬ s.vel.dinBits.length + 1 = 8 by omega)]
  · subst hT
    rw [exec_cfgClkRisingEdge ho, dinBit, if_pos ht, if_neg (by simp [hd])]
    simp only [List.length_cons, hl, if_true]
  · change done (if _ then _ else _) = _
    rw [if_pos hq, done]
  · rw [exec_velCfgLoad hq, cfgLoad, checked_fails (r := 0x090B) (by simp [firstReason, hr, hs, hb])]
    rfl
  · rw [exec_velCfgLoad hq, cfgLoad, checked_passes (by simp [hr, hs, hb, loadUndef, hsrc]), if_pos hsrc]
  · rw [exec_velCfgLoad hq, cfgLoad, checked_passes (by simp [hr, hs, hb, loadUndef, hsrc, ha]), if_neg (by simp [hsrc]), if_pos hsrc]
  · have ha : (fld s.vel.qspiAddr 0 12 != (0 : BitVec 12)) = true := bne_iff_ne.mpr ha
    rw [exec_velCfgLoad hq, cfgLoad, checked_fails (r := 0x0906) (by simp only [firstReason, hr, hs, hb, loadUndef, hsrc, ha]; rfl)]
    rfl
  · rw [exec_velCfgLoad hq, cfgLoad, checked_passes (by simp [hr, hs, hb, loadUndef, hsrc]), if_neg (by simp [hsrc]),
      if_neg (by simp [hsrc])]
    exact congrArg _ (if_pos ho)
  · rw [exec_velCfgLoad hq, cfgLoad, checked_fails (r := 0x0906) (by simp [firstReason, hr, hs, hb, loadUndef, hsrc])]
    rfl
  · rw [exec_velCfgLoad hq, cfgLoad, checked_fails (r := 0x090A) (by
      have : (s.vel.release || decide (s.vel.stage ≠ 0)) = true := by simpa using h
      simp only [firstReason, this, if_true])]
    rfl
  · change done (cfgData v s) = _
    simp only [cfgData, hs, hl, if_true, done]
  · change done (cfgData v s) = _
    simp only [cfgData, hs, if_neg (Nat.not_lt.mpr hl), done]
  · change done (cfgData v s) = _
    simp only [cfgData, hs, done]
  · change done (readback f s) = _
    simp only [readback, frameBits, if_neg (show ¬(3264 ≤ f.toNat ∧ f.toNat < 3552) by omega), done]

end Sys2Proof.Machine
end

section
/-!
The Vellum fabric: release (O35), user flash and serial ports (O36), probes and bus ports (O37).
-/
namespace Sys2Proof.Machine

/-- Settles O35: the release by its checks, the sequencer by its stage and direction. -/
theorem vellumRelease : Obligations.VellumRelease := by
  unfold Obligations.VellumRelease
  intro s
  refine ⟨fun r hrel hr => ?_, fun hrel hr => ?_, fun hrel hst => ?_, fun hrel hst => ?_, fun hrel hrev h3 h2 => ?_,
    fun hrel hrev hst => ?_, fun hrel hrev hst => ?_, fun hrel hrev hst => ?_, fun hrel hrev hst => ?_, fun p tap hp => ?_, ?_⟩
  · change done (velReleaseSet s) = _
    rw [velReleaseSet, if_neg (by simp [hrel]), checked_fails hr]
    rfl
  · change done (velReleaseSet s) = _
    rw [velReleaseSet, if_neg (by simp [hrel]), checked_passes hr]
    rfl
  · change done (velReleaseClear s) = _
    rw [velReleaseClear, if_pos hrel, if_pos hst]
    rfl
  · change done (velReleaseClear s) = _
    rw [velReleaseClear, if_pos hrel, if_neg hst]
    rfl
  · have hne : s.vel.stage + 1 ≠ 3 := by bv_omega
    change done (fabRun (releaseStage s)) = _
    simp only [releaseStage, hrel, hrev, h3, hne, Bool.not_true, Bool.false_eq_true, if_false]
    rfl
  · change done (fabRun (releaseStage s)) = _
    simp only [releaseStage, hrel, hrev, hst, Bool.not_true, Bool.false_eq_true, if_false]
    rfl
  · change done (fabRun (releaseStage s)) = _
    simp only [releaseStage, hrel, hrev, hst, Bool.not_true, Bool.false_eq_true, if_false, if_true]
    rfl
  · change done (fabRun (releaseStage s)) = _
    simp only [releaseStage, hrel, hrev, hst, Bool.not_true, Bool.false_eq_true, if_false, if_true]
    rfl
  · change done (fabRun (releaseStage s)) = _
    simp only [releaseStage, hrel, hrev, hst, Bool.not_true, Bool.false_eq_true, if_false, if_true]
    rfl
  · change done (if p.toNat < 192 then _ else s) = _
    rw [if_pos hp]
    rfl
  · rintro p x y rfl rfl
    change done (tapStep p.toNat s) = _
    simp only [tapStep, BitVec.ult, decide_eq_true_eq]
    rfl

/-- R485: an operation of the user flash by the path that owns it starts while the flash is free and does not refuse it. -/
theorem uflStart_starts {fab : Bool} {op : FlashOp} {s : State} (hm : uflMine fab s = true)
    (hst : fab = true → 2 ≤ s.vel.stage.toNat) (hop : s.vel.ufl.op = none) :
    uflStart fab op false s = { s with vel := { s.vel with ufl := { s.vel.ufl with op := some op } } } := by
  rw [uflStart, if_neg (by simp [hm]), if_neg (fun h => absurd (hst h.1) (by omega)), if_neg (by simp [Flash.busy, hop])]

/-- R485: an operation that the flash refuses sets ERR and latches 0x090B. -/
theorem uflStart_refused {fab : Bool} {op : FlashOp} {s : State} (hm : uflMine fab s = true)
    (hst : fab = true → 2 ≤ s.vel.stage.toNat) :
    uflStart fab op true s = { s with vel := { s.vel with ufl := { s.vel.ufl with err := true }, reason := 0x090B } } := by
  rw [uflStart, if_neg (by simp [hm]), if_neg (fun h => absurd (hst h.1) (by omega)), if_pos (by simp)]
  rfl

/-- GLB_OWN.UFL_OWN: the path that does not own the user flash is refused with 0x0110. -/
theorem uflStart_notMine {fab r : Bool} {op : FlashOp} {s : State} (hm : uflMine fab s = false) :
    uflStart fab op r s = { s with vel := { s.vel with reason := 0x0110 } } := by
  rw [uflStart, if_pos (by simp [hm])]
  rfl

/-- Settles O36: the user flash by its owner and its operation, the serial ports by their owner and their buffers. -/
theorem userFlashAndSerial : Obligations.UserFlashAndSerial := by
  unfold Obligations.UserFlashAndSerial
  intro s
  refine ⟨fun wa hop => ?_, fun wa o hop => ?_, fun fab wa hm hst hop => ⟨fun hr => ?_, fun hr => ?_, ?_⟩,
    fun fab wa hm => ⟨?_, ?_⟩, fun ag hop => ?_, ?_⟩
  · change done (if s.vel.ufl.busy then _ else _) = _
    rw [if_neg (by simp [Flash.busy, hop])]
    rfl
  · change done (if s.vel.ufl.busy then _ else _) = _
    rw [if_pos (by simp [Flash.busy, hop])]
    rfl
  · change done (uflProgram fab wa s) = _
    rw [uflProgram, hr, uflStart_starts hm hst hop]
    rfl
  · change done (uflProgram fab wa s) = _
    rw [uflProgram, hr, uflStart_refused hm hst]
    rfl
  · change done (uflErase fab wa s) = _
    rw [uflErase, uflStart_starts hm hst hop]
    rfl
  · change done (uflProgram fab wa s) = _
    rw [uflProgram, uflStart_notMine hm]
    rfl
  · change done (uflErase fab wa s) = _
    rw [uflErase, uflStart_notMine hm]
    rfl
  · change done (ans ag .ok ((velUflData s).1.setWidth 512) (velUflData s).2) = _
    rw [velUflData, if_neg (by simp [Flash.busy, hop])]
    rfl
  · rintro n p hn rfl
    refine ⟨fun hreg hpins hund => ?_, fun hreg hpins => ?_, fun hreg => ?_, fun v hreg htx => ?_, fun v hno => ?_,
      fun ag w ws hreg hrx => ?_, fun v hl hrx => ?_, fun v hl hrx => ?_, fun w ws ack hl htx => ?_⟩
    · change done (if n.toNat < 6 then sportEnable n.toNat true s else s) = _
      rw [if_pos hn, sportEnable, if_neg (by simp [hreg]), if_pos rfl,
        checked_passes ((firstReason_none _).mpr (by simp [hpins, hund]))]
      rfl
    · change done (if n.toNat < 6 then sportEnable n.toNat true s else s) = _
      rw [if_pos hn, sportEnable, if_neg (by simp [hreg]), if_pos rfl, checked_fails (r := 0x0110) (by simp [firstReason, hpins])]
      rfl
    · change done (if n.toNat < 6 then sportEnable n.toNat false s else s) = _
      rw [if_pos hn, sportEnable, if_neg (by simp [hreg]), if_neg (by simp)]
      rfl
    · change done (if n.toNat < 6 then sportTx n.toNat v s else s) = _
      rw [if_pos hn, sportTx, if_pos ⟨hreg, htx⟩]
      rfl
    · change done (if n.toNat < 6 then sportTx n.toNat v s else s) = _
      rw [if_pos hn, sportTx, if_neg (fun h => hno.elim (fun hf => by simp [hf] at h) (fun hl => absurd h.2 (by omega)))]
      rfl
    · change done (ans ag .ok ((sportRx n.toNat s).1.setWidth 512) (sportRx n.toNat s).2) = _
      simp only [sportRx, hreg, hrx, if_true]
      rfl
    · change done (if n.toNat < 6 ∧ _ then _ else s) = _
      rw [if_pos ⟨hn, hl⟩, if_pos hrx]
      rfl
    · change done (if n.toNat < 6 ∧ _ then _ else s) = _
      rw [if_pos ⟨hn, hl⟩, if_neg (by omega)]
      rfl
    · simp only [exec, execSerialTxWord, hn, hl, htx, and_self, if_true]
      rfl

/-- The words of the slave window lie in the VEL block. -/
theorem slaveWindow_access {ag : Agent} {a : Dpa} {wr : Bool} {v : W32} {s : State} (hlo : 0x030000C80000 ≤ a.toNat)
    (hhi : a.toNat < 0x030000D00000) (hal : a.toNat % 4 = 0) :
    exec (.slaveWindowAccess ag a wr v) s = done (slaveAccess ag (a.toNat % 0x100000) wr v s) := by
  change done (if 0x030000C80000 ≤ a.toNat ∧ _ ∧ _ then _ else s) = _
  rw [if_pos ⟨hlo, hhi, hal⟩]

/-- Settles O37: probes by their checks, the two bus ports by the access they hold. -/
theorem fabricPorts : Obligations.FabricPorts := by
  unfold Obligations.FabricPorts
  intro s t
  refine ⟨?_, fun ag a wr v hlo hhi hal hen hst => ?_, fun ag a wr v hlo hhi hal hoff => ?_, ?_, ?_, fun m r hm hr => ?_, fun r ws => rfl⟩
  · intro n w hw
    refine ⟨fun hen hspare hpins hgim => ?_, fun hen hspare => ?_, by rw [hw]; rfl⟩
    · change done (probeEn n.toNat true s) = _
      simp only [probeEn, ← hw]
      rw [if_pos trivial, if_neg (ne_true_of_eq_false hen),
        checked_passes ((firstReason_none _).mpr (by simpa [hspare, hgim] using hpins))]
      rfl
    · change done (probeEn n.toNat true s) = _
      simp only [probeEn, ← hw]
      rw [if_pos trivial, if_neg (ne_true_of_eq_false hen),
        checked_fails (r := 0x0110) (by simp [firstReason, hspare])]
      rfl
  · rw [slaveWindow_access hlo hhi hal, slaveAccess, if_neg (by simp [hen, hst])]
    rfl
  · rw [slaveWindow_access hlo hhi hal, slaveAccess, if_pos (by simpa using hoff)]
    rfl
  · rintro x xs hx rfl
    refine ⟨fun d => ?_, fun d => ?_, ?_⟩
    · simp only [exec, execSlvAck, hx, Bool.false_eq_true, if_false]
      rfl
    · simp only [exec, execSlvAck, hx, if_true]
      rfl
    · simp only [exec, execSlvAckTimeout, hx]
      rfl
  · intro op a d r hen hst hm hdown hres hacc
    change done (if _ then s else if s.sep.down || s.sep.resetting then _ else settle agVel s _) = _
    rw [if_neg (by simp [hen, hst, hm]), if_neg (by simp [hdown, hres]), hacc]
    rfl
  · simp only [exec, execMstAck, hm, hr]
    rfl

end Sys2Proof.Machine
end

section
/-!
The Sepia domain's control: interrupt controller, domain reset, SEP_RUN and the boot flash (O34).
-/
namespace Sys2Proof.Machine

/-- A core that halts changes its own record, the debug unit and the crossings. -/
theorem haltCore_leaves (c : Nat) (cause : BitVec 3) (s : State) :
    ∃ k d l, haltCore c cause s = { s with sep := { s.sep with core := k }, dbg := d, latch := l } := by
  unfold haltCore xtFire
  dsimp only
  split
  · exact ⟨_, _, _, rfl⟩
  · split
    · split
      · exact ⟨_, _, _, rfl⟩
      · obtain ⟨d, hd⟩ := sendXt_state (fld (s.dcoreAt c).ctl 16 8) 0 (agCore c) ((s.setDcore c
          { s.dcoreAt c with halted := true, cause := cause }).setCore c
          { s.coreAt c with resv := none, defer := false, stepping := false, wfi := false })
        rw [hd]
        exact ⟨_, _, _, rfl⟩
    · exact ⟨_, _, _, rfl⟩

/-- A core that leaves reset changes its own record, the debug unit and the crossings. -/
theorem coreLeavesReset_leaves (c : Nat) (s : State) :
    ∃ k d l, coreLeavesReset c s = { s with sep := { s.sep with core := k }, dbg := d, latch := l } := by
  unfold coreLeavesReset
  dsimp only
  split
  · obtain ⟨k, d, l, h⟩ := haltCore_leaves c 5 ((s.setCore c {}).setDcore c
      { (s.setCore c {}).dcoreAt c with halted := false, inMon := false })
    rw [h]
    exact ⟨k, d, l, rfl⟩
  · exact ⟨_, _, _, rfl⟩

/-- R402: the end of a domain reset clears the domain, and core 0 leaves reset. -/
theorem sepResetEnd_starts (s : State) : ∃ u, sepResetEnd s = coreLeavesReset 0 u ∧ u.sep.resetting = false ∧ u.sep.down = false ∧
    u.sep.run = 1 ∧ u.sep.sram = [] ∧ u.sep.filt = [] ∧ u.hbm = s.hbm ∧ u.vel = s.vel :=
  ⟨_, rfl, rfl, rfl, rfl, rfl, rfl, rfl, rfl⟩

/-- R405: a command of the boot flash is refused while the domain is down or the flash runs another. -/
theorem bfl_refused {s : State} {r : W16}
    (h : firstReason [(s.sep.down || s.sep.resetting, 0x0D01), (s.sep.bfl.busy, 0x0D03)] = some r) :
    exec .bflProgram s = .next { s with sep := { s.sep with reason := r } } ∧
      exec .bflErase s = .next { s with sep := { s.sep with reason := r } } := by
  constructor
  · change done (bflProgram s) = _
    rw [bflProgram, checked_fails h]
    rfl
  · change done (bflErase s) = _
    rw [bflErase, checked_fails h]
    rfl

/-- Settles O34: each command of the controller, the domain and the flash by the first check that fails. -/
theorem sepiaControl : Obligations.SepiaControl := by
  unfold Obligations.SepiaControl
  intro s
  refine ⟨fun n hact hpend hcl => ?_, fun ag c n hb => ?_, fun ag c hb => ?_, fun c v => rfl, fun hup => ?_, fun hdn => ?_,
    fun hres => ?_, fun v hv => ?_, fun v hv hdown => ?_, fun v hv hdown hres hup hown => ?_, fun v hv hdown hres hup hown => ?_,
    fun hdown hres hop => ?_, fun hoff => ?_, fun o hdown hres hop => ?_, rfl, rfl, rfl⟩
  · change done (if _ then srcPend n.toNat s else s) = _
    rw [if_pos ⟨hact, by simp [hpend], by simp [hcl]⟩]
    rfl
  · change done (ans ag .ok ((sepClaim c.toNat s).1.setWidth 512) (sepClaim c.toNat s).2) = _
    simp only [sepClaim, hb]
    rfl
  · change done (ans ag .ok ((sepClaim c.toNat s).1.setWidth 512) (sepClaim c.toNat s).2) = _
    have h0 : (0 : W32).setWidth 512 = 0 := by simp
    simp only [sepClaim, hb, h0]
    rfl
  · change done (sepDomrst s) = _
    rw [sepDomrst, checked_passes ((firstReason_none _).mpr (by simp [hup]))]
    rfl
  · change done (sepDomrst s) = _
    rw [sepDomrst, checked_fails (r := 0x0D02) (by simp [firstReason, hdn])]
    rfl
  · obtain ⟨u, hu, hvals⟩ := sepResetEnd_starts s
    obtain ⟨k, d, l, h⟩ := coreLeavesReset_leaves 0 u
    refine ⟨coreLeavesReset 0 u, ?_, ?_⟩
    · change done (if s.sep.resetting = true then sepResetEnd s else s) = _
      rw [if_pos hres, hu]
      rfl
    · rw [h]
      exact hvals
  · change done (sepRun v s) = _
    rw [sepRun, if_pos hv]
    rfl
  · change done (sepRun v s) = _
    rw [sepRun, if_neg hv]
    simp only [firstReason, hdown, Bool.true_or, if_true]
    rfl
  · have hc : firstReason [(s.sep.down || s.sep.resetting, 0x0D01), (!s.domRun 17, 0x0D02)] = none :=
      (firstReason_none _).mpr (by simp [hdown, hres, hup])
    have hany : (List.range 8).any (fun c => bit v c && !bit s.sep.run c && 64 < (kget 0 s.sep.owner c).toNat) = true := by
      obtain ⟨c, hc8, hv, hr, ho⟩ := hown
      exact List.any_eq_true.mpr ⟨c, List.mem_range.mpr hc8, by simp only [hv, hr, Bool.not_false, decide_eq_true ho, Bool.and_self]⟩
    change done (sepRun v s) = _
    simp only [sepRun, if_neg hv, hc]
    rw [if_pos hany]
    rfl
  · have hc : firstReason [(s.sep.down || s.sep.resetting, 0x0D01), (!s.domRun 17, 0x0D02)] = none :=
      (firstReason_none _).mpr (by simp [hdown, hres, hup])
    have hany : ¬ (List.range 8).any (fun c => bit v c && !bit s.sep.run c && 64 < (kget 0 s.sep.owner c).toNat) = true := by
      simpa using hown
    change done (sepRun v s) = _
    simp only [sepRun, if_neg hv, hc]
    rw [if_neg hany]
    rfl
  · have hc : firstReason [(s.sep.down || s.sep.resetting, 0x0D01), (s.sep.bfl.busy, 0x0D03)] = none :=
      (firstReason_none _).mpr (by simp [hdown, hres, Flash.busy, hop])
    refine ⟨fun d t href hpg => ?_, fun t href hpg => ?_, fun href => ?_, ?_⟩
    · change done (bflProgram s) = _
      rw [bflProgram, checked_passes hc, href, if_neg Bool.false_ne_true, hpg]
      rfl
    · change done (bflProgram s) = _
      rw [bflProgram, checked_passes hc, href, if_neg Bool.false_ne_true, hpg]
      rfl
    · change done (bflProgram s) = _
      rw [bflProgram, checked_passes hc, href, if_pos rfl]
      rfl
    · change done (bflErase s) = _
      rw [bflErase, checked_passes hc]
      rfl
  · exact bfl_refused (by simp [firstReason, hoff])
  · exact bfl_refused (by simp [firstReason, hdown, hres, Flash.busy, hop])

end Sys2Proof.Machine
end

section
/-!
The inkwells: enables, page-cache tags and granule owners (O24); BAR4, refresh and patrol (O25).
-/
namespace Sys2Proof.Machine

/-- R264: a granule of free or disabled old owner takes a new one. -/
theorem pageOwnerWrite_takes {g : Nat} {v : W32} {s : State} (hnew : (fld v 0 7).toNat ≤ 64 ∨ fld v 0 7 = (0x7F : Owner))
    (hold : fld v 0 7 = (0x7F : Owner) ∨ s.granuleNext g = 0x7F ∨ (s.ownAt (s.granuleNext g).toNat).enable = false) :
    pageOwnerWrite g v s = { s with ink := { s.ink with ownPend := kput s.ink.ownPend g (fld v 0 7) } } := by
  have hval : ¬ (64 < (fld v 0 7 : Owner).toNat ∧ (fld v 0 7 : Owner) ≠ 0x7F) :=
    fun h => hnew.elim (fun hle => absurd h.1 (by omega)) (fun he => h.2 he)
  have hfree : ¬ (!((fld v 0 7 : Owner) = 0x7F || s.granuleNext g = 0x7F || !(s.ownAt (s.granuleNext g).toNat).enable)) = true := by
    rcases hold with h | h | h <;> simp [h]
  rw [pageOwnerWrite, if_neg (fun h => h.elim hval hfree)]

/-- Settles O24: the enables by their checks, the tag by the oldest fetch that wants one, the granule by its old owner. -/
theorem inkwellControl : Obligations.InkwellControl := by
  unfold Obligations.InkwellControl
  intro s
  refine ⟨fun hen hc => ?_, fun r hen hc => ?_, rfl, ?_, fun o ho => ?_, ?_, ?_, fun g v hg hnew => ⟨fun hold => ?_, fun hv hn hen => ?_⟩⟩
  · change done (inkEnable true s) = _
    rw [inkEnable, if_pos rfl, if_neg (by simp [hen]), checked_passes hc]
    rfl
  · change done (inkEnable true s) = _
    rw [inkEnable, if_pos rfl, if_neg (by simp [hen]), checked_fails hc]
    rfl
  · rintro o h ho rfl hen hown h0 hmax hbase htags hgb hgt
    have hmax' : ¬ 0x1000000 < (s.hcAt o.toNat).frames.toNat := Nat.not_lt.mpr hmax
    change done (if o.toNat ≤ 64 then hcEnable o true s else s) = _
    rw [if_pos ho, hcEnable, if_pos (by simp [hen]),
      checked_passes ((firstReason_none _).mpr (by simp [hown, h0, hmax', hbase, htags, hgb, hgt]))]
    rfl
  · change done (if o.toNat ≤ 64 then hcEnable o false s else s) = _
    rw [if_pos ho, hcEnable, if_neg (by simp), if_pos (by simp)]
    rfl
  · rintro o a n hinit hup rfl rfl
    simp only [exec, execHcInitDone, hinit, hup, and_self, if_true, done]
  · rintro k u fs hwait hused rfl hfs
    change done (tagGrant k.toNat s) = _
    rw [tagGrant, if_pos ⟨hwait, by unfold tagsFree; omega⟩]
    dsimp only [State.setWell]
    rw [hfs]
    rfl
  · change done (if g.toNat < 49152 then pageOwnerWrite g.toNat v s else s) = _
    rw [if_pos hg, pageOwnerWrite_takes hnew hold]
    rfl
  · change done (if g.toNat < 49152 then pageOwnerWrite g.toNat v s else s) = _
    rw [if_pos hg, pageOwnerWrite, if_pos (Or.inr (by
      simp only [hv, hn, hen, decide_false, Bool.not_true, Bool.or_self, Bool.not_false]))]
    rfl

/-- R270: counting what a read finds takes no tick. -/
theorem eccCount_now (es : List (Nat × Ecc)) (s : State) : (eccCount es s).now = s.now := by
  obtain ⟨c, u, h⟩ := eccCount_state es s
  rw [h]

/-- R273: counting what a read finds leaves the patrol's wait. -/
theorem eccCount_patWait (es : List (Nat × Ecc)) (s : State) : (eccCount es s).ink.patWait = s.ink.patWait := by
  obtain ⟨c, u, h⟩ := eccCount_state es s
  rw [h]

/-- R273: a record in the inkwells' log leaves the patrol's wait. -/
theorem logErr_ink_patWait (c : W16) (ag : Agent) (a : BitVec 48) (s : State) :
    (logErr .ink c ag a s).ink.patWait = s.ink.patWait := by
  simp only [logErr, setErr, noteCfg]
  split <;> rfl

/-- Settles O25: BAR4 by its checks in order, refresh and patrol as the model runs them. -/
theorem hbmAccess : Obligations.HbmAccess := by
  unfold Obligations.HbmAccess
  intro s s' off len a d wr
  refine ⟨?_, fun stk hk htr hdom => ?_, ?_⟩
  · rintro hdom hlen rfl hline
    have hreach : ¬ (!s.domRun 40 ∨ len = 0 ∨ 64 < bar4Dpa off.toNat s % 64 + len) := by simp [hdom, hlen, hline]
    refine ⟨fun hd3 => ?_, fun hd3 htop => ?_, fun hd3 htop hen => ?_, fun hd3 htop hup htag => ?_⟩
    · change done (if _ then _ else _) = _
      rw [if_neg hreach, if_pos hd3]
      rfl
    · change done (if _ then _ else _) = _
      rw [if_neg hreach, if_neg (ne_true_of_eq_false hd3), if_pos htop]
      rfl
    · change done (if _ then _ else _) = _
      rw [if_neg hreach, if_neg (ne_true_of_eq_false hd3), if_neg (Nat.not_le.mpr htop), if_pos (by simp [hen])]
      rfl
    · have hen : s.ink.enable = true := by
        simp only [hbmUp, Bool.and_eq_true] at hup
        exact hup.1.1
      have hopen : ∀ wr, exec (.bar4Access off wr len d) s = done (if 64 < s.ink.bar4Owner.toNat then
            errRsp agHost (logErr .ink 0x0580 agHost (BitVec.ofNat 48 (bar4Dpa off.toNat s)) s)
          else if wr then
            match hbmWrite (inkAt (bar4Dpa off.toNat s)) s.ink.bar4Owner agHost (bar4Dpa off.toNat s) (wordBytes len d) s with
            | (none, s) => ans agHost .ok 0 s
            | (some _, s) => errRsp agHost s
          else
            match hbmRead s.ink.bar4Owner agHost (bar4Dpa off.toNat s) len s with
            | (.ok bs, s) => ans agHost .ok (leWord 512 bs) s
            | (.error _, s) => errRsp agHost s) := fun wr => by
        change done (if _ then _ else _) = _
        rw [if_neg hreach, if_neg (ne_true_of_eq_false hd3), if_neg (Nat.not_le.mpr htop), if_neg (by simp [hen]),
          if_neg (by simp [hup]), if_neg (by unfold tagsFree; omega)] <;> rfl
      refine ⟨fun ho => by rw [hopen, if_pos ho]; rfl, fun ho => ⟨fun bs h => ?_, fun e h => ?_, fun h => ?_, fun e h => ?_⟩⟩
      · rw [hopen, if_neg (Nat.not_lt.mpr ho), if_neg Bool.false_ne_true, h]
        rfl
      · rw [hopen, if_neg (Nat.not_lt.mpr ho), if_neg Bool.false_ne_true, h]
        rfl
      · rw [hopen, if_neg (Nat.not_lt.mpr ho), if_pos rfl, h]
        rfl
      · rw [hopen, if_neg (Nat.not_lt.mpr ho), if_pos rfl, h]
        rfl
  · change done (if _ then _ else s) = _
    rw [if_pos ⟨hk, htr, hdom⟩]
    rfl
  · rintro stk es u hk hen htr hdom hat hslot rfl rfl hu
    have hdue : patrolDue stk.toNat s = true := by
      cases hp : kfind s.hbm.patrolAt stk.toNat with
      | none => simp only [patrolDue, hk, hen, htr, hdom, hp, decide_true, Bool.and_self]
      | some t => simp only [patrolDue, hk, hen, htr, hdom, hp, hat t hp, decide_true, Bool.and_self]
    have hfree : patrolSlot stk.toNat s = true := by simpa [-BitVec.ofNat_eq_ofNat, patrolSlot] using hslot
    change done (if (patrolDue stk.toNat s && patrolSlot stk.toNat s) = true then patrolRead stk.toNat s else s) = _
    rw [if_pos (by rw [hdue, hfree]; rfl), patrolRead]
    dsimp only
    generalize List.find? _ _ = x at hu ⊢
    cases x with
    | none =>
      replace hu : u = eccCount (hbmChecks (stackDpa stk.toNat (64 * kget 0 s.hbm.patrol stk.toNat)) 64 s.hbm) s := hu
      simp only [hu, eccCount_hbm, eccCount_now, eccCount_patWait]
      rfl
    | some e =>
      replace hu : u = logErr .ink 0x0581 agSched (BitVec.ofNat 48 (8 * e.1))
        (eccCount (hbmChecks (stackDpa stk.toNat (64 * kget 0 s.hbm.patrol stk.toNat)) 64 s.hbm) s) := hu
      simp only [hu, eccCount_hbm, eccCount_now, logErr_hbm, logErr_now, logErr_ink_patWait,
        eccCount_patWait]
      rfl

end Sys2Proof.Machine
end

section
/-!
Register pairs (O13), the ring of a queue (O18), and the refutation of O14.
-/
namespace Sys2Proof.Machine

/-- An access that reaches its register passes the gate. -/
theorem regGate_reaches {ag : Agent} {a : Dpa} {b : RegBlk} {off : Nat} {s : State} (h : Reaches ag a b off s) :
    regGate ag a s = (some (b, off), s) := by
  obtain ⟨hhome, -, -, hpow, hdom, hen⟩ := h
  unfold regGate
  rw [hhome]
  dsimp only
  rw [if_neg (by simp [hpow, hdom])]
  cases b
  case qctl q => exact if_neg (by simp [hen q rfl])
  all_goals rfl

/-- An access that reaches its register is answered as its step's outcome says. -/
theorem regStep_reaches {ag : Agent} {a : Dpa} {b : RegBlk} {off : Nat} {s : State} (h : Reaches ag a b off s)
    (f : State → AccR × State) : regStep ag a f s = answer ag s (f s) := by
  rw [regStep, if_neg (not_not.mpr h.word), if_neg (by simp [h.open_])]

/-- R624: the INFO registers of the error logs. -/
theorem log_ge {b : RegBlk} {e : Blk} {i : Nat} (h : b.log = some (e, i)) : 0x18 ≤ i := by
  cases b <;> simp only [RegBlk.log, Option.some.injEq, Prod.mk.injEq, reduceCtorEq] at h <;> omega

/-- R9: an offset of a pair is its low or its high half, and the pair is an ERRLOG's address or a 64-bit register. -/
theorem pairOf_some {b : RegBlk} {off l : Nat} {kind : PairKind} (h : pairOf b off = some (l, kind)) :
    (off = l ∨ off = l + 4) ∧ ((∃ e, b.log = some (e, l + 8)) ∨ pairAt b l = some kind) := by
  have hgo : pairOf.go b off = some (l, kind) → (off = l ∨ off = l + 4) ∧ pairAt b l = some kind := by
    unfold pairOf.go
    split
    · next hk =>
      rintro ⟨⟩
      exact ⟨.inl rfl, hk⟩
    · split
      · simp only [Option.map_eq_some_iff, Prod.mk.injEq]
        rintro ⟨k, hk, rfl, rfl⟩
        exact ⟨.inr (by omega), hk⟩
      · exact nofun
  unfold pairOf at h
  split at h
  · next e i hlog =>
    split at h
    · next hlo =>
      cases h
      exact ⟨.inl rfl, .inl ⟨e, by rw [hlog, hlo]⟩⟩
    · split at h
      · next hhi =>
        obtain ⟨rfl, -⟩ := Prod.mk.inj (Option.some.inj h)
        have hi := log_ge hlog
        exact ⟨.inr (by omega), .inl ⟨e, by rw [hlog]; congr 2; omega⟩⟩
      · exact (hgo h).imp_right .inr
  · exact (hgo h).imp_right .inr

/-- The first offsets past the halves of a block's pairs, for the three blocks whose other registers a read treats apart:
the slave window (R445), the software random ports (R302) and a Quill's tables (R90) lie above. -/
theorem pairOf_below {b : RegBlk} {off : Nat} {x : Nat × PairKind} (h : pairOf b off = some x) :
    (b = .vel → off < 0x80000) ∧ (b = .mad → off < 0x300) ∧ (∀ q, b = .qctl q → off < 0x1000) := by
  obtain ⟨l, kind⟩ := x
  obtain ⟨hoff, hl⟩ := pairOf_some h
  refine ⟨?_, ?_, fun q => ?_⟩ <;> rintro rfl <;> simp only [RegBlk.log, pairAt, Option.some.injEq, Prod.mk.injEq] at hl
  · rcases hl with ⟨e, he⟩ | hl
    · omega
    · cases hl
  · rcases hl with ⟨e, he⟩ | hl
    · omega
    · split at hl
      · omega
      · cases hl
  · rcases hl with ⟨e, he⟩ | hl
    · omega
    · split at hl
      · omega
      · cases hl

/-- R9: a read of a half of a pair reads it through the latch. -/
theorem regRead_pair {ag : Agent} {a : Dpa} {b : RegBlk} {off : Nat} {x : Nat × PairKind} {s : State} (h : Reaches ag a b off s)
    (hp : pairOf b off = some x) (ho : writesOut ag s = false) :
    regRead ag a s = (.ok (blockRead ag b (a.toNat - off) off s).1, (blockRead ag b (a.toNat - off) off s).2) := by
  obtain ⟨hvel, hmad, hq⟩ := pairOf_below hp
  unfold regRead
  rw [regGate_reaches h]
  dsimp only
  rw [if_neg (by simp [ho]), if_neg (fun hc => absurd (hvel hc.1) (by omega)), if_neg (fun hc => absurd (hmad hc.1) (by omega))]
  cases b
  case qctl q =>
    have h := hq q rfl
    exact if_neg (by simp only [qctlBad]; rw [if_neg (by omega), if_neg (by omega), if_neg (by omega)]; simp)
  all_goals rfl

/-- R593: a write of a half of a pair that does not cross. -/
theorem regWrite_pair {ag : Agent} {a : Dpa} {b : RegBlk} {off : Nat} {x : Nat × PairKind} {s : State} (v : W32)
    (h : Reaches ag a b off s) (hp : pairOf b off = some x) (ho : writesOut ag s = false) (hc : writeCross ag b = none) :
    regWrite ag a v s = (.ok 0, blockWrite ag b (a.toNat - off) off v s) := by
  unfold regWrite
  rw [regGate_reaches h]
  dsimp only
  rw [hc]
  dsimp only
  rw [if_neg (by simp [ho]), if_neg (fun hv => absurd ((pairOf_below hp).1 hv.1) (by omega))]

/-- R36: a write that crosses to the scheduler is answered at once. -/
theorem regWrite_crosses {ag : Agent} {a : Dpa} {b : RegBlk} {off : Nat} {s : State} {c : XCls} (v : W32) (h : Reaches ag a b off s)
    (hc : writeCross ag b = some c) : regWrite ag a v s = (.ok 0, writeSend c ag a v (writeMetered b off s) s) := by
  unfold regWrite
  rw [regGate_reaches h]
  dsimp only
  rw [hc]

/-- The half of a pair that an offset is. -/
theorem isPairHalf_eq {ag : Agent} {a : Dpa} {b : RegBlk} {off l : Nat} {kind : PairKind} {s : State} (h : Reaches ag a b off s)
    (hp : pairOf b off = some (l, kind)) (hi : Bool) (p : PairKind → Bool) :
    isPairHalf a hi p = (p kind && (if hi then off == l + 4 else off == l)) := by
  unfold isPairHalf
  rw [h.home]
  dsimp only
  rw [hp]

/-- R9: a read of a half of a pair, whichever half it names. -/
theorem regStep_pairRead {ag : Agent} {a : Dpa} {b : RegBlk} {off : Nat} {x : Nat × PairKind} {s : State} (h : Reaches ag a b off s)
    (hp : pairOf b off = some x) (ho : writesOut ag s = false) : regStep ag a (regRead ag a) s =
      ans ag .ok ((blockRead ag b (a.toNat - off) off s).1.setWidth 512) (blockRead ag b (a.toNat - off) off s).2 := by
  rw [regStep_reaches h, regRead_pair h hp ho]
  rfl

/-- R593: a write of a half of a pair that does not cross, whichever half it names. -/
theorem regStep_pairWrite {ag : Agent} {a : Dpa} {b : RegBlk} {off : Nat} {x : Nat × PairKind} {s : State} (v : W32)
    (h : Reaches ag a b off s) (hp : pairOf b off = some x) (ho : writesOut ag s = false) (hc : writeCross ag b = none) :
    regStep ag a (regWrite ag a v) s = ans ag .ok 0 (blockWrite ag b (a.toNat - off) off v s) := by
  have h0 : (0 : W32).setWidth 512 = 0 := by simp
  rw [regStep_reaches h, regWrite_pair v h hp ho hc, answer, h0]

/-- R36: a write that crosses is answered at once. -/
theorem regStep_writeCrosses {ag : Agent} {a : Dpa} {b : RegBlk} {off : Nat} {s : State} {c : XCls} (v : W32)
    (h : Reaches ag a b off s) (hc : writeCross ag b = some c) :
    regStep ag a (regWrite ag a v) s = ans ag .ok 0 (writeSend c ag a v (writeMetered b off s) s) := by
  have h0 : (0 : W32).setWidth 512 = 0 := by simp
  rw [regStep_reaches h, regWrite_crosses v h hc, answer, h0]

/-- R9: what a write of half a pair does to the block. -/
theorem blockWrite_rw {ag : Agent} {b : RegBlk} {lo off l : Nat} {v : W32} {s : State} (hp : pairOf b off = some (l, .rw)) :
    blockWrite ag b lo off v s =
      if pairLocked b l s then s
      else if off = l then { s with wrLatch := kput s.wrLatch (latchKey ag (lo + l)) v }
      else regPut ag b off v (v ++ (kfind s.wrLatch (latchKey ag (lo + l))).getD (regVal ag b l s))
        { s with wrLatch := kdel s.wrLatch (latchKey ag (lo + l)) } := by
  rw [blockWrite, hp]

/-- Settles O13: the four commands name a half of their pair; the read and the write of a half go through its latch. -/
theorem registerPairs : Obligations.RegisterPairs := by
  unfold Obligations.RegisterPairs
  rintro ag a b off l k kind v w s h hp rfl
  have half : ∀ hi p, isPairHalf a hi p = (p kind && (if hi then off == l + 4 else off == l)) := isPairHalf_eq h hp
  refine ⟨fun ho => ⟨?_, fun hoff hlatch => ?_, fun hoff hlatch => ?_⟩,
    fun ho hc => ⟨fun hk hl => ⟨fun hoff => ?_, fun hoff => ?_⟩, fun hk hl => ⟨fun hoff => ?_, fun hoff => ?_⟩, fun hk => ?_⟩,
    fun c hc hk => ⟨fun hoff => ?_, fun hoff => ?_⟩⟩
  · rintro rfl
    change done (if isPairHalf a false (fun _ => true) then _ else s) = _
    rw [half, if_pos (by simp), regStep_pairRead h hp ho, blockRead, hp]
    simp only [if_true, done]
  · change done (if isPairHalf a true (fun _ => true) then _ else s) = _
    rw [half, if_pos (by simp [hoff]), regStep_pairRead h hp ho, blockRead, hp]
    dsimp only
    rw [if_neg (by omega), hlatch]
    rfl
  · change done (if isPairHalf a true (fun _ => true) then _ else s) = _
    rw [half, if_pos (by simp [hoff]), regStep_pairRead h hp ho, blockRead, hp]
    dsimp only
    rw [if_neg (by omega), hlatch]
    rfl
  · subst hk
    change done (if isPairHalf a false (fun k => k == .rw) then _ else s) = _
    rw [half, if_pos (by simp [hoff]), regStep_pairWrite v h hp ho hc, blockWrite_rw hp, if_pos hl]
    rfl
  · subst hk
    change done (if isPairHalf a true (fun k => k == .rw) then _ else s) = _
    rw [half, if_pos (by simp [hoff]), regStep_pairWrite v h hp ho hc, blockWrite_rw hp, if_pos hl]
    rfl
  · subst hk
    change done (if isPairHalf a false (fun k => k == .rw) then _ else s) = _
    rw [half, if_pos (by simp [hoff]), regStep_pairWrite v h hp ho hc, blockWrite_rw hp, if_neg (by simp [hl]), if_pos hoff]
    rfl
  · subst hk
    change done (if isPairHalf a true (fun k => k == .rw) then _ else s) = _
    rw [half, if_pos (by simp [hoff]), regStep_pairWrite v h hp ho hc, blockWrite_rw hp, if_neg (by simp [hl]), if_neg (by omega)]
    rfl
  · subst hk
    change done (regStep ag a (regWrite ag a v) s) = _
    rw [regStep_pairWrite v h hp ho hc, blockWrite, hp]
    rfl
  · subst hk
    change done (if isPairHalf a false (fun k => k == .rw) then _ else s) = _
    rw [half, if_pos (by simp [hoff]), regStep_writeCrosses v h hc]
    rfl
  · subst hk
    change done (if isPairHalf a true (fun k => k == .rw) then _ else s) = _
    rw [half, if_pos (by simp [hoff]), regStep_writeCrosses v h hc]
    rfl

/-- Quill 0 has two entries of key 0: the second shows once the first, all default but its log, has lost its code. -/
def hiddenLog : State :=
  { State.reset with pq := [(0, { errlog := { code := 1 } }), (0, { errlog := { code := 2 } })] }

/-- The host reaches the INFO register of Quill 0's log. -/
theorem hiddenLog_reaches : Reaches agHost 0x030002000048 (.qctl 0) 0x48 hiddenLog where
  home := by decide
  word := by decide
  open_ := by decide
  power := by decide
  domain := by decide
  enabled := by rintro q ⟨⟩; decide

/-- Refutes O14: the read of CODE is to leave code 0 whatever the map of the Quills; over a map with two entries of one key
the cleared entry, now of default value, is dropped and the other, with code 2, is read. -/
theorem not_registerAndStoreAccess : ¬ Obligations.RegisterAndStoreAccess := by
  unfold Obligations.RegisterAndStoreAccess
  rintro ⟨hread, -⟩
  obtain ⟨hlog, -⟩ := hread agHost 0x030002000048 (.qctl 0) 0x48 0 hiddenLog hiddenLog_reaches (by decide)
  obtain ⟨-, -, hcode, -⟩ := hlog (.quill 0) (by decide)
  have hleft : (getErr (.quill 0) (codeClear (.quill 0) hiddenLog)).code = 2 := by decide
  rw [hcode] at hleft
  exact absurd hleft (by decide)

/-- Settles O18: each command of the ring by the test it makes of its queue. -/
theorem queues : Obligations.Queues := by
  unfold Obligations.Queues
  rintro s s' o k q ho rfl
  refine ⟨fun v hen hv => ?_, fun v hen hv => ?_, fun v hen => ?_, fun hen hown hdr hbase hlo hhi => ?_, fun hen hbad => ?_, ?_,
    fun h bs hmay hup hrd => ?_, fun h hmay hup hrd => ?_, fun hmay hhost => ?_, rfl⟩
  · change done (if o.toNat ≤ 64 then doorbell o.toNat k.toNat v s else s) = _
    rw [if_pos ho, doorbell, if_neg (by simp [hen]), if_neg (Nat.not_le.mpr hv)]
    rfl
  · change done (if o.toNat ≤ 64 then doorbell o.toNat k.toNat v s else s) = _
    rw [if_pos ho, doorbell, if_neg (by simp [hen]), if_pos hv]
    rfl
  · change done (if o.toNat ≤ 64 then doorbell o.toNat k.toNat v s else s) = _
    rw [if_pos ho, doorbell, if_pos (by simp [hen])]
    rfl
  · change done (if o.toNat ≤ 64 then qEnable o.toNat k.toNat true s else s) = _
    rw [if_pos ho, qEnable, if_neg (by simp), if_neg (by simp [hen]),
      if_neg (by simp [hown, hdr, hbase, Nat.not_lt.mpr hlo, Nat.not_lt.mpr hhi])]
    rfl
  · change done (if o.toNat ≤ 64 then qEnable o.toNat k.toNat true s else s) = _
    rw [if_pos ho, qEnable, if_neg (by simp), if_neg (by simp [hen]), if_pos (by simpa [or_assoc] using hbad)]
    rfl
  · change done (if o.toNat ≤ 64 then qEnable o.toNat k.toNat false s else s) = _
    rw [if_pos ho, qEnable, if_pos (by simp)]
    rfl
  · change done (if _ then _ else s) = _
    rw [if_pos ⟨ho, hmay, hup⟩, hrd]
    rfl
  · change done (if _ then _ else s) = _
    rw [if_pos ⟨ho, hmay, hup⟩, hrd]
    rfl
  · change done (if _ then _ else s) = _
    rw [if_pos ⟨ho, hmay, hhost⟩]
    rfl

end Sys2Proof.Machine
end

section
/-!
Calibrations, the ends of logical Quills and launches (O15), and contexts (O17).
-/
namespace Sys2Proof.Machine

/-- Settles O15: each command by the item it takes and the tests it makes. -/
theorem calibrationAndEnds : Obligations.CalibrationAndEnds := by
  unfold Obligations.CalibrationAndEnds
  refine ⟨?_, fun s s' q id p x => ⟨fun hres hpart hend hrep hstop hdr => ?_, fun htake hpay hpart => ⟨?_, ?_⟩, ?_, ?_, ?_⟩⟩
  · rintro q trims met acc s t p rfl
    refine ⟨fun hdom hfuse hrun hwin => ?_, fun hready htrims hacc ht => ⟨fun hok => ?_, fun hok => ?_⟩⟩
    · have hopen : (!residentMetered s q.toNat || inWindow s.now) = true := by
        cases hm : residentMetered s q.toNat with
        | false => rfl
        | true => simp [hwin hm]
      change done (if _ then _ else s) = _
      rw [if_pos ⟨hdom, by simp [hfuse], by simp [hrun], hopen⟩]
      rfl
    · change done (if _ then _ else s) = _
      rw [if_pos ⟨hready, htrims, hacc⟩, ht]
      dsimp only
      rw [if_pos hok]
      rfl
    · change done (if _ then _ else s) = _
      rw [if_pos ⟨hready, htrims, hacc⟩, ht]
      dsimp only
      rw [if_neg (ne_true_of_eq_false hok)]
      rfl
  · simp only [exec, execEndReportSend, hres, hpart, hend, hrep, hstop, hdr, Bool.not_false, and_self, if_true]
    rfl
  · rintro ⟨hst, hall, hout⟩
    have hrep : (List.range p.nlq).all (fun l => (p.lqAt l).reported) = true := by simpa using hall
    simp only [exec, execEndReportReceive, htake, hpay, hpart, hst, hrep, hout, Bool.not_false, and_self, if_true]
    rfl
  · intro hno
    have hcond : ¬ (p.st = .running ∧ (List.range p.nlq).all (fun l => (p.lqAt l).reported) = true ∧
        (!outstanding s' (endRepOf p.id)) = true) := fun h =>
      hno.elim (fun hst => hst h.1) (fun hout => by simp [hout] at h)
    simp only [exec, execEndReportReceive, htake, hpay, hpart]
    rw [if_neg hcond]
    rfl
  · intro code pc htake hpay hpart hexn habort
    simp only [exec, execQuillExceptionReport, htake, hpay, hpart, hexn, habort, Option.isSome_none, Bool.or_self, Bool.false_eq_true,
      if_false]
    rfl
  · intro hres htake
    simp only [exec, execPartitionStop, hres, htake]
    rfl
  · intro o pid hpart hst hdr
    simp only [exec, execLaunchFaultDrained, hpart, hst, hdr, and_self, if_true]
    rfl

/-- R294: a draw of the DRBG changes the generator alone. -/
theorem generate_state (i : Nat) (s : State) : ∃ m, (generate i s).2 = { s with mad := m } := by
  unfold generate countGenerate
  exact ⟨_, rfl⟩

/-- R202: an enabled context takes the next key of the key memory. -/
theorem ctxOn_key (o : Nat) (s : State) : (ctxOn o s).sched.nextKey = s.sched.nextKey + 1 ∧
    (ctxOn o s).hbm.keys = kput s.hbm.keys s.sched.nextKey (keyPairOf (generate 1 s).1) := by
  obtain ⟨m, hm⟩ := generate_state 1 s
  refine ⟨rfl, ?_⟩
  change kput (generate 1 s).2.hbm.keys _ _ = _
  rw [hm]
  rfl

/-- Settles O17: enable and clear by the context's state, the drained context by what is left of it. -/
theorem contexts : Obligations.Contexts := by
  unfold Obligations.Contexts
  intro s o ho
  have hset : exec (.ctxEnableSet o) s = done (ctxEnable o.toNat s) := by
    change done (if o.toNat ≤ 64 then ctxEnable o.toNat s else s) = _
    rw [if_pos ho]
  have hclear : exec (.ctxEnableClear o) s = done (ctxDisable o.toNat s) := by
    change done (if o.toNat ≤ 64 then ctxDisable o.toNat s else s) = _
    rw [if_pos ho]
  refine ⟨fun hdr hen hc => ⟨fun hgen => ⟨?_, ctxOn_key o.toNat s⟩, fun hgen => ?_⟩, fun r hdr hen hc => ⟨fun hr => ?_, fun hr => ?_⟩,
    fun hdr => ?_, fun u v hen hdr hu hv => ?_, fun hen => ?_, fun hdr hdisp hfetch hpart => ?_⟩
  · rw [hset, ctxEnable, if_neg (by simp [hdr]), if_neg (by simp [hen]), hc]
    dsimp only
    rw [if_pos hgen]
    rfl
  · rw [hset, ctxEnable, if_neg (by simp [hdr]), if_neg (by simp [hen]), hc]
    dsimp only
    rw [if_neg (by simp [hgen])]
    rfl
  · rw [hset, ctxEnable, if_neg (by simp [hdr]), if_neg (by simp [hen]), hc]
    dsimp only
    rw [if_neg hr]
    rfl
  · rw [hset, ctxEnable, if_neg (by simp [hdr]), if_neg (by simp [hen]), hc]
    dsimp only
    rw [if_pos hr, hr]
    rfl
  · rw [hset, ctxEnable, if_pos hdr]
    rfl
  · rw [hclear, ctxDisable, if_neg (by simp [hen, hdr])]
    dsimp only
    rw [← hu, ← hv]
    rfl
  · rw [hclear, ctxDisable, if_pos (by simp [hen])]
    rfl
  · change done (if _ then drainDone o.toNat s else s) = _
    rw [if_pos ⟨hdr, by simpa using hdisp, by simpa using hfetch, by simpa using hpart⟩]
    rfl

end Sys2Proof.Machine
end

section
/-!
The head of a queue (O19) and the register rows of the sync objects (O23).
-/
namespace Sys2Proof.Machine

/-- Settles O19: check, wait, dispatch and completion by the head of the queue and what it waits for. -/
theorem queueHead : Obligations.QueueHead := by
  unfold Obligations.QueueHead
  rintro s u o k q x xs rfl
  refine ⟨fun hq hc hst hr => ?_, fun r hq hc hst hr => ?_, ?_, ?_, fun n d rest r hpick hd => ?_⟩
  · simp only [exec, execHeaderCheck, hq, hc, hst, hr, Bool.or_self, Bool.false_eq_true, if_false]
    rfl
  · simp only [exec, execHeaderCheck, hq, hc, hst, hr, Bool.or_self, Bool.false_eq_true, if_false]
    rfl
  · rintro hq hc hw hnw hset hmet hbef rfl
    refine ⟨fun hcons => ?_, fun hcons => ?_⟩
    · simp only [exec, execCommandWaitSatisfied, hq, hc, hw, hnw, hset, hmet, hbef, hcons, Bool.not_false, Bool.and_self, if_true,
        Bool.false_eq_true, if_false]
      rfl
    · simp only [exec, execCommandWaitSatisfied, hq, hc, hw, hnw, hset, hmet, hbef, hcons, Bool.not_false, Bool.and_self, if_true]
      rfl
  · rintro c t d hready hturn rfl rfl
    simp only [exec, execCommandDispatch, hready, hturn, Bool.not_true, Bool.false_eq_true, if_false]
    rfl
  · simp only [exec, execCommandCompletion, hpick, hd]
    rfl

/-- R234: what a read of SYNC_ALLOC answers. -/
theorem exec_syncAlloc (ag : Agent) {o : Owner} (ho : o.toNat ≤ 64) (s : State) :
    exec (.syncAlloc ag o) s = done (ans ag .ok ((syncAllocFor o s).1.setWidth 512) (syncAllocFor o s).2) := by
  change done (if o.toNat ≤ 64 then _ else s) = _
  rw [if_pos ho]

/-- R235: a write of SYNC_FREE of an owner's page. -/
theorem exec_syncFree {o : Owner} (ho : o.toNat ≤ 64) (n : W32) (s : State) : exec (.syncFree o n) s = done (syncFreeFor o n.toNat s) := by
  change done (if o.toNat ≤ 64 then _ else s) = _
  rw [if_pos ho]

/-- Settles O23: the rows by the object they name and its owner. -/
theorem syncRows : Obligations.SyncRows := by
  unfold Obligations.SyncRows
  intro s o ho
  refine ⟨fun ag hfull => ?_, fun ag hroom hnone => ?_, fun ag hroom hfree => ?_, fun n hn hown hb haw => ?_, fun n hn hown hbusy => ?_,
    fun n hbad => ?_, fun n th v => rfl, fun n v hset hown => ?_, fun n v hset hown => ?_, fun n v hset => ?_⟩
  · have hw : (0x80000401 : W32).setWidth 512 = 0x80000401 := by simp
    rw [exec_syncAlloc ag ho, syncAllocFor, if_pos hfull, hw]
    rfl
  · have hw : (0x80000405 : W32).setWidth 512 = 0x80000405 := by simp
    rw [exec_syncAlloc ag ho, syncAllocFor, if_neg (Nat.not_le.mpr hroom), if_pos hnone, hw]
    rfl
  · have hw : (BitVec.ofNat 32 (lowestFree 0 s.sync)).setWidth 512 = BitVec.ofNat 512 (lowestFree 0 s.sync) := by
      rw [syncCount] at hfree
      apply BitVec.eq_of_toNat_eq
      rw [BitVec.toNat_setWidth, BitVec.toNat_ofNat, BitVec.toNat_ofNat, Nat.mod_eq_of_lt (a := lowestFree 0 s.sync) (by omega)]
    rw [exec_syncAlloc ag ho, syncAllocFor, if_neg (Nat.not_le.mpr hroom), if_neg (Nat.not_le.mpr hfree), hw]
    rfl
  · rw [exec_syncFree ho, syncFreeFor, if_neg (by simp [hn, hown]), if_neg (by simp [hb, haw])]
    rfl
  · rw [exec_syncFree ho, syncFreeFor, if_neg (by simp [hn, hown]), if_pos hbusy]
    rfl
  · rw [exec_syncFree ho, syncFreeFor, if_pos hbad]
    rfl
  · have hno : o ≠ 0x7F := by
      rintro rfl
      exact absurd ho (by decide)
    change done (incrNow o n v agHost s) = _
    rw [incrNow, if_pos hset, applyIncr, if_pos ⟨hown, hno⟩]
    rfl
  · change done (incrNow o n v agHost s) = _
    rw [incrNow, if_pos hset, applyIncr, if_neg (fun h => hown h.1)]
    rfl
  · change done (incrNow o n v agHost s) = _
    rw [incrNow, if_neg (by simp [hset])]
    rfl

end Sys2Proof.Machine
end

section
/-!
The commands as their engines take them up: LAUNCH (O20), the sweep engine's (O21), the inkwells' and the plant's (O22).
-/
namespace Sys2Proof.Machine

/-- R64: a launch whose agreed count has not passed is placed. -/
theorem launchPlace_inTime {p : Part} {h : HostBytes} {s : State} (hag : ∀ a, p.agreed = some a → a.ult s.now = false) :
    launchPlace p h s =
      if p.keep then
        if (p.timing == .exact && decide (p.nlq ≤ tilesEn s)) && !keepResident p then dropLaunch p (refusedOut 0x0202) s
        else setUpLaunch p ((List.range p.nlq).foldl (fun s l => keepPages p l s) s)
      else if (freeQuills s).length < (if p.timing == .exact || p.timing == .rept then min p.nlq (tilesEn s) else 1) then s
      else
        match loadLqs p (p.timing == .exact && p.nlq ≤ tilesEn s) h p.nlq 0 ((freeQuills s).take p.nlq) s with
        | (.fail r, s) => dropLaunch ((s.partAt p.id).getD p) r s
        | (.wait, _) => s
        | (.ok, s) => setUpLaunch ((s.partAt p.id).getD p) s := by
  refine if_neg ?_
  cases ha : p.agreed with
  | none => exact Bool.false_ne_true
  | some a => exact ne_true_of_eq_false (hag a ha)

/-- Settles O20: take-up, placement, start and missed start by the first test that holds. -/
theorem launches : Obligations.Launches := by
  unfold Obligations.Launches
  intro s s' t o k n h pid d p
  refine ⟨fun htake hgot hq => ?_, fun hpart => ⟨fun hst hfirst hup hag => ⟨fun hkeep hroom hload => ?_, fun hkeep hres => ?_⟩,
    fun hmay => ?_, fun a hag hle hst => ?_⟩⟩
  · have hl : exec (.launch o k n h) s = done (launchTake d h s) := by
      simp only [exec, execLaunch, htake, hgot, hq, Bool.not_false, Bool.and_self, if_true]
    refine ⟨fun hdr => ?_, fun r hdr hr => ?_, fun bs x key hdr hr hup hread hdesc hkey => ?_⟩
    · rw [hl, launchTake]
      dsimp only
      rw [if_pos hdr]
      rfl
    · rw [hl, launchTake]
      dsimp only
      rw [if_neg (ne_true_of_eq_false hdr), hr]
      rfl
    · rw [hl, launchTake]
      dsimp only
      rw [if_neg (ne_true_of_eq_false hdr), hr]
      dsimp only
      rw [if_neg (by simp [hup]), hread]
      dsimp only
      rw [hdesc]
      dsimp only
      rw [hkey]
      rfl
  · have hl : exec (.launchPlace o pid h) s = done (launchPlace p h s) := by
      simp only [exec, execLaunchPlace, hpart, hst, hfirst, hup, and_self, if_true]
    rw [hl, launchPlace_inTime hag, if_neg (by simp [hkeep]), if_neg (by simpa using hroom), hload]
    rfl
  · have hl : exec (.launchPlace o pid h) s = done (launchPlace p h s) := by
      simp only [exec, execLaunchPlace, hpart, hst, hfirst, hup, and_self, if_true]
    rw [hl, launchPlace_inTime hag, if_pos hkeep, if_neg (by simpa using hres)]
    rfl
  · simp only [exec, execLaunchTick, hpart, hmay, if_true]
    rfl
  · have hmiss : agreedMissed p s = true := by
      simp only [agreedMissed, hag, hle]
      rcases hst with hst | ⟨hst, hkey⟩ <;> simp [*]
    simp only [exec, execAgreedCountMissed, hpart, hmiss, if_true]
    rfl

/-- Settles O21: each command by its payload and the object, partition or replicas it names. -/
theorem sweepCommands : Obligations.SweepCommands := by
  unfold Obligations.SweepCommands
  intro s s' t o k n h d p
  refine ⟨fun htake => ?_, fun htake hdue hpay => ⟨fun hown => ?_, fun hown => ?_⟩,
    fun htake hgot hpay => ⟨fun hpart hrun => ?_, fun hpart hrun => ?_, fun hpart => ?_⟩,
    fun htake hgot hpay hpart => ⟨fun hst => ?_, fun hst => ?_⟩, ?_, fun x hrun hex hfire => ?_⟩
  · simp only [exec, execNop, htake]
    rfl
  · simp only [exec, execSyncSet, htake, hdue, hpay, hown, Bool.not_true, Bool.false_eq_true, if_false, ne_eq, not_true_eq_false]
    rfl
  · simp only [exec, execSyncSet, htake, hdue, hpay, hown, Bool.not_true, Bool.false_eq_true, if_false, ne_eq, not_false_eq_true, if_true]
    rfl
  · simp only [exec, execStop, htake, hgot, hpay, hpart, hrun, Bool.not_true, Bool.false_eq_true, if_false, if_true]
    rfl
  · simp only [exec, execStop, htake, hgot, hpay, hpart, hrun, Bool.not_true, Bool.false_eq_true, if_false]
    rfl
  · simp only [exec, execStop, htake, hgot, hpay, hpart, Bool.not_true, Bool.false_eq_true, if_false]
    rfl
  · simp only [exec, execRelease, htake, hgot, hpay, hpart, hst, Bool.not_true, Bool.false_eq_true, if_false, if_true]
    rfl
  · simp only [exec, execRelease, htake, hgot, hpay, hpart, hst, Bool.not_true, Bool.false_eq_true, if_false]
    rfl
  · rintro bs rx es x htake hgot hr hup hread rfl hbad hread2 rfl
    simp only [exec, execExchange, htake, hgot, if_true, exchangeTake, hr, hup, Bool.not_true, Bool.false_eq_true, if_false, hread,
      hbad, hread2]
    rfl
  · simp only [exec, execExchangeRound, hrun, hex, hfire, if_true]
    rfl

/-- R254: a chunk that still holds tags asks for no more. -/
theorem copyChunk_held {d : Disp} {x : Xfer} {n : Nat} {s : State} (h : 0 < x.held) : copyChunk d x n s = (x, s) :=
  if_neg (fun hc => by omega)

/-- Settles O22: take-up by the checks of each command; a COPY line by line. -/
theorem inkwellAndPlantCommands : Obligations.InkwellAndPlantCommands := by
  unfold Obligations.InkwellAndPlantCommands
  refine ⟨fun s u o k n h d id ev dec => ⟨?_, fun hnone hrun => ?_, ?_, ?_, ?_⟩, fun s t d c src dst n f h x => ⟨fun hend => ?_, ?_⟩⟩
  · rintro src dst htake hgot hr hup hslot rfl hsrc hdst
    simp only [exec, execCopy, htake, hgot, if_true, copyTake, hr, hup, hslot, Bool.not_true, Bool.false_eq_true, or_self, if_false,
      copyGo, hsrc, hdst]
    rfl
  · simp only [exec, execCopy, hnone, hrun]
    rfl
  · intro htake hgot hpay hen hcnt hend hhc hwalk
    have hchk : firstReason [(!payloadOk d.cmd [(8, 0, 24), (12, 0, 25)], 0x0311), (!s.ink.enable, 0x0503),
        (d.cmd.f 12 0 25 = 0 || 0x1000000 < d.cmd.f 8 0 24 + d.cmd.f 12 0 25, 0x0319)] = none :=
      (firstReason_none _).mpr (by simp [hpay, hen, hcnt, hend])
    have hready : ¬ (((s.hcAt o.toNat).enable = true ∧ (!hbmUp s) = true) ∨ pagesWalked o (d.cmd.f 8 0 24) (d.cmd.f 12 0 25) s = true) := by
      rintro (⟨he, hu⟩ | hw)
      · simp [hhc he] at hu
      · simp [hwalk] at hw
    refine ⟨fun hforget => ?_, fun e hforget => ?_⟩
    · simp only [exec, execPageInval, htake, hgot, Bool.not_true, Bool.false_eq_true, if_false, hchk]
      rw [if_neg hready, hforget]
      rfl
    · simp only [exec, execPageInval, htake, hgot, Bool.not_true, Bool.false_eq_true, if_false, hchk]
      rw [if_neg hready, hforget]
      rfl
  · rintro htake hgot hpay rfl rfl rfl hev hdec hpart
    have hchk : ∀ runs, runs = false → firstReason [(!payloadOk d.cmd [(8, 0, 6), (9, 0, 1), (16, 0, 64), (24, 0, 64)], 0x0311),
        (bindBad (d.cmd.bitAt 9 0) (d.cmd.pid o) (BitVec.ofNat 64 (d.cmd.f 16 0 64)) s.plant.evBind ||
          bindBad (d.cmd.bitAt 9 0) (d.cmd.pid o) (BitVec.ofNat 64 (d.cmd.f 24 0 64)) s.plant.decBind, 0x0A01),
        (runs, 0x0A02)] = none := fun runs hruns => (firstReason_none _).mpr (by simp [hpay, hev, hdec, hruns])
    cases hp : s.partAt (d.cmd.pid o) with
    | none =>
      simp only [exec, execPlantBind, htake, hgot, Bool.not_true, Bool.false_eq_true, if_false, hp, hchk false rfl]
      rfl
    | some p =>
      simp only [exec, execPlantBind, htake, hgot, Bool.not_true, Bool.false_eq_true, if_false, hp, hchk _ (hpart p hp)]
      rfl
  · rintro htake hgot hpay rfl
    refine ⟨fun hbit => ?_, fun hbit hr => ?_, fun r hbit hr => ?_⟩
    · simp only [exec, execPlantArm, htake, hgot, hpay, hbit, Bool.not_true, Bool.not_false, Bool.false_eq_true, if_false, if_true]
      rfl
    · simp only [exec, execPlantArm, htake, hgot, hpay, hbit, hr, Bool.not_true, Bool.false_eq_true, if_false]
      rfl
    · simp only [exec, execPlantArm, htake, hgot, hpay, hbit, hr, Bool.not_true, Bool.false_eq_true, if_false]
      rfl
  · rw [copyLines, if_pos hend]
  · intro hline hheld hslot
    refine ⟨fun e hcopy => ?_, fun hcopy => ?_⟩
    · rw [copyLines, if_neg (by omega), copyChunk_held hheld]
      dsimp only
      rw [if_neg (by simp [hslot]; omega), hcopy]
    · rw [copyLines, if_neg (by omega), copyChunk_held hheld]
      dsimp only
      rw [if_neg (by simp [hslot]; omega), hcopy]
      rfl

end Sys2Proof.Machine
end

section
/-!
Swapping logical Quills, and page fetches (O16).
-/
namespace Sys2Proof.Machine

/-- A fetch of a walk that found its entry moves its lines, into the frame and the slot that are free. -/
theorem fetchMove_moves {i fr : Nat} {f : Fetch} {e : W64} {l : Lq} {u v w : State} {src : PageSrc} {xf : Xfer}
    (hlq : u.lqOf f.lq = some l) (hdrop : f.drop = false) (hinit : (bit e 1 && (u.hcAt f.lq.part.owner.toNat).init) = false)
    (hframe : frameFor u f.lq l = some fr) (hslot : slotFree f.k u = true) (hsrc : pageSrc f.k f.lq.part.owner f.page e u = (src, v))
    (hxf : Xfer.start 1024 f.k (v.setWell f.k { v.wellAt f.k with pageUsed := (v.wellAt f.k).pageUsed + 1 }) = (xf, w)) :
    fetchMove i f e u = { (w.modLq f.lq (fun l => { l with frames := kset {} l.frames fr {} })) with
      ink := { (w.modLq f.lq (fun l => { l with frames := kset {} l.frames fr {} })).ink with
        fetches := (w.modLq f.lq (fun l => { l with frames := kset {} l.frames fr {} })).ink.fetches.set i
          { f with st := .moving src, frame := fr, xf := xf } } } := by
  unfold fetchMove
  dsimp only
  rw [hlq]
  dsimp only
  rw [if_neg (ne_true_of_eq_false hdrop), if_neg (ne_true_of_eq_false hinit), hframe]
  dsimp only
  rw [if_neg (by simp [hslot]), hsrc]
  dsimp only
  rw [hxf]

/-- R140, R260: what the arrival of fetch `f`'s page does to its logical Quill; `met`: the fetch is metered. -/
def pageSeen (f : Fetch) (met : Bool) (v : State) : State :=
  match v.partAt f.lq.part with
  | none => v
  | some p =>
    let l := p.lqAt f.lq.l.toNat
    let s := if p.metered && !met then v.modPart p.id (fun p => { p with late := true }) else v
    if f.drop || l.stopped || p.st == .stopping then s else
    let fr : Frame := { page := some f.page, last := f.last, pinned := (p.recs.getD f.lq.l.toNat {}).ws.contains f.page }
    let s := s.modLq f.lq (fun l => { l with frames := kset {} l.frames f.frame fr })
    if met then s.modLq f.lq (pageHere f.page) else pageAnswer f.k f.lq f.page 0 s

/-- R259: a fetch whose last line is there and whose tick has come tags its page, is seen by its logical Quill, and ends. -/
theorem exec_pageResident {j : Nat} {h : HostBytes} {s u v : State} {f : Fetch} {src : PageSrc} (hup : hbmUp s = true)
    (hu : u = fetchLines j h 24 s) (hf : u.ink.fetches[j]? = some f) (hst : f.st = .moving src) (hlines : 1024 ≤ f.xf.line)
    (hv : v = pageTag f.k f.lq.part.owner f.page src (!f.bad) u) (hdue : f.metered u = true → u.now.ult (f.since + 10240) = false) :
    exec (.pageResident j h) s = done (fetchEnd j f (pageSeen f (f.metered u) v)) := by
  have hnow : ¬ (f.xf.line < 1024 ∨ (f.metered u = true ∧ u.now.ult (f.since + 10240) = true)) := by
    rintro (h | ⟨hm, ht⟩)
    · omega
    · exact absurd ht (ne_true_of_eq_false (hdue hm))
  change done (if hbmUp s = true then pageResident j (fetchLines j h 24 s) else s) = _
  rw [if_pos hup, ← hu, pageResident, hf]
  dsimp only
  rw [hst]
  dsimp only
  rw [if_neg hnow, ← hv]
  rfl

/-- Settles O16: swaps by what the Quill holds, fetches by the state of their walk and of their lines. -/
theorem swapsAndPages : Obligations.SwapsAndPages := by
  unfold Obligations.SwapsAndPages
  refine ⟨fun s u q id p => ⟨fun i is hslot hres hpart hst hswap hstop hquiet hturn hrot => ?_, fun hslot hres hfree hnext => ?_, ?_,
    fun q' hres hpart hst htim hswap hquiet hfree => ?_⟩,
    fun s s' u v w f j h src => ⟨?_, fun hf hst hup => ⟨fun hwalk => ?_, ?_⟩, ?_⟩⟩
  · rw [State.resAt] at hres
    change done (quillSwap q.toNat s) = _
    simp only [quillSwap, hslot, hres, hpart, hst, hswap, hstop, hquiet, hturn, hrot, Bool.not_true, Bool.not_false,
      Bool.false_eq_true, if_false, Option.isNone_none, and_self, if_true]
    rfl
  · rw [State.resAt] at hres
    change done (quillSwap q.toNat s) = _
    simp only [quillSwap, hslot, hres, hfree, hnext, Bool.not_true, Bool.false_eq_true, if_false, if_true]
    rfl
  · rintro w rfl hswap hlines hdue
    change done (swapEnd q.toNat (swapLines q.toNat 24 s)) = _
    generalize swapLines q.toNat 24 s = u at hswap hdue ⊢
    have hnow : ¬ (0 < w.lines ∨ (u.partMetered w.next.part = true ∧ u.now.ult (w.start + 32768) = true)) := by
      rintro (h | ⟨hm, ht⟩)
      · omega
      · exact absurd ht (ne_true_of_eq_false (hdue hm))
    rw [swapEnd, hswap]
    dsimp only
    rw [if_neg hnow]
    rfl
  · rw [State.resAt] at hres
    simp only [exec, execQuillMove, hres, hpart, hst, htim, hswap, hquiet, hfree, Option.isNone_none, and_self, if_true]
    rfl
  · rintro k rfl hf
    change done (pageFetch k.toNat s) = _
    rw [pageFetch, hf]
    rfl
  · change done (pageWalkDone j s) = _
    simp only [pageWalkDone, hf, hup, hst, hwalk, Bool.not_true, Bool.false_eq_true, if_false]
    rfl
  · rintro e l fr xf hwalk rfl hlq hdrop hinit hframe hslot hsrc hxf
    change done (pageWalkDone j s) = _
    simp only [pageWalkDone, hf, hup, hst, hwalk, Bool.not_true, Bool.false_eq_true, if_false]
    rw [fetchMove_moves (f := { f with st := .found e, xf := {} }) hlq hdrop hinit hframe hslot hsrc hxf]
    rfl
  · intro p fr hup hu hf hst hlines hv hpart hfr hw
    subst hfr hw
    refine ⟨fun hdrop hstop hrun => ⟨fun hmet hpm => ?_, fun hmet hdue => ?_⟩, fun hstop hpm hmet => ?_⟩
    · have hnot : (f.drop || (p.lqAt f.lq.l.toNat).stopped || p.st == .stopping) = false := by simp [hdrop, hstop, hrun]
      rw [exec_pageResident hup hu hf hst hlines hv (by simp [hmet]), pageSeen, hpart]
      dsimp only
      rw [hnot, hmet, hpm]
      rfl
    · have hnot : (f.drop || (p.lqAt f.lq.l.toNat).stopped || p.st == .stopping) = false := by simp [hdrop, hstop, hrun]
      rw [exec_pageResident hup hu hf hst hlines hv (fun _ => hdue), pageSeen, hpart]
      dsimp only
      rw [hnot, hmet, Bool.not_true, Bool.and_false]
      rfl
    · have hnot : (f.drop || (p.lqAt f.lq.l.toNat).stopped || p.st == .stopping) = true := by simp [hstop]
      rw [exec_pageResident hup hu hf hst hlines hv (by simp [hmet]), pageSeen, hpart]
      dsimp only
      rw [hnot, hmet, hpm]
      rfl

end Sys2Proof.Machine
end

section
/-!
The sort engine and its order, groups (O26), and the collectives (O27).
-/
namespace Sys2Proof.Machine

/-- The keys rise, or fall. -/
def keyOrder (desc : Bool) (a b : Int × Nat) : Prop := if desc then b.1 ≤ a.1 else a.1 ≤ b.1

/-- R350: what the sort puts first has the key that comes first. -/
theorem keyOrder_of_sortBefore {desc : Bool} {seed : Nat} {a b : Int × Nat} (h : sortBefore desc seed a b = true) :
    keyOrder desc a b := by
  unfold sortBefore at h
  cases desc <;> grind [keyOrder]

/-- R350: what the sort does not put first has a key that may come later. -/
theorem keyOrder_of_not_sortBefore {desc : Bool} {seed : Nat} {a b : Int × Nat} (h : sortBefore desc seed a b = false) :
    keyOrder desc b a := by
  unfold sortBefore at h
  cases desc <;> grind [keyOrder]

theorem keyOrder_trans {desc : Bool} {a b c : Int × Nat} (hab : keyOrder desc a b) (hbc : keyOrder desc b c) : keyOrder desc a c := by
  cases desc
  · exact le_trans (α := Int) hab hbc
  · exact le_trans (α := Int) hbc hab

theorem sortInsert_perm (le : Int × Nat → Int × Nat → Bool) (x : Int × Nat) (l : List (Int × Nat)) :
    (sortInsert le x l).Perm (x :: l) := by
  induction l with
  | nil => exact .refl _
  | cons y ys ih =>
    rw [sortInsert]
    split
    · exact .refl _
    · exact (ih.cons y).trans (.swap x y ys)

theorem sortInsert_pairwise (desc : Bool) (seed : Nat) (x : Int × Nat) {l : List (Int × Nat)} (h : l.Pairwise (keyOrder desc)) :
    (sortInsert (sortBefore desc seed) x l).Pairwise (keyOrder desc) := by
  induction h with
  | nil => exact List.pairwise_singleton ..
  | @cons y ys hy hys ih =>
    rw [sortInsert]
    split
    · next hle =>
      have hxy := keyOrder_of_sortBefore hle
      refine .cons (fun z hz => ?_) (.cons hy hys)
      rcases List.mem_cons.mp hz with rfl | hz
      · exact hxy
      · exact keyOrder_trans hxy (hy z hz)
    · next hle =>
      refine .cons (fun z hz => ?_) ih
      rcases List.mem_cons.mp ((sortInsert_perm _ x ys).mem_iff.mp hz) with rfl | hz
      · exact keyOrder_of_not_sortBefore (Bool.not_eq_true _ ▸ hle)
      · exact hy z hz

/-- R350: the elements with their positions, sorted. -/
def sorted (desc : Bool) (seed : Nat) (l : List (Int × Nat)) : List (Int × Nat) := l.foldr (sortInsert (sortBefore desc seed)) []

theorem sorted_perm (desc : Bool) (seed : Nat) (l : List (Int × Nat)) : (sorted desc seed l).Perm l := by
  induction l with
  | nil => exact .refl _
  | cons x xs ih => exact (sortInsert_perm _ x _).trans (ih.cons x)

theorem sorted_pairwise (desc : Bool) (seed : Nat) (l : List (Int × Nat)) : (sorted desc seed l).Pairwise (keyOrder desc) := by
  induction l with
  | nil => exact .nil
  | cons x xs ih => exact sortInsert_pairwise desc seed x ih

/-- R350: the order is a permutation of the positions. -/
theorem sortOrder_perm (desc : Bool) (seed : Nat) (keys : List Int) : (sortOrder desc seed keys).Perm (List.range keys.length) := by
  have h := (sorted_perm desc seed keys.zipIdx).map (·.2)
  rwa [List.zipIdx_map_snd, ← List.range_eq_range'] at h

/-- R350: the keys at the positions of the order are those of the sorted elements. -/
theorem sortOrder_keys (desc : Bool) (seed : Nat) (keys : List Int) :
    (sortOrder desc seed keys).map (fun i => keys.getD i 0) = (sorted desc seed keys.zipIdx).map (·.1) := by
  rw [sortOrder, List.map_map]
  refine List.map_congr_left (fun e he => ?_)
  have hmem := List.mem_zipIdx_iff_getElem?.mp ((sorted_perm desc seed keys.zipIdx).mem_iff.mp he)
  simp [hmem]

/-- R350: along the order the keys rise, or fall. -/
theorem sortOrder_pairwise (desc : Bool) (seed : Nat) (keys : List Int) :
    ((sortOrder desc seed keys).map (fun i => keys.getD i 0)).Pairwise (fun a b => if desc then b ≤ a else a ≤ b) := by
  rw [sortOrder_keys, List.pairwise_map]
  exact sorted_pairwise desc seed _

/-- Settles O26: the engine by the state of its command, the order by insertion, the groups by their check. -/
theorem sortAndGroups : Obligations.SortAndGroups := by
  unfold Obligations.SortAndGroups
  refine ⟨?_, fun desc seed keys => ⟨sortOrder_perm desc seed keys, sortOrder_pairwise desc seed keys⟩, ?_⟩
  · rintro s s1 s2 s3 s4 s5 o k n h d x c kb ib seed rfl rfl
    refine ⟨fun htake hgot hq hbusy => ?_, fun hnone hrun hup => ⟨fun hkeys hidx htie hko hio => ?_, fun e hkeys => ?_⟩⟩
    · have hsort : exec (.sort o k n h) s = done (sortTake d s) := by
        simp only [exec, execSort, htake, hgot, hq, hbusy, Bool.not_false, Bool.and_self, if_true]
      refine ⟨fun r hr hne => ?_, fun hr => ?_, fun hr hup => ?_⟩
      · rw [hsort, sortTake, hr]
        dsimp only
        rw [if_neg hne]
        rfl
      · rw [hsort, sortTake, hr]
        rfl
      · rw [hsort, sortTake, hr]
        dsimp only
        rw [if_neg (by simp [hup])]
        rfl
    · simp only [exec, execSort, hnone, hrun, sortRun, hup, Bool.not_true, Bool.false_eq_true, if_false, hkeys, hidx, htie, hko, hio]
      rfl
    · simp only [exec, execSort, hnone, hrun, sortRun, hup, Bool.not_true, Bool.false_eq_true, if_false, hkeys]
      rfl
  · rintro s g x rfl
    have hg : ∀ g : BitVec 4, g ≠ 0 → (g.toNat = 0 || decide (g.toNat ≥ 16)) = false := by decide
    refine ⟨fun hne hv hsurr hme hall => ?_, fun hne hv hbad => ?_, fun hne => ?_, ?_, fun src f hvalid hmem hself hlen => ?_⟩
    · change done (grpWrite g.toNat true s) = _
      rw [grpWrite, if_neg (ne_true_of_eq_false (hg g hne)), if_neg (by simp), if_neg (by simp [hv]),
        checked_passes ((firstReason_none _).mpr (by simpa [hsurr, hme] using hall))]
      rfl
    · have hfail : (!s.glb.surrEn || !(grpMembers s g.toNat).contains (chipNo s) ||
          (grpMembers s g.toNat).any (fun c => chipCount s ≤ c)) = true := by
        simpa [or_assoc] using hbad
      change done (grpWrite g.toNat true s) = _
      rw [grpWrite, if_neg (ne_true_of_eq_false (hg g hne)), if_neg (by simp), if_neg (by simp [hv]),
        checked_fails (r := 0x0606) (by rw [firstReason, hfail]; rfl)]
      rfl
    · change done (grpWrite g.toNat false s) = _
      rw [grpWrite, if_neg (ne_true_of_eq_false (hg g hne)), if_pos (by simp)]
      rfl
    · rfl
    · change done (ctlReceive g src f s) = _
      rw [ctlReceive, if_pos ⟨hvalid, by simpa using hmem, hself, hlen⟩]
      rfl

/-- R358 to R367: what the members' data of each collective gives. -/
def collBody (h : HostBytes) (peers : List (List Byte)) (x : CollCmd) (c : Acc) (s : State) : Option (Outc × State) :=
  match x.op with
  | 0 => collData x c (x.count * elemSize x.dtype) h (fun mine s => (rankData x mine peers s).map (reduceAll x.dtype x.redop x.count)) s
  | 1 => collData x c (x.count * elemSize x.dtype) h (fun mine s => (rankData x mine peers s).map List.flatten) s
  | 2 =>
    if x.root = chipNo s then collData x c (x.count * elemSize x.dtype) h (fun mine _ => some mine) s
    else collData x c 0 h (fun _ _ => match peers with
      | [p] => if p.length = x.count * elemSize x.dtype then some p else none
      | _ => none) s
  | 4 => some ({}, s)
  | _ => sampleSort x c h peers s

/-- A collective's frame asks its body of the command's own fields alone. -/
theorem collTake_congr {d : Disp} {op : Nat} {f g : CollCmd → Acc → State → Option (Outc × State)} {s : State}
    (h : ∀ c s, f (collOf d.cmd) c s = g (collOf d.cmd) c s) : collTake d op f s = collTake d op g s := by
  unfold collTake
  simp only [h]

/-- R360: an OP that is defined is taken by its own command. -/
theorem collUndef_defined {d : Disp} (h : (collOf d.cmd).op < 6) (s : State) : collUndef d s = s := if_pos (.inr h)

/-- R358, R360: each command is the collective of its OP. -/
theorem exec_collective {s : State} {o : Owner} {k : BitVec 3} {n : W32} {h : HostBytes} {peers : List (List Byte)} {d : Disp} {i : Instr}
    (hd : collDisp o k n s = some d)
    (hi : ((collOf d.cmd).op, i) ∈ [(0, Instr.allReduce o k n h peers), (1, .allGather o k n h peers), (2, .broadcast o k n h peers),
      (4, .barrier o k n), (5, .sampleSort o k n h peers)]) :
    exec i s = done (collTake d (collOf d.cmd).op (collBody h peers) s) := by
  simp only [List.mem_cons, Prod.mk.injEq, List.not_mem_nil, or_false] at hi
  rcases hi with ⟨hop, rfl⟩ | ⟨hop, rfl⟩ | ⟨hop, rfl⟩ | ⟨hop, rfl⟩ | ⟨hop, rfl⟩ <;> rw [hop]
  · simp only [exec, execAllReduce, hd]
    rw [collUndef_defined (by omega)]
    exact congrArg done (collTake_congr (fun c s => by simp only [collBody, hop]))
  · simp only [exec, execAllGather, hd]
    exact congrArg done (collTake_congr (fun c s => by simp only [collBody, hop]))
  · simp only [exec, execBroadcast, hd]
    exact congrArg done (collTake_congr (fun c s => by simp only [collBody, hop] <;> rfl))
  · simp only [exec, execBarrier, hd]
    exact congrArg done (collTake_congr (fun c s => by simp only [collBody, hop]))
  · simp only [exec, execSampleSort, hd]
    exact congrArg done (collTake_congr (fun c s => by simp only [collBody, hop]))

/-- Read SRC, write the result. -/
theorem collData_ok {x : CollCmd} {c : Acc} {n : Nat} {h : HostBytes} {f : List Byte → State → Option (List Byte)} {s s' t : State}
    {bs out : List Byte} (hup : hbmUp s = true) (hread : lmaRead c x.src n h s = (.ok bs, s')) (hf : f bs s' = some out)
    (hwrite : lmaWrite c x.dst out s' = (none, t)) : collData x c n h f s = some ({}, t) := by
  simp only [collData, hup, Bool.not_true, Bool.false_eq_true, if_false, hread, hf, Option.map_some, hwrite]

/-- R359: a running collective whose members agree ends with what its body answers. -/
theorem collTake_ends {d : Disp} {f : CollCmd → Acc → State → Option (Outc × State)} {s t : State} {r : Outc}
    (hr : collReason d.id.owner d.cmd s = none) (hbusy : groupBusy d s = false) (hst : d.st = .running)
    (hv : ctlVerdict (collOf d.cmd) s = some true) (hf : f (collOf d.cmd) (collAcc d.id.owner agColl) s = some (r, t)) :
    collTake d (collOf d.cmd).op f s = collEnd d r t := by
  simp only [collTake, hr, hbusy, hst, hv, hf, ne_eq, not_true_eq_false, if_false, Bool.false_eq_true, reduceCtorEq]

/-- Settles O27: the frame of a collective by its checks and the members' verdict, its result by what its body answers. -/
theorem collectives : Obligations.Collectives := by
  unfold Obligations.Collectives
  rintro s s' t o k n h peers vs d x c mine i hd rfl rfl hi
  rw [exec_collective hd hi]
  refine ⟨fun r hr h1 h2 => ?_, fun hr hbusy => ⟨fun hst => ?_, fun hst hv => ?_, fun hst hv => ⟨fun hop => ?_,
    fun hup hread hdata => ⟨fun hop hw => ?_, fun hop hw => ?_⟩, fun hup hop hroot hread hw => ?_,
    fun hup hop hroot hpeers hlen hread hw => ?_, fun hop hsort => ?_⟩⟩⟩
  · simp only [collTake, hr, h1, h2, or_self, if_false, ne_eq, not_true_eq_false]
    rfl
  · simp only [collTake, hr, hbusy, hst, ne_eq, not_true_eq_false, if_false, Bool.false_eq_true, if_true]
    rfl
  · simp only [collTake, hr, hbusy, hst, hv, ne_eq, not_true_eq_false, if_false, Bool.false_eq_true, reduceCtorEq]
    rfl
  · rw [collTake_ends hr hbusy hst hv (r := {}) (t := s) (by simp only [collBody, hop])]
    rfl
  · rw [collTake_ends hr hbusy hst hv (by
      simp only [collBody, hop]
      exact collData_ok hup hread (by rw [hdata, Option.map_some]) hw)]
    rfl
  · rw [collTake_ends hr hbusy hst hv (by
      simp only [collBody, hop]
      exact collData_ok hup hread (by rw [hdata, Option.map_some]) hw)]
    rfl
  · rw [collTake_ends hr hbusy hst hv (by
      simp only [collBody, hop, hroot, if_true]
      exact collData_ok hup hread rfl hw)]
    rfl
  · rw [collTake_ends hr hbusy hst hv (by
      simp only [collBody, hop, hroot, if_false]
      exact collData_ok hup hread (by simp only [hpeers, hlen, if_true]) hw)]
    rfl
  · rw [collTake_ends hr hbusy hst hv (by
      simp only [collBody, hop]
      exact hsort)]
    rfl

end Sys2Proof.Machine
end

section
/-!
The boundary exchange (O28).
-/
namespace Sys2Proof.Machine

/-- A fold of steps that take no tick takes none. -/
theorem foldl_now {α : Type} {f : State → α → State} (h : ∀ s x, (f s x).now = s.now) (l : List α) (s : State) :
    (l.foldl f s).now = s.now := by
  induction l generalizing s with
  | nil => rfl
  | cons x xs ih => rw [List.foldl_cons, ih, h]

/-- R215: the end of a command takes no tick. -/
theorem finish_now (id : CmdId) (r : Outc) (s : State) : (finish id r s).now = s.now := by
  unfold finish
  split
  · rfl
  · dsimp only
    split <;> rfl

/-- R88: a read of a logical Quill's stores takes no tick. -/
theorem storeRead_now (id : LqId) (off n : Nat) (ag : Agent) (s : State) : (storeRead id off n ag s).2.now = s.now := by
  have hecc : ∀ q r, (eccNote q r s).now = s.now := fun q r => by
    unfold eccNote
    split <;> rfl
  unfold storeRead
  split
  · rfl
  · dsimp only
    split
    · exact (logErr_now ..).trans (hecc ..)
    · exact hecc ..

/-- R342: reading the out-entries takes no tick. -/
theorem bxRead_now (d : Disp) (b : BxSt) (es : List (Byte × BitVec 11 × Byte)) (s : State) : (bxRead d b es s).2.now = s.now := by
  induction es generalizing s with
  | nil => rfl
  | cons e es ih =>
    have hread := storeRead_now { part := { owner := d.id.owner, pid := b.pid }, l := e.1 } (stBase + 32 * e.2.1.toNat) 32 agColl s
    rw [bxRead]
    split
    · next h => rwa [h] at hread
    · next bs t h =>
      rw [h] at hread
      have hrest := ih t
      split
      · next h => rw [h] at hrest; exact hrest.trans hread
      · next h => rw [h] at hrest; exact hrest.trans hread

/-- R342: the packets of a round leave on one tick. -/
theorem bxSend_now (d : Disp) (b : BxSt) (es : List (Byte × List Byte)) (s : State) : (bxSend d b es s).now = s.now := by
  unfold bxSend
  refine foldl_now (fun s c => ?_) _ s
  refine foldl_now (fun s bs => ?_) _ s
  rfl

/-- R342: sending the out-entries takes no tick. -/
theorem bxSendAll_now (d : Disp) (b : BxSt) (s : State) : (bxSendAll d b s).now = s.now := by
  have hread := bxRead_now d b b.outs s
  rw [bxSendAll]
  split
  · next h =>
    rw [h] at hread
    exact (finish_now ..).trans hread
  · next h =>
    rw [h] at hread
    exact (bxSend_now ..).trans hread

/-- A boundary exchange is taken up by its own command. -/
theorem exec_boundaryExchange {o : Owner} {k : BitVec 3} {n : W32} {h : HostBytes} {s : State} {d : Disp}
    (htake : takeDisp o k n 0x20 s = some d) (hgot : d.got = true) (hop : (collOf d.cmd).op = 3) :
    exec (.boundaryExchange o k n h) s = done (bxTake d h s) := by
  simp only [exec, execBoundaryExchange, htake, hgot, hop, beq_self_eq_true, Bool.and_self, if_true]

/-- R345: a list without an entry for a bad chip. -/
theorem chips_good {α : Type} {s : State} {ws : List W32} {f : W32 → α} {chip : α → Nat} (h : ∀ w ∈ ws, chipBad s (chip (f w)) = false) :
    (ws.map f).any (fun e => chipBad s (chip e)) = false := by
  simpa using h

/-- R342: no packet waits for the exchange. -/
theorem collIn_nothing {f : State → Pkt → State} {m : Pkt → Bool} {u : State} (h : u.kl.collIn = []) :
    (u.kl.collIn.filter m).foldl f { u with kl := { u.kl with collIn := u.kl.collIn.filter (fun p => !m p) } } = u := by
  have hu : { u with kl := { u.kl with collIn := [] } } = u := by rw [← h]
  rw [h]
  exact hu

/-- R342: a valid exchange starts with the entries of its lists; no packet has come before it. -/
theorem bxTake_starts {d : Disp} {h : HostBytes} {s s1 s2 s3 : State} {ds : List Byte} {b : BxSt} {nin il : Nat} {ow iw : List W32}
    {p : Part} (hr : bxReason d.id.owner d.cmd s = none) (hup : hbmUp s = true)
    (hread : lmaRead (collAcc d.id.owner agColl) (collOf d.cmd).dst 64 h s = (.ok ds, s1))
    (hdesc : bxDesc d.id.owner (collOf d.cmd).freex ds s1 = some (b, nin, il))
    (how : lmaWords (collAcc d.id.owner agColl) (collOf d.cmd).src (collOf d.cmd).count h s1 = (.ok ow, s2))
    (hiw : lmaWords (collAcc d.id.owner agColl) il nin h s2 = (.ok iw, s3))
    (hp : s3.partAt { owner := d.id.owner, pid := BitVec.ofNat 6 (collOf d.cmd).pid } = some p)
    (hall : ow.all (fun w => (outEntry p.nlq w).2) = true ∧ iw.all (fun w => (inEntry p.nlq w).2) = true)
    (hout : ∀ w ∈ ow, chipBad s3 (outEntry p.nlq w).1.2.2.toNat = false)
    (hin : ∀ w ∈ iw, chipBad s3 (inEntry p.nlq w).1.1.toNat = false) (hnone : s3.kl.collIn = []) :
    bxTake d h s = modDisp d.id (fun e => { e with
      st := .running
      bx := some { b with
        pid := BitVec.ofNat 6 (collOf d.cmd).pid, outs := ow.map (fun w => (outEntry p.nlq w).1)
        ins := iw.map (fun w => (inEntry p.nlq w).1) } }) s3 := by
  have houts := chips_good (f := outEntry p.nlq) (chip := fun e => e.1.2.2.toNat) hout
  have hins := chips_good (f := inEntry p.nlq) (chip := fun e => e.1.1.toNat) hin
  have hall1 : (ow.map (outEntry p.nlq)).all (·.2) = true := by simpa using hall.1
  have hall2 : (iw.map (inEntry p.nlq)).all (·.2) = true := by simpa using hall.2
  rw [bxTake]
  dsimp only
  rw [hr]
  dsimp only
  rw [if_neg (by simp [hup]), hread]
  dsimp only
  rw [hdesc]
  dsimp only
  rw [how]
  dsimp only
  rw [hiw]
  dsimp only
  rw [hp]
  dsimp only
  rw [hall1, hall2, houts, hins, if_neg (by decide), if_neg (by decide)]
  refine (collIn_nothing (u := modDisp _ _ s3) hnone).trans ?_
  simp only [List.map_map, Function.comp_def]

/-- Settles O28: take-up by the checks and the lists, rounds and batches by the state of the exchange. -/
theorem boundaryExchange : Obligations.BoundaryExchange := by
  unfold Obligations.BoundaryExchange
  rintro s s1 s2 s3 o k n h d b c x rfl rfl
  refine ⟨fun htake hgot hop => ?_, fun hrun hbx => ⟨fun hfire => ?_, fun hdone hmore => ?_, fun hdone hlast => ?_,
    fun p hp hper hst hdt hmod hlastB => ?_, fun t hdone hfired hlate => ?_⟩⟩
  · rw [exec_boundaryExchange htake hgot hop]
    refine ⟨fun r hr hmem => ?_, fun r hr hmem => ?_, fun hr hup => ⟨fun e hread => ?_, fun ds hread hdesc => ?_, ?_⟩⟩
    · rw [bxTake]
      dsimp only
      rw [hr]
      dsimp only
      rw [if_neg (by simp at hmem; rcases hmem with rfl | rfl <;> decide)]
      rfl
    · rw [bxTake]
      dsimp only
      rw [hr]
      dsimp only
      rw [if_pos (by simpa using hmem)]
      rfl
    · simp only [bxTake, hr, hup, hread, Bool.not_true, Bool.false_eq_true, if_false]
      rfl
    · rw [bxTake]
      dsimp only
      rw [hr]
      dsimp only
      rw [if_neg (by simp [hup]), hread]
      dsimp only
      rw [hdesc]
      rfl
    · intro ds nin il ow iw p hread hdesc how hiw hp hall hout hin hnone
      rw [bxTake_starts hr hup hread hdesc how hiw hp hall hout hin hnone]
      simp only [done]
  · simp only [exec, execBoundaryRound, hrun, hbx, hfire, if_true, bxFire, bxSendAll_now, done]
  · simp only [exec, execBoundaryRoundDone, hrun, hbx, hdone, if_true, hmore, if_false]
    rfl
  · simp only [exec, execBoundaryRoundDone, hrun, hbx, hdone, if_true, hlast]
    rfl
  · have hdue : batchDue d b s = true := by
      simp only [batchDue, hp, bne_iff_ne.mpr hper, bne_iff_ne.mpr hlastB, hst, hdt, hmod, beq_self_eq_true, decide_true, Bool.and_self]
    simp only [exec, execFreexBatch, hrun, freexBatch, hbx, hdue, if_true]
    rfl
  · simp only [exec, execBoundaryRoundTimeout, hrun, hbx, Option.bind_some, hdone, Bool.false_eq_true, if_false, hfired, hlate, if_true]
    rfl

end Sys2Proof.Machine
end

section
/-!
Madder: sources, alarms, DRBG instances and their ports (O29).
-/
namespace Sys2Proof.Machine

-- Maps that need not be canonical
/-- Of two values put under one key the second stays. -/
theorem kput_kput {α : Type} (m : KMap α) (k : Nat) (v w : α) : kput (kput m k v) k w = kput m k w := by
  induction m with
  | nil => simp [kput]
  | cons e m ih =>
    by_cases he : e.1 = k
    · simp [kput, he]
    · by_cases hlt : k < e.1
      · simp [kput, he, hlt]
      · simp [kput, he, hlt, ih]

/-- A value that is not the default is replaced by the next one. -/
theorem kset_kset {α : Type} [DecidableEq α] {d : α} (m : KMap α) (k : Nat) {v w : α} (hv : v ≠ d) (hw : w ≠ d) :
    kset d (kset d m k v) k w = kset d m k w := by
  simp only [kset, if_neg hv, if_neg hw, kput_kput]

/-- A key that is found is found after the deletion of a greater one. -/
theorem kfind_kdel_of_lt {α : Type} {m : KMap α} {j k : Nat} {v : α} (hj : kfind m j = some v) (h : j < k) :
    kfind (kdel m k) j = some v := by
  induction m with
  | nil => cases hj
  | cons e m ih =>
    obtain ⟨k', v'⟩ := e
    simp only [kfind] at hj
    split at hj
    · next he =>
      simp only [kdel]
      rw [if_neg (by omega), if_neg (by omega), kfind, if_pos he]
      exact hj
    · split at hj
      · cases hj
      · simp only [kdel]
        rw [if_neg (by omega)]
        split
        · simp only [kfind]
          rwa [if_neg (by assumption), if_neg (by assumption)]
        · simp only [kfind]
          rw [if_neg (by assumption), if_neg (by assumption)]
          exact ih hj

/-- A key that is found keeps its value when greater ones are set. -/
theorem kfind_foldl_kset {α : Type} [DecidableEq α] {d : α} (f : KMap α → Nat → α) {l : List Nat} {m : KMap α} {j : Nat} {v : α}
    (hj : kfind m j = some v) (hl : ∀ k ∈ l, j < k) : kfind (l.foldl (fun m k => kset d m k (f m k)) m) j = some v := by
  induction l generalizing m with
  | nil => exact hj
  | cons k ks ih =>
    have hk := hl k List.mem_cons_self
    refine ih ?_ (fun i hi => hl i (List.mem_cons_of_mem _ hi))
    change kfind (if f m k = d then kdel m k else kput m k (f m k)) j = some v
    split
    · exact kfind_kdel_of_lt hj hk
    · rw [kfind_kput_ne _ _ (by omega)]
      exact hj

theorem kget_of_kfind {α : Type} (d : α) {m : KMap α} {k : Nat} {v : α} (h : kfind m k = some v) : kget d m k = v := by
  induction m with
  | nil => cases h
  | cons e m ih =>
    simp only [kfind] at h
    simp only [kget]
    split at h
    · next he =>
      rw [if_pos he]
      exact Option.some.inj h
    · next he =>
      split at h
      · cases h
      · next hlt =>
        rw [if_neg he, if_neg hlt]
        exact ih h

-- Sources
/-- R283: the run and the count of the window after a bit. -/
theorem Src.test_verdicts (x : Src) (b : Bool) :
    (x.test b).2.1 = decide (61 ≤ if 0 < x.runLen ∧ x.last = b then x.runLen + 1 else 1) ∧
    (x.test b).2.2 = decide (840 ≤ if x.winPos = 0 then 1 else if x.winFirst = b then x.winCnt + 1 else x.winCnt) := by
  refine ⟨rfl, ?_⟩
  simp only [Src.test, decide_eq_decide]
  by_cases hw : x.winPos = 0
  · simp [hw, b2n]
  · by_cases hb : x.winFirst = b
    · simp [hw, hb, b2n]
    · have hb' : (b == x.winFirst) = false := by simpa using Ne.symm hb
      simp [hw, hb, hb', b2n]

/-- A source that has seen a bit is not a source at rest. -/
theorem Src.test_ne (x : Src) (b : Bool) (r a : W16) : { (x.test b).1 with rctFails := r, aptFails := a } ≠ ({} : Src) := by
  intro h
  have hrun : (if 0 < x.runLen ∧ x.last = b then x.runLen + 1 else 1) = 0 := congrArg Src.runLen h
  split at hrun <;> omega

/-- R281, R285: a bit of a running source. -/
theorem exec_rawBit_running {n : BitVec 2} {b : Bool} {s : State} (hon : (s.srcAt n.toNat).on = true)
    (hre : (s.srcAt n.toNat).restarting = false) (hst : (s.srcAt n.toNat).starting = false) :
    exec (.rawBit n b) s = done
      (if ((s.srcAt n.toNat).test b).2.1 then sourceFail n.toNat 0x0880 ((s.setSrc n.toNat ((s.srcAt n.toNat).test b).1).setSrc n.toNat
        { ((s.srcAt n.toNat).test b).1 with rctFails := satInc (s.srcAt n.toNat).rctFails })
      else if ((s.srcAt n.toNat).test b).2.2 then sourceFail n.toNat 0x0881 ((s.setSrc n.toNat ((s.srcAt n.toNat).test b).1).setSrc n.toNat
        { ((s.srcAt n.toNat).test b).1 with aptFails := satInc (s.srcAt n.toNat).aptFails })
      else condition n.toNat b (s.setSrc n.toNat ((s.srcAt n.toNat).test b).1)) := by
  change done (rawBit n.toNat b s) = _
  rw [rawBit, if_neg (by simp [hon, hre]), if_neg (by simp [hst])]

/-- Of two records put for a source the second stays. -/
theorem setSrc_setSrc {n : Nat} {s : State} {x y : Src} (hx : x ≠ {}) (hy : y ≠ {}) : (s.setSrc n x).setSrc n y = s.setSrc n y := by
  simp only [State.setSrc, kset_kset _ _ hx hy]

/-- R281: the conditioner's register takes in a bit. -/
theorem absorb_eq (r : BitVec 256) (b : Bool) : absorb r b =
    (r <<< 1) ||| (if (((bit r 255 ^^ bit r 253) ^^ bit r 250) ^^ bit r 245) ^^ b then 1 else 0) := by
  have hb : ∀ c : Bool, (b2w c : BitVec 256) = if c then 1 else 0 := by
    rintro (_ | _) <;> rfl
  rw [absorb, hb]

/-- R281, R282: the source whose turn it is gives its bit to the conditioner. -/
theorem condition_turn {n : Nat} {b : Bool} {s : State} (hf : s.mad.fatal = false)
    (hturn : s.mad.rota.filter (fun k => (s.srcAt k).healthy) = n :: s.mad.rota.tail) :
    (condition n b s).mad.s = (s.mad.s <<< 1) |||
      (if (((bit s.mad.s 255 ^^ bit s.mad.s 253) ^^ bit s.mad.s 250) ^^ bit s.mad.s 245) ^^ b then 1 else 0) ∧
    (condition n b s).mad.cnt = (if s.mad.cnt + 1 = 1024 then 0 else s.mad.cnt + 1) := by
  rw [← absorb_eq]
  have hne : s.mad.rota.isEmpty = false := by
    cases hr : s.mad.rota with
    | nil => simp [hr] at hturn
    | cons => rfl
  unfold condition
  simp only [hne, hturn, hf, Bool.false_eq_true, if_false, List.isEmpty_cons, List.head?_cons, ne_eq, not_true_eq_false,
    decide_false, Bool.or_self]
  by_cases hc : s.mad.cnt + 1 = 1024
  · simp [State.setSrc, hc]
  · simp [State.setSrc, hc]

/-- R288: what CLEAR_FATAL makes of source `n`, read in the map that it changes source by source. -/
def clearedSrc (en : BitVec 4) (m : KMap Src) (n : Nat) : Src :=
  let x := { kget {} m n with consec := 0 }
  if bit en n then x.restart else { x with on := false, restarting := false, starting := false, healthy := false }

/-- R288: an enabled source restarts. -/
theorem clearFatal_srcAt {n : BitVec 2} {s : State} (hen : bit s.mad.srcEn n.toNat = true) :
    ∃ x : Src, (clearFatal s).srcAt n.toNat = ({ x with consec := 0 } : Src).restart := by
  have hsplit : ∀ n : BitVec 2, List.range 4 = List.range n.toNat ++ n.toNat :: List.range' (n.toNat + 1) (3 - n.toNat) := by decide
  have hfold : (clearFatal s).srcAt n.toNat =
      kget {} ((List.range 4).foldl (fun m k => kset {} m k (clearedSrc s.mad.srcEn m k)) s.mad.src) n.toNat := rfl
  rw [hfold, hsplit n, List.foldl_append, List.foldl_cons]
  obtain ⟨m, hm⟩ : ∃ m, m = (List.range n.toNat).foldl (fun m k => kset {} m k (clearedSrc s.mad.srcEn m k)) s.mad.src := ⟨_, rfl⟩
  have hval : clearedSrc s.mad.srcEn m n.toNat = ({ kget {} m n.toNat with consec := 0 } : Src).restart := if_pos hen
  have hne : clearedSrc s.mad.srcEn m n.toNat ≠ {} := by
    rw [hval]
    exact fun h => Bool.noConfusion (congrArg Src.on h)
  refine ⟨kget {} m n.toNat, ?_⟩
  rw [← hm, ← hval]
  refine kget_of_kfind _ (kfind_foldl_kset _ ?_ (fun k hk => ?_))
  · rw [kset, if_neg hne, kfind_kput_self]
  · rw [List.mem_range'_1] at hk
    omega

/-- Settles O29: the sources by their state and the tests' verdicts, the instances by what they wait for. -/
theorem madderPorts : Obligations.MadderPorts := by
  unfold Obligations.MadderPorts
  refine ⟨?_, ?_⟩
  · rintro s n b x y run cnt rfl rfl rfl rfl
    obtain ⟨hrct, hapt⟩ := Src.test_verdicts (s.srcAt n.toNat) b
    refine ⟨⟨hrct, hapt⟩, fun hon hre hst hseen => ?_, fun hon hre hst hrun hcnt => ?_, fun hon hre hst hrun => ?_,
      fun hon hre hst hrun hcnt => ?_, fun hf hturn => condition_turn hf hturn, fun hst hseen hbad => ?_, fun hst hseen hbad => ?_,
      fun hre => ?_, fun hstart htwo hf => ?_, ?_⟩
    · rw [← hrct, ← hapt]
      change done (rawBit n.toNat b s) = _
      rw [rawBit, if_neg (by simp [hon, hre]), if_pos hst, if_neg (by omega)]
      rfl
    · rw [exec_rawBit_running hon hre hst, hrct, hapt, if_neg (by simpa using hrun), if_neg (by simpa using hcnt)]
      rfl
    · rw [exec_rawBit_running hon hre hst, hrct, if_pos (by simpa using hrun),
        setSrc_setSrc (Src.test_ne _ b _ _) (Src.test_ne _ b _ _)]
      rfl
    · rw [exec_rawBit_running hon hre hst, hrct, hapt, if_neg (by simpa using hrun), if_pos (by simpa using hcnt),
        setSrc_setSrc (Src.test_ne _ b _ _) (Src.test_ne _ b _ _)]
      rfl
    · simp only [exec, execStartupTestDone, hst, hseen, hbad, and_self, if_true]
      rfl
    · obtain ⟨u, hu⟩ : ∃ u, u = s.setSrc n.toNat { s.srcAt n.toNat with starting := false, healthy := true } := ⟨_, rfl⟩
      refine ⟨{ u with mad := { u.mad with two := u.mad.two || 2 ≤ (healthyList u).length } }, ?_, ?_⟩
      · change done (if _ then _ else s) = _
        rw [if_pos ⟨hst, hseen⟩, if_neg (ne_true_of_eq_false hbad), hu]
        rfl
      · rw [hu]
        exact ⟨rfl, rfl, rfl⟩
    · simp only [exec, execSourceRestartDone, hre, if_true]
      rfl
    · simp only [exec, execFatalStartupTimeout, hstart, htwo, Bool.not_false, and_self, if_true, fatalAlarm, hf, Bool.false_eq_true,
        if_false]
      rfl
    · refine ⟨clearFatal s, rfl, rfl, rfl, rfl, rfl, rfl, fun hen => ?_⟩
      obtain ⟨x, hx⟩ := clearFatal_srcAt hen
      rw [hx]
      exact ⟨rfl, rfl, rfl, rfl⟩
  · rintro s s' j d bs rfl
    have hpass : (s.instAt j.toNat).len.toNat ≤ 48 → (s.instAt j.toNat).need = 0 → (s.instAt j.toNat).full = false →
        firstReason [(decide (48 < (s.instAt j.toNat).len.toNat), 0x0803), ((s.instAt j.toNat).busy, 0x0804)] = none :=
      fun hl hn hf => (firstReason_none _).mpr (by simp [Drbg.busy, hn, hf, Nat.not_lt.mpr hl])
    have hbusy : (s.instAt j.toNat).len.toNat ≤ 48 → ((s.instAt j.toNat).need ≠ 0 ∨ (s.instAt j.toNat).full = true) →
        firstReason [(decide (48 < (s.instAt j.toNat).len.toNat), 0x0803), ((s.instAt j.toNat).busy, 0x0804)] = some 0x0804 :=
      fun hl hb => by
        have hbusy : (s.instAt j.toNat).busy = true := by simpa [Drbg.busy] using hb
        simp [firstReason, hbusy, Nat.not_lt.mpr hl]
    have hlong : 48 < (s.instAt j.toNat).len.toNat →
        firstReason [(decide (48 < (s.instAt j.toNat).len.toNat), 0x0803), ((s.instAt j.toNat).busy, 0x0804)] = some 0x0803 :=
      fun hl => by simp [firstReason, hl]
    have hinst : j.toNat < 5 → exec (.instantiate j) s = done (drbgOp j.toNat 3 true s) := fun hj => by
      change done (if j.toNat < 5 then drbgOp j.toNat 3 true s else s) = _
      rw [if_pos hj]
    have hseed : j.toNat < 5 → exec (.reseed j) s = done (drbgOp j.toNat 2 false s) := fun hj => by
      change done (if j.toNat < 5 then drbgOp j.toNat 2 false s else s) = _
      rw [if_pos hj]
    refine ⟨fun hno => ?_, fun w c ho hn => ?_, fun w c i ho hn => ?_, fun hj hl hn hf => ⟨?_, ?_⟩, fun hj hl => ⟨?_, ?_⟩,
      fun hj hl hb => ⟨?_, ?_⟩, fun hj hrdy hn hf hreqs hfat => ?_, fun hfull hw => ?_, fun hgen hbs => ?_, ?_,
      fun ag w ws hlo hhi hout => ?_, fun ag hag => ?_, fun w ws hout => ?_, fun hout => ?_, fun ag hag => ?_⟩
    · change done (blockOffered s) = _
      rw [blockOffered, hno]
      rfl
    · change done (blockOffered s) = _
      rw [blockOffered, ho]
      dsimp only
      rw [show nextInst { s with mad := { s.mad with offer := none } } = none from hn]
      rfl
    · change done (blockOffered s) = _
      rw [blockOffered, ho]
      dsimp only
      rw [show nextInst { s with mad := { s.mad with offer := none } } = some i from hn]
      rfl
    · rw [hinst hj, drbgOp, checked_passes (hpass hl hn hf)]
      rfl
    · rw [hseed hj, drbgOp, checked_passes (hpass hl hn hf)]
      rfl
    · rw [hinst hj, drbgOp, checked_fails (hlong hl)]
      rfl
    · rw [hseed hj, drbgOp, checked_fails (hlong hl)]
      rfl
    · rw [hinst hj, drbgOp, checked_fails (hbusy hl hb)]
      rfl
    · rw [hseed hj, drbgOp, checked_fails (hbusy hl hb)]
      rfl
    · change done (if _ then _ else s) = _
      rw [if_pos ⟨hj, hrdy, by simp [Drbg.busy, hn, hf], hreqs, by simp [hfat]⟩]
      rfl
    · change done (if _ then _ else s) = _
      rw [if_pos hfull]
      dsimp only
      by_cases hj : j = 0
      · have hwrap : s.mad.wrap.isEmpty = false := by simpa [hj] using hw
        rw [if_pos hj, wrapKeys, if_neg (by simpa [State.setInst] using hwrap)]
        rfl
      · rw [if_neg hj]
        rfl
    · change done (if canGenerate 0 s = true then _ else s) = _
      rw [if_pos hgen, hbs]
      rfl
    · rintro host i rfl hout hgen hbs
      change done (if _ then hold _ 4 s else s) = _
      rw [if_pos (by simp [hout, hgen]), hold, hbs]
      rfl
    · change done (swData false ag s) = _
      have hmine : (0x100 ≤ ag.toNat && ag.toNat < 0x108) = true := by simp [hlo, hhi]
      simp only [swData, swRead, hmine, Bool.false_eq_true, if_false, if_true, takeOut, hout, done]
    · change done (swData false ag s) = _
      have hnot : (0x100 ≤ ag.toNat && ag.toNat < 0x108) = false := by
        simp only [Bool.and_eq_false_iff, decide_eq_false_iff_not]
        omega
      simp only [swData, swRead, hnot, Bool.false_eq_true, if_false]
      rfl
    · change done (swData true agHost s) = _
      simp only [swData, swRead, if_true, beq_self_eq_true, takeOut, hout, done]
    · change done (swData true agHost s) = _
      have h0 : (0 : W32).setWidth 512 = 0 := by simp
      simp only [swData, swRead, if_true, beq_self_eq_true, takeOut, hout, h0]
      rfl
    · change done (swData true ag s) = _
      have hnot : (ag == agHost) = false := by simpa using hag
      simp only [swData, swRead, if_true, hnot, Bool.false_eq_true, if_false]
      rfl

end Sys2Proof.Machine
end

section
/-!
The Kysto links: the refutation of O30, and tick synchronisation (O31).
-/
namespace Sys2Proof.Machine

/-- Link 0 has two entries of key 0: the first, all default, hides the second, whose partner is chip 1. -/
def hiddenLink : State := { State.reset with kl := { link := [(0, {}), (0, { partner := 1 })] } }

/-- The loss of the link drops the first entry, and what is left of the second is its partner. -/
theorem hiddenLink_partner : ((linkLost 0 hiddenLink).linkAt 0).partner = 1 := by decide

/-- Refutes O30: a lost link is to keep its partner whatever the map of the links; over a map with two entries of one key the
emptied first entry, all default, is dropped, and the link takes the partner of the second. -/
theorem not_kystoLinks : ¬ Obligations.KystoLinks := by
  unfold Obligations.KystoLinks
  rintro ⟨hlinks, -⟩
  obtain ⟨-, -, -, -, -, -, -, -, -, -, -, -, -, -, hlost⟩ := hlinks hiddenLink 0 {} 0 (by decide)
  obtain ⟨-, hpartner⟩ := hlost (fun d hd => absurd hd (by simp [hiddenLink, State.reset])) rfl rfl
  exact absurd (hpartner.symm.trans hiddenLink_partner) (by decide)

-- Tick synchronisation
/-- R336: the request is due over the parent's link. -/
theorem tickReqDue_some {s : State} {n : Nat} (hp : parentLink s = some n) (he : exchanging s = true) (ht : s.now.toNat % 2048 = 0)
    (hr : s.kl.reqAt ≠ some s.now) (hup : (s.linkAt n).st = .up) : tickReqDue s = some n := by
  simp only [tickReqDue, hp]
  exact if_pos ⟨he, ht, hr, hup⟩

/-- R336: the reply to the request that waits. -/
theorem exec_tickReply {s : State} {f : BitVec 1088} {t4 : W64} {offp offm : Int} (he : exchanging s = true) (hg : frGood f = true)
    (hk : fld (frHdr f) 30 2 = (2 : BitVec 2)) (h1 : fld (frPay f) 0 8 = (1 : Byte)) (ht1 : s.kl.t1 = some (fld (frPay f) 96 64))
    (hp : offp = (((fld (frPay f) 160 64 - fld (frPay f) 96 64) - (t4 - fld (frPay f) 224 64) : W64).toInt).tdiv 2)
    (hm : offm = offp + (fld (frPay f) 288 64 : W64).toInt) {u : State} (hu : u = steer offp offm (bit (frPay f) 16)
      { s with kl := { s.kl with heard := true, parLock := bit (frPay f) 16, parMaster := bit (frPay f) 24 } }) :
    exec (.tickReply f t4) s = done (if s.kl.acqBusy then
      if !bit (frPay f) 16 && !bit (frPay f) 24 then setReason .kl 0x0704 { u with kl := { u.kl with acqBusy := false } }
      else acquireLoad (u.now + 1 + BitVec.ofInt 64 ((offm + 16) / 32)) u
    else u) := by
  subst hu hm hp
  change done (if _ then _ else s) = _
  rw [if_pos ⟨he, hg, hk, h1, ht1⟩]

/-- R81, R338: a loss leaves LOCKED clear. -/
theorem lockLost_locked {b : Blk} (hb : b = .tk ∨ b = .kl) (c : W16) (s : State) : (lockLost b c s).tk.locked = false := by
  unfold lockLost
  split
  · rcases hb with rfl | rfl
    · simp only [logErr, setErr, noteCfg]
      split <;> rfl
    · simp only [logErr, setErr, noteCfg]
      split <;> rfl
  · next h => simpa using h

/-- R81, R338: a loss leaves the steering as it is. -/
theorem lockLost_ppm {b : Blk} (hb : b = .tk ∨ b = .kl) (c : W16) (s : State) : (lockLost b c s).kl.ppm = s.kl.ppm := by
  unfold lockLost
  split
  · rcases hb with rfl | rfl
    · simp only [logErr, setErr, noteCfg]
      split <;> rfl
    · simp only [logErr, setErr, noteCfg]
      split <;> rfl
  · rfl

/-- R337: the steering has its limits whatever becomes of LOCKED. -/
theorem steer_ppm (a b : Int) (p : Bool) (s : State) : (steer a b p s).kl.ppm =
    BitVec.ofInt 10 (clampI (-300) 300 ((40 * b + 4 * clampI (-1048576) 1048576 (s.kl.acc + b)).tdiv 32)) := by
  unfold steer
  dsimp only
  by_cases hdrift : b < -96 ∨ 96 < b
  · rw [if_pos hdrift, lockLost_ppm (.inl rfl)]
  · by_cases hbad : 4 ≤ (if -48 ≤ b ∧ b ≤ 48 then 0 else s.kl.bad + 1) ∨ (!p) = true
    · rw [if_neg hdrift, if_pos hbad, lockLost_ppm (.inr rfl)]
    · rw [if_neg hdrift, if_neg hbad]

/-- R337: a good exchange. -/
theorem steer_good {a b : Int} (hlo : -48 ≤ b) (hhi : b ≤ 48) (s : State) :
    (steer a b true s).kl.good = s.kl.good + 1 ∧
    (steer a b true s).tk.locked = (s.tk.locked || (s.tk.syncEn && decide (16 ≤ s.kl.good + 1))) := by
  unfold steer
  dsimp only
  rw [if_neg (by omega), if_neg (by simp [hlo, hhi])]
  simp [hlo, hhi]

/-- R81, R336: an offset above 3 ticks clears LOCKED. -/
theorem steer_drift {a b : Int} (h : b < -96 ∨ 96 < b) (p : Bool) (s : State) : (steer a b p s).tk.locked = false := by
  unfold steer
  dsimp only
  rw [if_pos h]
  exact lockLost_locked (.inl rfl) ..

/-- R336: a parent that is not locked clears LOCKED. -/
theorem steer_parent (a b : Int) (s : State) : (steer a b false s).tk.locked = false := by
  unfold steer
  dsimp only
  split
  · exact lockLost_locked (.inl rfl) ..
  · rw [if_pos (by simp)]
    exact lockLost_locked (.inr rfl) ..

/-- Settles O31: each command by the tests it makes; the steering by the size of the offset. -/
theorem tickSynchronisation : Obligations.TickSynchronisation := by
  unfold Obligations.TickSynchronisation
  intro s u f t2 t3 t4 t l k
  refine ⟨?_, ?_, fun offp offm he hg hk h1 ht1 hp hm hu => ⟨fun hacq => ?_, fun hacq hl hma => ?_, fun hacq hlm => ?_⟩,
    fun a b p => ⟨steer_ppm a b p s, ?_, fun h => steer_drift h p s, ?_⟩, fun he hmiss hacq hlock => ?_, fun hen hctx hup => ?_,
    fun hbusy => ?_, fun hen hctx hup => ?_, fun hen ht => ?_, fun hsrc hacq hlen => ?_⟩
  · rintro ph n hp he ht hr rfl hup rfl
    have hmissed : (if s.kl.t1.isSome then s.kl.missed + 1 else s.kl.missed) = if s.kl.t1 = none then s.kl.missed else s.kl.missed + 1 := by
      cases s.kl.t1 <;> rfl
    change done (match tickReqDue s with | none => s | some l => tickReqSend ph l s) = _
    rw [tickReqDue_some hp he ht hr hup, ← hmissed]
    rfl
  · rintro hen hg hk h0 rfl hup
    change done (if _ then _ else s) = _
    rw [if_pos ⟨hen, hg, hk, h0, hup⟩]
    rfl
  · rw [exec_tickReply he hg hk h1 ht1 hp hm hu, if_neg (ne_true_of_eq_false hacq)]
    rfl
  · rw [exec_tickReply he hg hk h1 ht1 hp hm hu, if_pos hacq, if_pos (by simp [hl, hma])]
    rfl
  · rw [exec_tickReply he hg hk h1 ht1 hp hm hu, if_pos hacq, if_neg (by
      rw [← Bool.not_or, hlm]
      simp)]
    rfl
  · rintro hlo hhi rfl
    exact steer_good hlo hhi s
  · rintro rfl
    exact steer_parent a b s
  · change done (if _ then _ else s) = _
    rw [if_pos ⟨he, .inl hmiss⟩]
    dsimp only
    rw [if_neg (ne_true_of_eq_false hacq), lockLost, if_pos hlock]
    rfl
  · change done (acquire s) = _
    rw [acquire, checked_passes ((firstReason_none _).mpr (by simp [hen, hctx, hup]))]
    rfl
  · change done (acquire s) = _
    rw [acquire, checked_fails (r := 0x020B) (by rw [firstReason, if_pos (by simpa using hbusy)])]
    rfl
  · change done (acquire s) = _
    rw [acquire, checked_fails (r := 0x0704) (by simp [firstReason, hen, hctx, hup])]
    rfl
  · change done (syncOutRise s) = _
    rw [syncOutRise, if_pos ⟨hen, ht⟩]
    rfl
  · have he : exchanging s = true := by simp [exchanging, hacq]
    change done (if _ then _ else s) = _
    rw [if_pos ⟨hsrc, he⟩, if_pos hacq]
    dsimp only
    rw [if_neg (by simpa using hlen)]
    rfl

end Sys2Proof.Machine
end

section
/-!
The Sepia cores (O33): what one instruction of a core does, its uncached access and its interrupts.
-/
namespace Sys2Proof.Machine

-- One instruction of a core (R372)
/-- A core that does not sleep stands as it is while its instruction is looked up. -/
theorem Core.awake_self {k : Core} (h : k.wfi = false) : { k with wfi := false } = k := by
  cases k
  cases h
  rfl

/-- The turn of a core that is awake: the interrupt it takes, else what it fetches at its pc. -/
def coreTurn (c : Nat) (k : Core) (s : State) : State :=
  match softIrq s c with
  | some cause => trapTo c cause 0 s
  | none =>
    match fetch16 c k.pc s with
    | .miss s => s
    | .fault s => afterInstr c 0 (trapTo c 1 k.pc s)
    | .got h s =>
      if fld h 0 2 = 3 then
        match fetch16 c (k.pc + 2) s with
        | .miss s => s
        | .fault s => afterInstr c 0 (trapTo c 1 (k.pc + 2) s)
        | .got h2 s => runWord c (h2 ++ h) 4 s
      else match expand h with
      | some w => runWord c w 2 s
      | none => afterInstr c 0 (trapTo c 2 (h.setWidth 32) s)

/-- A core that runs, waits for no uncached access and does not sleep has its turn. -/
theorem coreInstr_runs {s : State} {c : Nat} (hr : coreRuns s c = true) (hu : (s.coreAt c).uncached = none)
    (hw : (s.coreAt c).wfi = false) : coreInstr c s = coreTurn c (s.coreAt c) (s.setCore c (s.coreAt c)) := by
  have hturn : coreInstr c s =
      if !coreRuns s c || (s.coreAt c).uncached.isSome then s
      else if (s.coreAt c).wfi && (mipOf s c &&& (s.coreAt c).mie) = 0 then s
      else coreTurn c { s.coreAt c with wfi := false } (s.setCore c { s.coreAt c with wfi := false }) := rfl
  rw [hturn, Core.awake_self hw, if_neg (by simp [hr, hu]), if_neg (by simp [hw])]

-- An instruction that retires
/-- After an instruction no comparator marked, on a core that does not step, nothing follows. -/
theorem afterInstr_quiet {s : State} {c : Nat} (tval : W32) (hc : (s.dcoreAt c).cause ≠ 7) (hs : (s.coreAt c).stepping = false) :
    afterInstr c tval s = s := by
  simp only [afterInstr, if_neg hc, hs, Bool.false_eq_true, if_false]

/-- An instruction past its execute comparators, which is no debug EBREAK, goes as `execRv` says. -/
theorem runWord_retires {s t : State} {c : Nat} {w len pc : W32} (hk : (s.coreAt c).skipCmp = true)
    (hb : isEbreakDbg c w s = false) (he : execRv c w len s = .ok pc t) :
    runWord c w len s = afterInstr c pc (t.setCore c { (t.coreAt c).retire pc with skipCmp := false }) := by
  simp only [runWord, hk, hb, he, Bool.false_and, Bool.false_eq_true, if_false, if_true]

-- Uncached accesses (R376, R378, R384)
/-- A word access of a core that the bus takes: it is sent once, and settled as the access answers. -/
theorem uncachedAccess_word {s s1 : State} {c : BitVec 3} {u : Uncached} (hu : (s.coreAt c.toNat).uncached = some u)
    (hs : u.sent = false) (hb : busUp s = true) (hf : u.funct3 = 2)
    (h1 : s1 = s.setCore c.toNat { s.coreAt c.toNat with uncached := some { u with sent := true } }) :
    exec (.uncachedAccess c) s = .next (settle (agCore c.toNat) s
      (if u.wr then memWrite (agCore c.toNat) u.addr 4 u.v s1 else memRead (agCore c.toNat) u.addr 4 s1)) := by
  have hw : (if u.funct3.toNat % 4 = 0 then 1 else if u.funct3.toNat % 4 = 1 then 2 else 4) = 4 := by rw [hf]; rfl
  subst h1
  change done (match (s.coreAt c.toNat).uncached with | none => _ | some u => _) = _
  simp only [hu, hs, hb, hw, Bool.not_true, Bool.or_self, Bool.false_eq_true, if_false]
  rfl

/-- Settles O33: one lemma per course of an instruction, and the arms of the uncached access, its response, the external
interrupt and the timer comparison. -/
theorem sepiaCores : Obligations.SepiaCores := by
  unfold Obligations.SepiaCores
  rintro s s0 s1 s2 t c k rfl
  refine ⟨?_, ?_, ?_, ?_, ?_, ?_, ?_⟩
  · rintro hr hu hw rfl
    have hexec : exec (.coreInstruction c) s = .next (coreTurn c.toNat (s.coreAt c.toNat) (s.setCore c.toNat (s.coreAt c.toNat))) :=
      congrArg done (coreInstr_runs hr hu hw)
    refine ⟨?_, ?_, ?_, ?_⟩
    · intro cause hi
      simp only [hexec, coreTurn, hi]
    · intro h h2 hi hf hl hf2
      simp only [hexec, coreTurn, hi, hf, if_pos hl, hf2]
    · intro h w hi hf hl he
      simp only [hexec, coreTurn, hi, hf, if_neg hl, he]
    · intro hi hf
      simp only [hexec, coreTurn, hi, hf]
  · rintro w len pc hk hb he hc - u rfl hs
    exact (runWord_retires hk hb he).trans (afterInstr_quiet pc hc hs)
  · intro u hu hs hb h1
    refine ⟨?_, ?_⟩
    · intro d hr hf hm
      rw [uncachedAccess_word hu hs hb hf h1, if_neg (Bool.eq_false_iff.mp hr), hm, settle]
    · intro d hr hf hm
      rw [uncachedAccess_word hu hs hb hf h1, if_pos hr, hm, settle]
  · intro u d hu hd
    simp only [exec, execUncachedAccessResponse, hu, hd, if_true]
    rfl
  · rintro u d hu hd rfl
    simp only [exec, execUncachedAccessResponse, hu, hd, Bool.false_eq_true, if_false]
    rfl
  · intro hr hu hs he hm hi
    change done (if _ then _ else _) = _
    rw [if_pos]
    · rfl
    · have hmode : (!(s.coreAt c.toNat).mmode || bit (s.coreAt c.toNat).mstatus 3) = true := by
        cases hx : (s.coreAt c.toNat).mmode with
        | false => rfl
        | true => exact hi hx
      simp only [hr, hu, hs, he, hm, hmode, Option.isNone_none, Bool.not_false, Bool.and_self]
  · intro hle
    change done (if _ then _ else _) = _
    rw [if_pos hle]
    rfl

end Sys2Proof.Machine
end
